-- ==== Sys2Proof/Word.lean ====
section
/-! DEFINITION. The word types of the D4 and their plainest arithmetic (00 R1). -/
namespace Sys2Proof

/-- A byte of memory. -/
abbrev Byte := BitVec 8
/-- A 32-bit general register or syllable. -/
abbrev Word := BitVec 32
/-- A 64-bit pair, address or control register. -/
abbrev Dword := BitVec 64
/-- A register number g0 to g255. -/
abbrev Reg := BitVec 8

/-- Round `n` up to a multiple of `k` (R280, R310). -/
def roundUp (n k : Nat) : Nat := (n + k - 1) / k * k

end Sys2Proof
end

