-- ==== Sys2Proof/Syntax.lean ====
section
/-! DEFINITION. The syntax of Seruf: one constructor of `Instr` for every row of the opcode table, the 282 instructions
(03 R42 to R58) and the 58 events that agents other than a thread bring about (spec/95). -/
namespace Sys2Proof

/-- Integer types (R47), in ITYPE order. -/
inductive IType where
  | i8 | i16 | i32 | i64 | n8 | n16 | n32 | n64
  deriving DecidableEq, Repr, Inhabited

/-- Number formats (R113), in TYPE5 order. -/
inductive Fmt where
  | f64 | f32 | f19 | bf16 | f16 | e4m3 | e5m2 | e3m4 | e2m5 | e3m2 | e2m3 | e2m1 | e1m2 | e8m0
  | i32 | i16 | i8 | n8 | i4 | n4 | i2 | b1 | e6m1 | q7 | pf (k : BitVec 3)
  deriving DecidableEq, Repr, Inhabited

/-- Rounding modes (R46, R122), in RND order. -/
inductive Rnd where
  | rn | rz | rp | rm | ra | rs | ro | dyn
  deriving DecidableEq, Repr, Inhabited

/-- Saturation (R46). -/
inductive Sat where
  | none | sat | sati
  deriving DecidableEq, Repr, Inhabited

/-- Scopes (R19), in SCOPE order. -/
inductive Scope where
  | th | grp | core | quad | die | dev | host | fab
  deriving DecidableEq, Repr, Inhabited

/-- Address spaces (R48, R171). -/
inductive Space where
  | glb | scr | prv | par
  deriving DecidableEq, Repr, Inhabited

/-- Orderings (R48, R49). -/
inductive Ord where
  | rlx | acq | rel | ar
  deriving DecidableEq, Repr, Inhabited

/-- Data types of the SYNC layout (R49). -/
inductive DType where
  | n32 | i32 | n64 | i64 | f32 | f64 | bf16x2 | n128
  deriving DecidableEq, Repr, Inhabited

/-- Comparison conditions (R52). -/
inductive Cond where
  | eq | ne | lt | le | gt | ge | un | ord
  deriving DecidableEq, Repr, Inhabited

/-- The guarding predicate of an instruction (R78). -/
structure Guard where
  p : BitVec 3
  pn : Bool
  deriving DecidableEq, Repr, Inhabited

/-- Operand fields of an S32 instruction (R42). -/
structure SOps where
  g : Guard
  fa : Bool
  fb : Bool
  d : BitVec 6
  a : BitVec 6
  b : BitVec 6
  deriving DecidableEq, Repr, Inhabited

/-- Operand fields of an L64 (`lit = none`) or W96 (`lit = some LIT32`) instruction (R43). -/
structure LOps where
  g : Guard
  fa : Bool
  fb : Bool
  fc : Bool
  d : Reg
  a : Reg
  b : Reg
  c : Reg
  lit : Option Word
  deriving DecidableEq, Repr, Inhabited

/-- MOD15 in the CONTROL layout (R50). -/
structure CtlMod where
  sub : BitVec 4
  sel : BitVec 8
  deriving DecidableEq, Repr, Inhabited

/-- MOD15 in the INTEGER layout (R47). -/
structure IntMod where
  sub : BitVec 4
  cp : BitVec 3
  sat : Bool
  ty : IType
  deriving DecidableEq, Repr, Inhabited

/-- MOD15 in the ARITH layout (R46). -/
structure FpMod where
  sub : BitVec 4
  ftz : Bool
  sat : Sat
  rnd : Rnd
  ty : Fmt
  deriving DecidableEq, Repr, Inhabited

/-- MOD15 in the MEMORY layout (R48); `size` is the SIZE code. -/
structure MemMod where
  space : Space
  size : BitVec 3
  evict : BitVec 3
  scope : Scope
  ord : Ord
  deriving DecidableEq, Repr, Inhabited

/-- MOD15 in the SYNC layout (R49). -/
structure SyncMod where
  sub : BitVec 4
  space : Space
  ty : DType
  scope : Scope
  ord : Ord
  deriving DecidableEq, Repr, Inhabited

/-- MOD15 in the ENGINE layout (R51); `gs = none` is the code 31. -/
structure EngMod where
  sub : BitVec 2
  scope : Scope
  ty : Fmt
  gs : Option (BitVec 4)
  deriving DecidableEq, Repr, Inhabited

/-- Fields of an N256 instruction (R53). `ext` holds the five EXT fields, `str` the fifteen STRIDES fields and `ssh`
the three SSH fields, each lowest first; `gs = none` is the code 31. -/
structure NestOps where
  g : Guard
  ty : Fmt
  rnd : Rnd
  db : BitVec 7
  ab : BitVec 7
  bb : BitVec 7
  gs : Option (BitVec 4)
  nlev : BitVec 3
  ext : BitVec 50
  str : BitVec 150
  ssh : BitVec 6
  deriving DecidableEq, Repr, Inhabited

/-- Where the dispatcher places one group (R306): global core number (die × 64 + core), partition, and the k of R63. -/
structure Place where
  core : Nat
  part : Nat
  k : Nat
  deriving DecidableEq, Repr, Inhabited

/-- A parcel on its way over a peer link (R337): source chip, destination window and key, log size, bytes and map. -/
structure ParcelImage where
  src : BitVec 16
  win : Nat
  key : Word
  lsz : Nat
  bytes : List (Nat × Byte)
  map : List Nat
  deriving DecidableEq, Repr, Inhabited

/-- The kinds of remote operation (R348); a read names the size of its access, 1 for one of a block (R351). -/
inductive RemoteKind where
  | wr | wri | rd (size : Nat) | atom (op : Nat) (ty : DType)
  deriving DecidableEq, Repr, Inhabited

/-- A remote operation as it arrives at its target window (R347): window, key, offset, length, data or operand,
immediate and source chip. -/
structure RemoteOp where
  kind : RemoteKind
  win : Nat
  key : Word
  off : Nat
  len : Nat
  data : List Byte
  imm : Word
  src : BitVec 16
  deriving DecidableEq, Repr, Inhabited

/-- A link-state update (R395). -/
structure LinkUpdate where
  chip : BitVec 16
  port : Nat
  live : Bool
  seq : Word
  deriving DecidableEq, Repr, Inhabited

/-- The envelope registers firmware may narrow (R400); a write of ENVCXL carries the host ranges that are left, as base and size. -/
inductive EnvReg where
  | pow | inj
  | cxl (ranges : List (Nat × Nat))
  deriving DecidableEq, Repr, Inhabited

/-- What the host reads: the line of an address (R188), the Galliard counters of a die (R394), the inventory of a die's cores (R15), ENVCXL
(R400), the certificate of a die (R407), the size of the parcel heap (R331), the events that a virtual interface's ring has dropped (R405), or whether a die's image has
failed to verify (R406). -/
inductive HostSource where
  | memory (pa : Nat)
  | galliard (die : Nat)
  | inventory (die : Nat)
  | envCxl
  | certificate (die : Nat)
  | heap
  | dropped (vif : Nat)
  | boot (die : Nat)
  deriving DecidableEq, Repr, Inhabited

/-- A protected word that an error strikes (R398): of memory or a Thatch, by its address; of a line in the L2 of a die; a register pair of a thread; a word of a scratchpad or of an L1 line
in a core store; an accumulator, a slate, an entry of the tile table or of a TLB of a core or a die; or one bit of a line in an instruction cache. -/
inductive Struck where
  | memory (pa : Nat)
  | l2 (die pa : Nat)
  | regs (uid pair : Nat)
  | scratch (gang core word : Nat)
  | l1 (core word : Nat)
  | acc (core id : Nat)
  | slate (core n : Nat)
  | tile (core id : Nat)
  | tlb (core : Nat) (asid : Word) (page : Nat)
  | dieTlb (die : Nat) (asid : Word) (page : Nat)
  | code (core line bit : Nat)
  deriving DecidableEq, Repr, Inhabited

/-- What a replay brings (R394): the last byte stored at each address, and the bytes of the emitted records by `sr.tid`, each thread's in emit order. -/
structure ReplayOut where
  stores : List (Nat × Byte)
  records : List (Nat × List Byte)
  deriving DecidableEq, Repr, Inhabited

/-- A replay that has ended (R394): the core that ran it, and what it brings, or none where it was abandoned. -/
structure Replay where
  core : Nat
  out : Option ReplayOut
  deriving DecidableEq, Repr, Inhabited

/-- Every row of the opcode table. The first 45 constructors are the S32 forms, then the L64 and W96 instructions in
opcode order, the N256 instructions, and the events. -/
inductive Instr where
  | nop (o : LOps) (m : CtlMod)
  | bra (o : LOps) (m : CtlMod)
  | jmp (o : LOps) (m : CtlMod)
  | call (o : LOps) (m : CtlMod)
  | calli (o : LOps) (m : CtlMod)
  | ret (o : LOps) (m : CtlMod)
  | exit (o : LOps) (m : CtlMod)
  | yield (o : LOps) (m : CtlMod)
  | conv (o : LOps) (m : CtlMod)
  | barGrp (o : LOps) (m : CtlMod)
  | guardSet (o : LOps) (m : CtlMod)
  | guardClr (o : LOps) (m : CtlMod)
  | plog (o : LOps) (m : CtlMod)
  | pmovRd (o : LOps) (m : CtlMod)
  | pmovWr (o : LOps) (m : CtlMod)
  | sread (o : LOps) (m : CtlMod)
  | swrite (o : LOps) (m : CtlMod)
  | brdec (o : LOps) (m : CtlMod)
  | brv (o : LOps) (m : CtlMod)
  | nap (o : LOps) (m : CtlMod)
  | ipref (o : LOps) (m : CtlMod)
  | feSet (o : LOps) (m : CtlMod)
  | feTest (o : LOps) (m : CtlMod)
  | add (o : LOps) (m : IntMod)
  | sub (o : LOps) (m : IntMod)
  | addc (o : LOps) (m : IntMod)
  | subb (o : LOps) (m : IntMod)
  | mul (o : LOps) (m : IntMod)
  | mulh (o : LOps) (m : IntMod)
  | mad (o : LOps) (m : IntMod)
  | div (o : LOps) (m : IntMod)
  | rem (o : LOps) (m : IntMod)
  | min (o : LOps) (m : IntMod)
  | max (o : LOps) (m : IntMod)
  | abs (o : LOps) (m : IntMod)
  | neg (o : LOps) (m : IntMod)
  | and (o : LOps) (m : IntMod)
  | or (o : LOps) (m : IntMod)
  | xor (o : LOps) (m : IntMod)
  | andn (o : LOps) (m : IntMod)
  | shl (o : LOps) (m : IntMod)
  | shr (o : LOps) (m : IntMod)
  | sar (o : LOps) (m : IntMod)
  | rot (o : LOps) (m : IntMod)
  | bfx (o : LOps) (m : IntMod)
  | bfi (o : LOps) (m : IntMod)
  | popc (o : LOps) (m : IntMod)
  | clz (o : LOps) (m : IntMod)
  | brev (o : LOps) (m : IntMod)
  | cmp (o : LOps) (m : IntMod)
  | sel (o : LOps) (m : IntMod)
  | mov (o : LOps) (m : IntMod)
  | lea (o : LOps) (m : IntMod)
  | fpAdd (o : LOps) (m : FpMod)
  | fpSub (o : LOps) (m : FpMod)
  | fpMul (o : LOps) (m : FpMod)
  | fma (o : LOps) (m : FpMod)
  | fms (o : LOps) (m : FpMod)
  | fnma (o : LOps) (m : FpMod)
  | fnms (o : LOps) (m : FpMod)
  | fpDiv (o : LOps) (m : FpMod)
  | sqrt (o : LOps) (m : FpMod)
  | fpMin (o : LOps) (m : FpMod)
  | fpMax (o : LOps) (m : FpMod)
  | fpAbs (o : LOps) (m : FpMod)
  | fpNeg (o : LOps) (m : FpMod)
  | cpysgn (o : LOps) (m : FpMod)
  | fpCmp (o : LOps) (m : FpMod)
  | fclass (o : LOps) (m : FpMod)
  | rint (o : LOps) (m : FpMod)
  | scale (o : LOps) (m : FpMod)
  | getexp (o : LOps) (m : FpMod)
  | cvt (o : LOps) (m : FpMod)
  | cvti (o : LOps) (m : FpMod)
  | cvtf (o : LOps) (m : FpMod)
  | padd (o : LOps) (m : FpMod)
  | pmul (o : LOps) (m : FpMod)
  | pfma (o : LOps) (m : FpMod)
  | pdot (o : LOps) (m : FpMod)
  | pcvt (o : LOps) (m : FpMod)
  | pmax (o : LOps) (m : FpMod)
  | shfl (o : LOps) (m : FpMod)
  | bcast (o : LOps) (m : FpMod)
  | vote (o : LOps) (m : FpMod)
  | laneRed (o : LOps) (m : FpMod)
  | laneScan (o : LOps) (m : FpMod)
  | laneChain (o : LOps) (m : FpMod)
  | matchAny (o : LOps) (m : FpMod)
  | rcp (o : LOps) (m : FpMod)
  | rsq (o : LOps) (m : FpMod)
  | exp2 (o : LOps) (m : FpMod)
  | log2 (o : LOps) (m : FpMod)
  | sin (o : LOps) (m : FpMod)
  | cos (o : LOps) (m : FpMod)
  | tanh (o : LOps) (m : FpMod)
  | ssync (o : LOps) (m : FpMod)
  | ld (o : LOps) (m : MemMod)
  | ldSignExtend (o : LOps) (m : MemMod)
  | st (o : LOps) (m : MemMod)
  | ldu (o : LOps) (m : MemMod)
  | stz (o : LOps) (m : MemMod)
  | stm (o : LOps) (m : MemMod)
  | pref (o : LOps) (m : MemMod)
  | prefCnt (o : LOps) (m : MemMod)
  | cctl (o : LOps) (m : MemMod)
  | cdisc (o : LOps) (m : MemMod)
  | salloc (o : LOps) (m : MemMod)
  | sfree (o : LOps) (m : MemMod)
  | probe (o : LOps) (m : MemMod)
  | atom (o : LOps) (m : SyncMod)
  | atomFloat (o : LOps) (m : SyncMod)
  | atomCas (o : LOps) (m : SyncMod)
  | red (o : LOps) (m : SyncMod)
  | redFloat (o : LOps) (m : SyncMod)
  | fence (o : LOps) (m : SyncMod)
  | waitVal (o : LOps) (m : SyncMod)
  | ldLink (o : LOps) (m : SyncMod)
  | stCond (o : LOps) (m : SyncMod)
  | barInit (o : LOps) (m : SyncMod)
  | barArrive (o : LOps) (m : SyncMod)
  | barWait (o : LOps) (m : SyncMod)
  | barSync (o : LOps) (m : SyncMod)
  | barTest (o : LOps) (m : SyncMod)
  | barDrop (o : LOps) (m : SyncMod)
  | chkInjectEarly (o : LOps) (m : CtlMod)
  | chkInjectHash (o : LOps) (m : CtlMod)
  | chkInjectSkip (o : LOps) (m : CtlMod)
  | chkInjectDup (o : LOps) (m : CtlMod)
  | chkRead (o : LOps) (m : CtlMod)
  | chkSync (o : LOps) (m : CtlMod)
  | chkClear (o : LOps) (m : CtlMod)
  | chkSample (o : LOps) (m : CtlMod)
  | mma (o : LOps) (m : EngMod)
  | mmaJ (o : LOps) (m : EngMod)
  | mmaF64 (o : LOps) (m : EngMod)
  | slateLd (o : LOps) (m : EngMod)
  | slateSp (o : LOps) (m : EngMod)
  | slateRel (o : LOps) (m : EngMod)
  | epi (o : LOps) (m : EngMod)
  | accRd (o : LOps) (m : EngMod)
  | accWr (o : LOps) (m : EngMod)
  | accZero (o : LOps) (m : EngMod)
  | accZeroFree (o : LOps) (m : EngMod)
  | mstat (o : LOps) (m : EngMod)
  | mstatNow (o : LOps) (m : EngMod)
  | mreset (o : LOps) (m : EngMod)
  | tcopy (o : LOps) (m : EngMod)
  | tstore (o : LOps) (m : EngMod)
  | twait (o : LOps) (m : EngMod)
  | tstate (o : LOps) (m : EngMod)
  | tdef (o : LOps) (m : EngMod)
  | tfree (o : LOps) (m : EngMod)
  | tfill (o : LOps) (m : EngMod)
  | tmov (o : LOps) (m : EngMod)
  | tcancel (o : LOps) (m : EngMod)
  | emit (o : LOps) (m : CtlMod)
  | emitTry (o : LOps) (m : CtlMod)
  | launchJob (o : LOps) (m : CtlMod)
  | cancel (o : LOps) (m : CtlMod)
  | quiesce (o : LOps) (m : CtlMod)
  | resume (o : LOps) (m : CtlMod)
  | nodeCtlOff (o : LOps) (m : CtlMod)
  | nodeCtlOn (o : LOps) (m : CtlMod)
  | nodeCtlFlush (o : LOps) (m : CtlMod)
  | regionNew (o : LOps) (m : CtlMod)
  | regionFree (o : LOps) (m : CtlMod)
  | qstat (o : LOps) (m : CtlMod)
  | pclNew (o : LOps) (m : SyncMod)
  | pclFree (o : LOps) (m : SyncMod)
  | seal (o : LOps) (m : SyncMod)
  | post (o : LOps) (m : SyncMod)
  | postNb (o : LOps) (m : SyncMod)
  | accept (o : LOps) (m : SyncMod)
  | acceptTry (o : LOps) (m : SyncMod)
  | acceptBack (o : LOps) (m : SyncMod)
  | pclStat (o : LOps) (m : SyncMod)
  | rmaReg (o : LOps) (m : SyncMod)
  | rmaDereg (o : LOps) (m : SyncMod)
  | rmaWr (o : LOps) (m : SyncMod)
  | rmaWri (o : LOps) (m : SyncMod)
  | rmaRd (o : LOps) (m : SyncMod)
  | rmaRdBlk (o : LOps) (m : SyncMod)
  | rmaAtom (o : LOps) (m : SyncMod)
  | noteWait (o : LOps) (m : SyncMod)
  | noteTry (o : LOps) (m : SyncMod)
  | stPref (o : LOps) (m : MemMod)
  | ldPref (o : LOps) (m : MemMod)
  | coll (o : LOps) (m : SyncMod)
  | collWait (o : LOps) (m : SyncMod)
  | timeRd (o : LOps) (m : SyncMod)
  | trigAt (o : LOps) (m : SyncMod)
  | waitUntil (o : LOps) (m : SyncMod)
  | hops (o : LOps) (m : SyncMod)
  | trap (o : LOps) (m : CtlMod)
  | trapRet (o : LOps) (m : CtlMod)
  | preemptDone (o : LOps) (m : CtlMod)
  | dbgBrk (o : LOps) (m : CtlMod)
  | invRange (o : LOps) (m : CtlMod)
  | invAsid (o : LOps) (m : CtlMod)
  | ctxSave (o : LOps) (m : CtlMod)
  | ctxSaveNow (o : LOps) (m : CtlMod)
  | ctxLoad (o : LOps) (m : CtlMod)
  | dbgHalt (o : LOps) (m : CtlMod)
  | dbgHaltArm (o : LOps) (m : CtlMod)
  | dbgHaltDisarm (o : LOps) (m : CtlMod)
  | dbgHaltQry (o : LOps) (m : CtlMod)
  | dbgStep (o : LOps) (m : CtlMod)
  | dbgResume (o : LOps) (m : CtlMod)
  | vdtLd (o : LOps) (m : CtlMod)
  | envRd (o : LOps) (m : CtlMod)
  | logRd (o : LOps) (m : CtlMod)
  | mchkRd (o : LOps) (m : CtlMod)
  | sysIdle (o : LOps) (m : CtlMod)
  | nopS32 (o : SOps)
  | exitS32 (o : SOps)
  | yieldS32 (o : SOps)
  | convS32 (o : SOps)
  | retS32 (o : SOps)
  | barGrpS32 (o : SOps)
  | guardSetS32 (o : SOps)
  | guardClrS32 (o : SOps)
  | plogAndS32 (o : SOps)
  | plogOrS32 (o : SOps)
  | plogXorS32 (o : SOps)
  | plogAndnS32 (o : SOps)
  | twaitS32 (o : SOps)
  | tstateS32 (o : SOps)
  | dbgBrkS32 (o : SOps)
  | ssyncS32 (o : SOps)
  | addI32S32 (o : SOps)
  | subI32S32 (o : SOps)
  | mulI32S32 (o : SOps)
  | andN32S32 (o : SOps)
  | orN32S32 (o : SOps)
  | xorN32S32 (o : SOps)
  | shlN32S32 (o : SOps)
  | shrN32S32 (o : SOps)
  | sarI32S32 (o : SOps)
  | minI32S32 (o : SOps)
  | maxI32S32 (o : SOps)
  | minN32S32 (o : SOps)
  | maxN32S32 (o : SOps)
  | movN32S32 (o : SOps)
  | cmpI32S32 (o : SOps)
  | cmpN32S32 (o : SOps)
  | addF32S32 (o : SOps)
  | subF32S32 (o : SOps)
  | mulF32S32 (o : SOps)
  | minF32S32 (o : SOps)
  | maxF32S32 (o : SOps)
  | cmpF32S32 (o : SOps)
  | addF64S32 (o : SOps)
  | subF64S32 (o : SOps)
  | mulF64S32 (o : SOps)
  | rcpF32S32 (o : SOps)
  | rsqF32S32 (o : SOps)
  | exp2F32S32 (o : SOps)
  | log2F32S32 (o : SOps)
  | nestCopy (o : NestOps)
  | nestFill (o : NestOps)
  | nestCvt (o : NestOps)
  | nestAdd (o : NestOps)
  | nestSub (o : NestOps)
  | nestMul (o : NestOps)
  | nestFma (o : NestOps)
  | nestMin (o : NestOps)
  | nestMax (o : NestOps)
  | nestAbs (o : NestOps)
  | nestNeg (o : NestOps)
  | nestScale (o : NestOps)
  | nestRelu (o : NestOps)
  | nestExp2 (o : NestOps)
  | nestTanh (o : NestOps)
  | nestRcp (o : NestOps)
  | nestRsq (o : NestOps)
  | nestSum (o : NestOps)
  | nestSumsq (o : NestOps)
  | nestRmax (o : NestOps)
  | nestRmin (o : NestOps)
  | nestDot (o : NestOps)
  | nestArgmax (o : NestOps)
  | nestScan (o : NestOps)
  | instructionLineFill (uid : Nat) (va : Dword)
  | longLatencyArrival (uid k : Nat)
  | napExpiry (uid : Nat)
  | watchdogExpiry (uid : Nat)
  | handlerTimeLimit (uid : Nat)
  | pageRequestResponse (k : Nat) (ok : Bool)
  | releaseConfirm (k : Nat)
  | handoverRecord (k : Nat)
  | hostRead (src : HostSource)
  | hostWrite (pa : Nat) (bytes : List Byte)
  | atsInvalidationRequest (pasid : BitVec 20) (base len : Nat)
  | streamInstructionComplete (core : Nat)
  | copyCommandStart (core : Nat)
  | copyCommandComplete (core k : Nat)
  | matrixCommandExecute (core : Nat)
  | gangPlacement (die : Nat) (place : List Place)
  | gangEnd (gang : Nat)
  | batchTimerSeal (k : Nat)
  | dealChunk (card : Nat)
  | cancelGraceExpiry (region : Nat)
  | jokebryPreemptRequest (vif : Nat)
  | preemptionTrap (uid : Nat)
  | lightSave (gang : Nat)
  | preemptionGraceExpiry (gang : Nat)
  | savedGangResume (gang : Nat) (place : List Place)
  | parcelArrival (p : ParcelImage)
  | deliveryConfirmed (num : Nat)
  | deliveryFailed (num : Nat) (status : Word)
  | remoteOperationArrival (op : RemoteOp)
  | rmaCompletion (k : Nat) (status : Word) (data : List Byte)
  | collectiveRoundComplete (k : Nat) (status : Word) (sends : List (List Byte))
  | collectiveTimeout (k : Nat)
  | flitReceive (port : Nat) (crcOk : Bool)
  | linkIdleTimeout (port : Nat)
  | linkStateUpdate (u : LinkUpdate)
  | drainRoundEnd (k : Nat)
  | linkStateEvent (k : Nat)
  | linkRetrain (port : Nat) (ok : Bool)
  | triggerTick (core : Nat)
  | waitUntilReached (uid : Nat)
  | waitValTimeout (uid : Nat)
  | doorbellRing (vif : Nat) (bell : BitVec 5)
  | sysIdleTimeLimit (uid : Nat)
  | auditReplayComplete (die : Nat) (replay : Replay)
  | scrubPass (die : Nat)
  | thermalCritical
  | envelopeWrite (reg : EnvReg) (value : Nat)
  | firmwareUpdate (die : Nat) (verified : Bool) (version : Word)
  | dieBoot (die : Nat) (verified : Bool) (version : Word)
  | attestationRequest (die : Nat) (nonce : List Byte)
  | rootRcbCreation (vif : Nat) (image : List Byte)
  | jokebryRegisterWrite (vif : Nat) (reg : Nat) (value : Nat)
  | storePerforms (k : Nat)
  | cxlCacheSnoop (pa : Nat) (invalidate : Bool)
  | softError (at_ : Struck) (correctable : Bool)
  | powerRemoval
  | hostAttachment (die : Nat) (mbase : Dword) (heap save : Nat)
  | cxlPortDown (die : Nat)
  deriving DecidableEq, Repr, Inhabited

end Sys2Proof
end

