-- ==== Sys2Proof/Machine/Operands.lean ====
section
/-! DEFINITION. The field tables of the instruction chapters (R57, R80, R101, R129, R147, R165, R191, R216, R244, R263, R289,
R321, R338, R348, R357, R359, R376): which forms each instruction has, what each operand field holds, and which modifier
values it accepts. Decoding (R60), the register budget, and the full/empty checks (R70) all read these tables. -/
namespace Sys2Proof

/-- A gang's format bank, PF0 to PF7 (R118). -/
abbrev FBank := Vector (BitVec 16) 8

/-- Fields of a programmable format descriptor (R118). -/
def pfSgn (x : BitVec 16) : Bool := x.getLsbD 0
def pfEb (x : BitVec 16) : Nat := (x.extractLsb' 1 3).toNat
def pfMb (x : BitVec 16) : Nat := (x.extractLsb' 4 3).toNat
def pfBias (x : BitVec 16) : Int := (x.extractLsb' 7 8).toInt
def pfSpec (x : BitVec 16) : Bool := x.getLsbD 15
def pfWidth (x : BitVec 16) : Nat := pfEb x + pfMb x + (if pfSgn x then 1 else 0)

/-- R119: the descriptor is valid. -/
def pfValid (x : BitVec 16) : Bool :=
  decide (1 ≤ pfWidth x ∧ pfWidth x ≤ 8 ∧ ¬(pfEb x = 0 ∧ pfMb x = 0) ∧ pfEb x ≤ 5)

/-- R119: the storage width of a descriptor: the smallest of 1, 2, 4 and 8 that holds it. -/
def pfStorage (x : BitVec 16) : Nat :=
  if pfWidth x ≤ 1 then 1 else if pfWidth x ≤ 2 then 2 else if pfWidth x ≤ 4 then 4 else 8

/-- Storage width in bits of a format (R113); `pf` gives the width of a programmable format. -/
def Fmt.storage (pf : BitVec 3 → Nat) : Fmt → Nat
  | .f64 => 64
  | .f32 | .f19 | .i32 => 32
  | .bf16 | .f16 | .i16 => 16
  | .e2m1 | .e1m2 | .i4 | .n4 => 4
  | .i2 => 2
  | .b1 => 1
  | .pf k => pf k
  | _ => 8

/-- Storage width with the descriptors of a bank. -/
def Fmt.bits (bank : FBank) (f : Fmt) : Nat := f.storage (fun k => pfStorage bank[k.toNat])

/-- The TYPE5 code of a format (R113). -/
def Fmt.code : Fmt → BitVec 5
  | .f64 => 0 | .f32 => 1 | .f19 => 2 | .bf16 => 3 | .f16 => 4 | .e4m3 => 5 | .e5m2 => 6 | .e3m4 => 7 | .e2m5 => 8
  | .e3m2 => 9 | .e2m3 => 10 | .e2m1 => 11 | .e1m2 => 12 | .e8m0 => 13 | .i32 => 14 | .i16 => 15 | .i8 => 16 | .n8 => 17
  | .i4 => 18 | .n4 => 19 | .i2 => 20 | .b1 => 21 | .e6m1 => 22 | .q7 => 23 | .pf k => 24 + k.setWidth 5

/-- The format a TYPE5 code names (R113). -/
def Fmt.ofCode (c : BitVec 5) : Fmt :=
  match c.toNat with
  | 0 => .f64 | 1 => .f32 | 2 => .f19 | 3 => .bf16 | 4 => .f16 | 5 => .e4m3 | 6 => .e5m2 | 7 => .e3m4 | 8 => .e2m5
  | 9 => .e3m2 | 10 => .e2m3 | 11 => .e2m1 | 12 => .e1m2 | 13 => .e8m0 | 14 => .i32 | 15 => .i16 | 16 => .i8 | 17 => .n8
  | 18 => .i4 | 19 => .n4 | 20 => .i2 | 21 => .b1 | 22 => .e6m1 | 23 => .q7 | _ => .pf (c.setWidth 3)

/-- The width of an integer type (R97). -/
def IType.width : IType → Nat
  | .i8 | .n8 => 8 | .i16 | .n16 => 16 | .i32 | .n32 => 32 | .i64 | .n64 => 64
def IType.signed : IType → Bool
  | .i8 | .i16 | .i32 | .i64 => true
  | _ => false
/-- Registers an operand of the type takes (R97). -/
def IType.regs (t : IType) : Nat := if t.width = 64 then 2 else 1

/-- The ITYPE code (R47) and its inverse. -/
def IType.code : IType → BitVec 3
  | .i8 => 0 | .i16 => 1 | .i32 => 2 | .i64 => 3 | .n8 => 4 | .n16 => 5 | .n32 => 6 | .n64 => 7
def IType.ofCode (c : BitVec 3) : IType :=
  match c.toNat with
  | 0 => .i8 | 1 => .i16 | 2 => .i32 | 3 => .i64 | 4 => .n8 | 5 => .n16 | 6 => .n32 | _ => .n64

/-- Registers an operand of a format takes (R129): a pair for F64. -/
def Fmt.regs : Fmt → Nat
  | .f64 => 2
  | _ => 1
/-- Type set S of R129. -/
def Fmt.inS : Fmt → Bool
  | .f64 | .f32 | .bf16 | .f16 => true
  | _ => false
/-- The float-like codes 0 to 13 and 22 to 31 of R139. -/
def Fmt.floatLike : Fmt → Bool
  | .i32 | .i16 | .i8 | .n8 | .i4 | .n4 | .i2 | .b1 => false
  | _ => true

/-- Registers an operand of a SYNC data type takes (R216). -/
def DType.regs : DType → Nat
  | .n32 | .i32 | .f32 | .bf16x2 => 1
  | .n64 | .i64 | .f64 => 2
  | .n128 => 4
/-- Bytes of a SYNC data type (R216). -/
def DType.bytes (t : DType) : Nat := 4 * t.regs
def DType.isInt : DType → Bool
  | .n32 | .i32 | .n64 | .i64 => true
  | _ => false
def DType.isFloat : DType → Bool
  | .f32 | .f64 | .bf16x2 => true
  | _ => false
def DType.signed : DType → Bool
  | .i32 | .i64 => true
  | _ => false

/-- The code of a scope (R19). -/
def Scope.code : Scope → Nat
  | .th => 0 | .grp => 1 | .core => 2 | .quad => 3 | .die => 4 | .dev => 5 | .host => 6 | .fab => 7

/-- Registers an access of SIZE code `n` takes (R191). -/
def sizeRegs (n : BitVec 3) : Nat := if n.toNat ≤ 2 then 1 else 2 ^ (n.toNat - 2)
/-- Registers the base of a memory operand takes (R26). -/
def Space.baseRegs : Space → Nat
  | .glb | .par => 2
  | .scr | .prv => 1

/-- What an operand field of an L64 or W96 instruction holds. -/
inductive Kind where
  | zero                 -- unused: must be zero (R43)
  | low (n : Nat)        -- a number below 2^n: predicate, slot, tile, handle, slate, code
  | reg (n : Nat)        -- n registers named but neither read nor waited for
  | src (n : Nat)        -- n source registers, aligned to n
  | part (n k : Nat)     -- a group aligned to n of which the first k are sources (R145)
  | opt                  -- a source pair, or 0 for none
  | dst (n : Nat)        -- n destination registers, aligned to n
  | free                 -- judged later, when the format bank is known (R61)
  deriving DecidableEq, Repr, Inhabited

/-- The role of LIT32 (R44). -/
inductive Role where
  | operand | offset | target | ignored
  deriving DecidableEq, Repr, Inhabited

/-- One row of an instruction table. -/
structure Shape where
  l64 : Bool := true
  w96 : Bool := false
  role : Role := .operand
  d : Kind := .zero
  a : Kind := .zero
  b : Kind := .zero
  c : Kind := .zero
  ok : Bool := true       -- the modifier values are among those accepted
  sys : Bool := false     -- privileged (R55)
  deriving DecidableEq, Repr, Inhabited

/-- The kind of field B in the form at hand: under the operand role of W96 the literal stands for B (R44). -/
def Shape.bKind (sh : Shape) (o : LOps) : Kind :=
  if o.lit.isSome ∧ sh.role = .operand then .zero else sh.b

/-- The registers a kind names, starting at register `r`. -/
def Kind.count : Kind → Nat
  | .reg n | .src n | .dst n => n
  | .part n _ => n
  | .opt => 2
  | _ => 0

/-- The static part of R60 for one field and its FE bit: the bit is free for a source register and zero for a field that names none, for a pair that is left out, and for
a register of which only the full bit is used (R95). DESIGN CHOICE (assumption 84). -/
def Kind.legal (k : Kind) (r : Reg) (fe : Bool) : Bool :=
  match k with
  | .zero => r == 0 && !fe
  | .low n => decide (r.toNat < 2 ^ n) && !fe
  | .reg n | .dst n => decide (r.toNat % n = 0) && !fe
  | .src n | .part n _ => decide (r.toNat % n = 0)
  | .opt => decide (r.toNat % 2 = 0) && !(r == 0 && fe)
  | .free => true

/-- R60: the form exists and every field is legal. -/
def Shape.legal (sh : Shape) (o : LOps) : Bool :=
  (if o.lit.isSome then sh.w96 else sh.l64) && sh.ok
    && sh.d.legal o.d false && sh.a.legal o.a o.fa && (sh.bKind o).legal o.b o.fb && sh.c.legal o.c o.fc

/-- R60: every named register lies below the role's budget. -/
def Kind.inBudget (k : Kind) (r : Reg) (budget : Nat) : Bool :=
  match k with
  | .opt => r == 0 || decide (r.toNat + 2 ≤ budget)
  | k => k.count == 0 || decide (r.toNat + k.count ≤ budget)

def Shape.inBudget (sh : Shape) (o : LOps) (budget : Nat) : Bool :=
  sh.d.inBudget o.d budget && sh.a.inBudget o.a budget && (sh.bKind o).inBudget o.b budget && sh.c.inBudget o.c budget

/-- A source operand: first register, count, and whether its policy traps on empty (R70). -/
structure Source where
  r : Reg
  n : Nat
  trap : Bool
  deriving DecidableEq, Repr

def Kind.source (k : Kind) (r : Reg) (fe : Bool) : List Source :=
  match k with
  | .src n => [⟨r, n, fe⟩]
  | .part _ n => [⟨r, n, fe⟩]
  | .opt => if r = 0 then [] else [⟨r, 2, fe⟩]
  | _ => []

/-- The sources of an instruction, in the order A, B, C. -/
def Shape.sources (sh : Shape) (o : LOps) : List Source :=
  sh.a.source o.a o.fa ++ (sh.bKind o).source o.b o.fb ++ sh.c.source o.c o.fc

/-- An S32 instruction's operands as the L64 operands R57 gives. -/
def SOps.long (o : SOps) : LOps :=
  { g := o.g, fa := o.fa, fb := o.fb, fc := false, d := o.d.setWidth 8, a := o.a.setWidth 8, b := o.b.setWidth 8, c := 0, lit := none }

def CtlMod.s (n : BitVec 4) : CtlMod := { sub := n, sel := 0 }
def IntMod.s (t : IType) : IntMod := { sub := 0, cp := 0, sat := false, ty := t }
def FpMod.s (t : Fmt) : FpMod := { sub := 0, ftz := false, sat := .none, rnd := .rn, ty := t }
/-- The modifier of `TWAIT` and `TSTATE`, whose GS field is 0 (R57, R289). -/
def EngMod.s : EngMod := { sub := 0, scope := .th, ty := .f64, gs := some 0 }

/-! ### Special registers (R92) -/

/-- The special registers. -/
inductive SReg where
  | tid | gid | gw | lane | part | core | vdie | cls | ord | recAddr | nrec | depth | time | region | fcr | fsr | stk | qturn
  | trapf | msk | asid | ptel | audit | wdog
  deriving DecidableEq, Repr, Inhabited

/-- R92: the numbering by SEL8. -/
def SReg.ofCode (c : BitVec 8) : Option SReg :=
  match c.toNat with
  | 0x00 => some .tid | 0x01 => some .gid | 0x02 => some .gw | 0x03 => some .lane | 0x04 => some .part | 0x05 => some .core
  | 0x06 => some .vdie | 0x07 => some .cls | 0x08 => some .ord | 0x09 => some .recAddr | 0x0A => some .nrec | 0x0B => some .depth
  | 0x0C => some .time | 0x0D => some .region | 0x0E => some .fcr | 0x0F => some .fsr | 0x10 => some .stk | 0x11 => some .qturn
  | 0x12 => some .trapf | 0x13 => some .msk | 0x80 => some .asid | 0x81 => some .ptel | 0x82 => some .audit | 0x83 => some .wdog
  | _ => none

/-- R92: registers of 64 bits. -/
def SReg.wide : SReg → Bool
  | .recAddr | .time | .trapf | .msk | .ptel => true
  | _ => false
def SReg.regs (x : SReg) : Nat := if x.wide then 2 else 1
/-- R92: registers that `SWRITE` may name. -/
def SReg.writable : SReg → Bool
  | .fcr | .fsr | .stk | .trapf | .asid | .ptel | .audit | .wdog => true
  | _ => false
/-- R92: privileged registers. -/
def SReg.isSys : SReg → Bool
  | .asid | .ptel | .audit | .wdog => true
  | _ => false

/-! ### The tables -/

def CtlMod.zero (m : CtlMod) : Bool := m.sub == 0 && m.sel == 0

/-- R80, R244, R321, R376: shapes of the CONTROL layout's commoner rows. -/
def shCtl (m : CtlMod) (sh : Shape) : Shape := { sh with ok := sh.ok && m.zero }

/-- R101: an integer row: registers of D, A, B, C, the accepted types, whether ISAT is accepted, and the SUB bound. -/
def shInt (m : IntMod) (types : Bool) (sat : Bool) (w96 : Bool) (d a b c : Kind) : Shape :=
  { w96 := w96, d := d, a := a, b := b, c := c, ok := types && (sat || !m.sat) && m.cp == 0 && m.sub == 0 }

/-- R101: the common row: D, A and B of the type's width. -/
def shInt2 (m : IntMod) (sat : Bool) : Shape :=
  shInt m true sat true (.dst m.ty.regs) (.src m.ty.regs) (.src m.ty.regs) .zero
/-- R101: a shift or field row: B is a single register. -/
def shShift (m : IntMod) : Shape := shInt m true false true (.dst m.ty.regs) (.src m.ty.regs) (.src 1) .zero
/-- R101: a row of one source. -/
def shInt1 (m : IntMod) (types sat : Bool) (d : Kind) : Shape := shInt m types sat false d (.src m.ty.regs) .zero .zero
def IntMod.n32n64 (m : IntMod) : Bool := m.ty == .n32 || m.ty == .n64
/-- R104: `ADDC` and `SUBB` name a carry predicate other than p0. -/
def shCarry (m : IntMod) : Shape :=
  { w96 := true, d := .dst m.ty.regs, a := .src m.ty.regs, b := .src m.ty.regs,
    ok := m.n32n64 && !m.sat && m.cp != 0 && m.sub == 0 }

/-- R129: a floating-point row that rounds. -/
def shFp (m : FpMod) (types : Bool) (w96 : Bool) (d a b c : Kind) : Shape :=
  { w96 := w96, d := d, a := a, b := b, c := c, ok := types && m.sub == 0 }
def FpMod.plain (m : FpMod) : Bool := m.rnd == .rn && m.sat == .none && !m.ftz
def shFp2 (m : FpMod) : Shape :=
  shFp m m.ty.inS true (.dst m.ty.regs) (.src m.ty.regs) (.src m.ty.regs) .zero
def shFp3 (m : FpMod) : Shape :=
  shFp m m.ty.inS true (.dst m.ty.regs) (.src m.ty.regs) (.src m.ty.regs) (.src m.ty.regs)
/-- R129: a row that takes no rounding, saturation or flush. -/
def shFpPlain (m : FpMod) (w96 : Bool) (d b : Kind) : Shape :=
  shFp m (m.ty.inS && m.plain) w96 d (.src m.ty.regs) b .zero
def Fmt.packed : Fmt → Bool
  | .bf16 | .f16 => true
  | _ => false
/-- R142, R143: a packed row of two elements. -/
def shPacked (m : FpMod) (plain : Bool) (c : Kind) : Shape :=
  { w96 := true, d := .dst 1, a := .src 1, b := .src 1, c := c,
    ok := m.ty.packed && decide (m.sub.toNat < 2) && (!plain || m.plain) }

/-- A PF code's descriptor, when a bank is given and it is valid; `none` at decode, when no bank is known. -/
def pfOk (bank : Option FBank) : Fmt → Bool
  | .pf k => (match bank with | some b => pfValid b[k.toNat] | none => true)
  | _ => true

/-- R144: the element count of `PDOT`, 0 where the format is not accepted; without a bank a PF code passes. -/
def pdotN (bank : Option FBank) : Fmt → Nat
  | .bf16 | .f16 => 2
  | .e4m3 | .e5m2 | .e3m4 | .e2m5 | .e3m2 | .e2m3 | .e6m1 | .q7 | .i8 | .n8 => 4
  | .e2m1 | .e1m2 | .i4 | .n4 => 8
  | .i2 => 16
  | .b1 => 32
  | .pf k => (match bank with
      | some b => if pfValid b[k.toNat] ∧ 4 ≤ pfStorage b[k.toNat] then 32 / pfStorage b[k.toNat] else 0
      | none => 8)
  | _ => 0
def Fmt.isIntDot : Fmt → Bool
  | .i8 | .n8 | .i4 | .n4 | .i2 | .b1 => true
  | _ => false
/-- R144: ELEM, with the FTZ field as its fifth bit for B1. -/
def pdotElem (m : FpMod) : Nat := m.sub.toNat + (if m.ty = .b1 ∧ m.ftz then 16 else 0)
def shPdot (bank : Option FBank) (m : FpMod) : Shape :=
  { w96 := true, d := .dst 1, a := .src 1, b := .src 1, c := .src 1,
    ok := decide (pdotElem m < pdotN bank m.ty) && (!m.ty.isIntDot || (m.sat != .sati && (!m.ftz || m.ty == .b1))) }

/-- R145: the elements of a packed register of `PCVT`, 0 where the format is not accepted. -/
def pcvtN (bank : FBank) : Fmt → Nat
  | .bf16 | .f16 => 2
  | .e4m3 | .e5m2 | .e3m4 | .e2m5 | .e3m2 | .e2m3 | .i8 | .n8 | .e6m1 | .q7 => 4
  | .e2m1 | .e1m2 | .i4 | .n4 => 8
  | .pf k => if pfValid bank[k.toNat] ∧ 4 ≤ pfStorage bank[k.toNat] then 32 / pfStorage bank[k.toNat] else 0
  | _ => 0
/-- R145: the active elements. -/
def pcvtK (n : Nat) (m : FpMod) : Nat := if m.sub.toNat % 8 = 0 then n else m.sub.toNat % 8
def pcvtUp (m : FpMod) : Bool := m.sub.getLsbD 3
def shPcvt (bank : Option FBank) (m : FpMod) : Shape :=
  match m.ty, bank with
  | .pf _, none => { w96 := true, d := .free, a := .free, b := .src 1 }
  | ty, bank =>
    let n := pcvtN (bank.getD (Vector.replicate 8 0)) ty
    let k := pcvtK n m
    { w96 := true, d := if pcvtUp m then .dst n else .dst 1, a := if pcvtUp m then .src 1 else .part n k, b := .src 1,
      ok := decide (0 < n ∧ m.sub.toNat % 8 < n) }

/-- R147: the types of the cross-lane rows. -/
def Fmt.lane : Fmt → Bool
  | .f64 | .f32 | .i32 => true
  | _ => false
def shLane (m : FpMod) (d c : Kind) (ok : Bool) : Shape :=
  { w96 := true, d := d, a := .src m.ty.regs, b := .opt, c := c, ok := m.ty.lane && m.plain && ok }
/-- R153: the operations of the reductions and scans and what each accepts. -/
def laneOpOk (m : FpMod) (op : Nat) : Bool :=
  m.ty.lane &&
  match op with
  | 0 => if m.ty = .i32 then m.plain else m.rnd != .rs && m.rnd != .dyn
  | 1 | 2 => m.plain
  | 3 | 4 | 5 => m.ty == .i32 && m.plain
  | _ => false
def shLaneOp (m : FpMod) (ok : Bool) : Shape :=
  { w96 := true, d := .dst m.ty.regs, a := .src m.ty.regs, b := .opt, ok := ok && laneOpOk m (m.sub.toNat % 8) }
/-- R147: the special-function rows. -/
def shSfu (m : FpMod) : Shape :=
  { d := .dst 1, a := .src 1, ok := (m.ty == .f32 || m.ty.packed) && m.sub == 0 && m.rnd == .rn }
/-- R151: `VOTE`. -/
def shVote (m : FpMod) : Shape :=
  { w96 := true, a := .low 3, b := .opt, d := if m.sub.toNat < 2 then .low 3 else if m.sub = 2 then .dst 2 else .dst 1,
    ok := decide (m.sub.toNat < 4) && m.ty == .f64 && m.plain }

/-- R191: B holds an offset pair only in the parcel-relative space. -/
def spaceB (sp : Space) : Kind := if sp = .par then .opt else .zero
def shMem (m : MemMod) (d b c : Kind) (ok : Bool) : Shape :=
  { w96 := true, role := .offset, d := d, a := .src m.space.baseRegs, b := b, c := c, ok := ok && m.size != 7 }
def MemMod.bare (m : MemMod) (sp : Space) : Bool :=
  m.space == sp && m.size == 0 && m.evict == 0 && m.scope == .th && m.ord == .rlx
/-- R197: `CCTL`. -/
def shCctl (o : LOps) (m : MemMod) : Shape :=
  let whole := o.d == 2 || o.d == 3 || o.d == 5
  { w96 := !whole, role := .offset, d := .low 3, a := if whole then .zero else .src 2, ok := m.bare .glb && decide (o.d.toNat ≤ 5) }

/-- R216: the SYNC rows of memory. -/
def shSync (m : SyncMod) (d b c : Kind) (ok : Bool) : Shape :=
  { w96 := true, role := .offset, d := d, a := .src m.space.baseRegs, b := b, c := c, ok := ok }
def SyncMod.glbScr (m : SyncMod) : Bool := m.space == .glb || m.space == .scr
def SyncMod.notPrv (m : SyncMod) : Bool := m.space != .prv
def SyncMod.ordLd (m : SyncMod) : Bool := m.ord == .rlx || m.ord == .acq
def SyncMod.ordSt (m : SyncMod) : Bool := m.ord == .rlx || m.ord == .rel
def shBar (m : SyncMod) (d c : Kind) : Shape :=
  shSync m d .zero c (m.glbScr && m.sub == 0 && m.ty == .n32 && m.ord == .rlx && m.scope == .th)
def SyncMod.bare (m : SyncMod) : Bool :=
  m.space == .glb && m.ty == .n32 && m.ord == .rlx && m.scope == .th
/-- R338: a row of the parcel table: L64 only, no modifier but SUB. -/
def shPcl (m : SyncMod) (d a c : Kind) (ok : Bool) : Shape := { d := d, a := a, c := c, ok := ok && m.bare }
/-- R348: a row of the remote table. -/
def shRma (m : SyncMod) (w96 : Bool) (d a c : Kind) (ok : Bool) : Shape :=
  { w96 := w96, role := .offset, d := d, a := a, c := c, ok := ok && m.space == .glb }

/-- R252: formats accepted as A and as B of a matrix instruction; PF codes are judged by their bank. -/
def Fmt.aOk (bank : Option FBank) : Fmt → Bool
  | .f64 | .e8m0 | .i32 => false
  | f => pfOk bank f
def Fmt.bOk (bank : Option FBank) : Fmt → Bool
  | .f32 => false
  | f => f.aOk bank
/-- R269: output formats of the epilogue. -/
def Fmt.epiOk (bank : Option FBank) : Fmt → Bool
  | .f64 | .e8m0 | .i2 | .b1 => false
  | f => pfOk bank f
/-- R263: a scale field: tile in [5:0], present bit in [6]. -/
def scaleOk (c : Reg) : Bool := c == 0 || c.getLsbD 6
def shMat (m : EngMod) (d a b c : Kind) (ok gsOk : Bool) : Shape :=
  { d := d, a := a, b := b, c := c, ok := ok && m.scope == .th && (gsOk || m.gs == none) }
def EngMod.ty0 (m : EngMod) (f : Fmt → Bool) : Bool := m.ty == .f64 || f m.ty
def shTile (m : EngMod) (w96 : Bool) (d a b : Kind) (ok : Bool) : Shape :=
  { w96 := w96, d := d, a := a, b := b, ok := ok && m.ty == .f64 }

def shRegion (m : CtlMod) (d a : Kind) : Shape := { w96 := true, d := d, a := a, b := .src 1, ok := m.zero }

/-- The operands of an instruction as S32, L64 or W96 gives them, with its row: an S32 form is the L64 form of R57. -/
structure LongForm where
  o : LOps
  sh : Shape
  deriving DecidableEq, Repr, Inhabited

/-- The row of each L64 or W96 instruction; `bank` is the gang's format bank where it is known (R61). Other constructors
have none. -/
def Instr.row (bank : Option FBank) : Instr → Option LongForm
  | .nop o m => some ⟨o, { w96 := true, role := .ignored, ok := m.zero }⟩
  | .bra o m => some ⟨o, shCtl m { l64 := false, w96 := true, role := .target }⟩
  | .jmp o m => some ⟨o, shCtl m { a := .src 2 }⟩
  | .call o m => some ⟨o, shCtl m { l64 := false, w96 := true, role := .target }⟩
  | .calli o m => some ⟨o, shCtl m { a := .src 2 }⟩
  | .ret o m => some ⟨o, shCtl m {}⟩
  | .exit o m => some ⟨o, shCtl m {}⟩
  | .yield o m => some ⟨o, shCtl m {}⟩
  | .conv o m => some ⟨o, shCtl m { w96 := true, a := if o.lit.isSome then .zero else .src 2 }⟩
  | .barGrp o m => some ⟨o, shCtl m {}⟩
  | .guardSet o m => some ⟨o, shCtl m { d := .low 4, a := .low 3 }⟩
  | .guardClr o m => some ⟨o, shCtl m { d := .low 4 }⟩
  | .plog o m => some ⟨o, { d := .low 3, a := .low 3, b := .low 3, ok := decide (m.sub.toNat < 4) && m.sel == 0 }⟩
  | .pmovRd o m => some ⟨o, { d := .dst 1, ok := m.sub == 0 && m.sel == 0 }⟩
  | .pmovWr o m => some ⟨o, { w96 := true, a := .src 1, b := .src 1, ok := m.sub == 1 && m.sel == 0 }⟩
  | .sread o m => some ⟨o, match SReg.ofCode m.sel with | some r => { d := .dst r.regs, ok := m.sub == 0, sys := r.isSys } | none => { ok := false }⟩
  | .swrite o m => some ⟨o, match SReg.ofCode m.sel with | some r => { a := .src r.regs, ok := m.sub == 0 && r.writable, sys := r.isSys } | none => { ok := false }⟩
  | .brdec o m => some ⟨o, shCtl m { l64 := false, w96 := true, role := .target, d := .dst 1, a := .src 1, ok := o.d == o.a }⟩
  | .brv o m => some ⟨o, { l64 := false, w96 := true, role := .target, a := .low 3, b := .opt, ok := decide (m.sub.toNat < 3) && m.sel == 0 }⟩
  | .nap o m => some ⟨o, shCtl m { w96 := true, b := .src 1 }⟩
  | .ipref o m => some ⟨o, { w96 := true, role := .target, a := if o.lit.isSome then .zero else .src 2, ok := m.sel == 0 }⟩
  | .feSet o m => some ⟨o, { d := if m.sub.toNat < 2 then .reg 1 else .reg 2, ok := decide (m.sub.toNat < 4) && m.sel == 0 }⟩
  | .feTest o m => some ⟨o, { d := .low 3, a := if m.sub = 0 then .reg 1 else .reg 2, ok := decide (m.sub.toNat < 2) && m.sel == 0 }⟩
  | .add o m => some ⟨o, shInt2 m true⟩
  | .sub o m => some ⟨o, shInt2 m true⟩
  | .addc o m => some ⟨o, shCarry m⟩
  | .subb o m => some ⟨o, shCarry m⟩
  | .mul o m => some ⟨o, shInt2 m true⟩
  | .mulh o m => some ⟨o, { shInt2 m false with ok := (shInt2 m false).ok && decide (32 ≤ m.ty.width) }⟩
  | .mad o m => some ⟨o, { shInt2 m true with c := .src m.ty.regs }⟩
  | .div o m => some ⟨o, shInt2 m true⟩
  | .rem o m => some ⟨o, shInt2 m false⟩
  | .min o m => some ⟨o, shInt2 m false⟩
  | .max o m => some ⟨o, shInt2 m false⟩
  | .abs o m => some ⟨o, shInt1 m m.ty.signed true (.dst m.ty.regs)⟩
  | .neg o m => some ⟨o, shInt1 m true true (.dst m.ty.regs)⟩
  | .and o m => some ⟨o, shInt2 m false⟩
  | .or o m => some ⟨o, shInt2 m false⟩
  | .xor o m => some ⟨o, shInt2 m false⟩
  | .andn o m => some ⟨o, shInt2 m false⟩
  | .shl o m => some ⟨o, shShift m⟩
  | .shr o m => some ⟨o, shShift m⟩
  | .sar o m => some ⟨o, shShift m⟩
  | .rot o m => some ⟨o, shShift m⟩
  | .bfx o m => some ⟨o, shShift m⟩
  | .bfi o m => some ⟨o, { shShift m with c := .src m.ty.regs }⟩
  | .popc o m => some ⟨o, shInt1 m m.n32n64 false (.dst 1)⟩
  | .clz o m => some ⟨o, shInt1 m m.n32n64 false (.dst 1)⟩
  | .brev o m => some ⟨o, shInt1 m m.n32n64 false (.dst m.ty.regs)⟩
  | .cmp o m => some ⟨o, shInt m (decide ((o.d.toNat / 8) % 8 < 6)) false true (.low 6) (.src m.ty.regs) (.src m.ty.regs) .zero⟩
  | .sel o m => some ⟨o, { shInt2 m false with c := .low 3 }⟩
  | .mov o m => some ⟨o, { shInt2 m false with a := .zero }⟩
  | .lea o m => some ⟨o, { w96 := true, role := .offset, d := .dst 2, a := .opt, b := .src 1, ok := (m.ty == .i32 || m.ty == .n32) && !m.sat && m.cp == 0 && decide (m.sub.toNat < 7) }⟩
  | .fpAdd o m => some ⟨o, shFp2 m⟩
  | .fpSub o m => some ⟨o, shFp2 m⟩
  | .fpMul o m => some ⟨o, shFp2 m⟩
  | .fma o m => some ⟨o, shFp3 m⟩
  | .fms o m => some ⟨o, shFp3 m⟩
  | .fnma o m => some ⟨o, shFp3 m⟩
  | .fnms o m => some ⟨o, shFp3 m⟩
  | .fpDiv o m => some ⟨o, { shFp2 m with ok := (shFp2 m).ok && (m.ty == .f64 || m.ty == .f32) }⟩
  | .sqrt o m => some ⟨o, shFp m (m.ty == .f64 || m.ty == .f32) false (.dst m.ty.regs) (.src m.ty.regs) .zero .zero⟩
  | .fpMin o m => some ⟨o, shFpPlain m true (.dst m.ty.regs) (.src m.ty.regs)⟩
  | .fpMax o m => some ⟨o, shFpPlain m true (.dst m.ty.regs) (.src m.ty.regs)⟩
  | .fpAbs o m => some ⟨o, shFpPlain m false (.dst m.ty.regs) .zero⟩
  | .fpNeg o m => some ⟨o, shFpPlain m false (.dst m.ty.regs) .zero⟩
  | .cpysgn o m => some ⟨o, shFpPlain m true (.dst m.ty.regs) (.src m.ty.regs)⟩
  | .fpCmp o m => some ⟨o, shFpPlain m true (.low 6) (.src m.ty.regs)⟩
  | .fclass o m => some ⟨o, shFpPlain m false (.dst 1) .zero⟩
  | .rint o m => some ⟨o, shFp m (m.ty.inS && m.rnd != .rs && m.rnd != .ro && m.sat == .none && !m.ftz) false (.dst m.ty.regs) (.src m.ty.regs) .zero .zero⟩
  | .scale o m => some ⟨o, shFp m m.ty.inS true (.dst m.ty.regs) (.src m.ty.regs) (.src 1) .zero⟩
  | .getexp o m => some ⟨o, shFpPlain m false (.dst 1) .zero⟩
  | .cvt o m => some ⟨o, shFp m (m.ty.floatLike && (Fmt.ofCode (o.c.setWidth 5)).floatLike && pfOk bank m.ty && pfOk bank (Fmt.ofCode (o.c.setWidth 5))) false (.dst m.ty.regs) (.src (Fmt.ofCode (o.c.setWidth 5)).regs) .zero (.low 5)⟩
  | .cvti o m => some ⟨o, shFp m (m.ty.inS && m.sat == .none && !m.ftz) false (.dst (IType.ofCode (o.c.setWidth 3)).regs) (.src m.ty.regs) .zero (.low 3)⟩
  | .cvtf o m => some ⟨o, shFp m m.ty.inS false (.dst m.ty.regs) (.src (IType.ofCode (o.c.setWidth 3)).regs) .zero (.low 3)⟩
  | .padd o m => some ⟨o, shPacked m false .zero⟩
  | .pmul o m => some ⟨o, shPacked m false .zero⟩
  | .pfma o m => some ⟨o, shPacked m false (.src 1)⟩
  | .pdot o m => some ⟨o, shPdot bank m⟩
  | .pcvt o m => some ⟨o, shPcvt bank m⟩
  | .pmax o m => some ⟨o, shPacked m true .zero⟩
  | .shfl o m => some ⟨o, shLane m (.dst m.ty.regs) (.src 1) (decide (m.sub.toNat < 4))⟩
  | .bcast o m => some ⟨o, shLane m (.dst m.ty.regs) (.src 1) (m.sub == 0)⟩
  | .vote o m => some ⟨o, shVote m⟩
  | .laneRed o m => some ⟨o, shLaneOp m (decide (m.sub.toNat < 6))⟩
  | .laneScan o m => some ⟨o, shLaneOp m true⟩
  | .laneChain o m => some ⟨o, shLane m (.dst m.ty.regs) (.src m.ty.regs) (decide (m.sub.toNat < 2))⟩
  | .matchAny o m => some ⟨o, shLane m (.dst 2) .zero (m.sub == 0)⟩
  | .rcp o m => some ⟨o, shSfu m⟩
  | .rsq o m => some ⟨o, shSfu m⟩
  | .exp2 o m => some ⟨o, shSfu m⟩
  | .log2 o m => some ⟨o, shSfu m⟩
  | .sin o m => some ⟨o, shSfu m⟩
  | .cos o m => some ⟨o, shSfu m⟩
  | .tanh o m => some ⟨o, shSfu m⟩
  | .ssync o m => some ⟨o, { ok := m.sub == 0 && m.ty == .f64 && m.plain }⟩
  | .ld o m => some ⟨o, shMem m (.dst (sizeRegs m.size)) (spaceB m.space) .zero (m.ord == .rlx || m.ord == .acq)⟩
  | .ldSignExtend o m => some ⟨o, shMem m (.dst 1) (spaceB m.space) .zero ((m.ord == .rlx || m.ord == .acq) && decide (m.size.toNat < 2))⟩
  | .st o m => some ⟨o, shMem m .zero (spaceB m.space) (.src (sizeRegs m.size)) (m.ord == .rlx || m.ord == .rel)⟩
  | .ldu o m => some ⟨o, shMem m (.dst (sizeRegs m.size)) .zero .zero (m.ord == .rlx && m.space != .par)⟩
  | .stz o m => some ⟨o, shMem m .zero (spaceB m.space) .zero (m.ord == .rlx || m.ord == .rel)⟩
  | .stm o m => some ⟨o, shMem m .zero (.src (if m.size = 6 then 2 else 1)) (.src (sizeRegs m.size)) ((m.ord == .rlx || m.ord == .rel) && m.space != .par && decide (2 ≤ m.size.toNat))⟩
  | .pref o m => some ⟨o, shMem m .zero .zero .zero (m.space == .glb && m.size == 0 && m.ord == .rlx)⟩
  | .prefCnt o m => some ⟨o, shMem m (.low 8) .zero .zero (m.bare .glb && o.d != 0)⟩
  | .cctl o m => some ⟨o, shCctl o m⟩
  | .cdisc o m => some ⟨o, shMem m .zero .zero .zero (m.bare .glb)⟩
  | .salloc o m => some ⟨o, shMem m (.dst 1) .zero .zero (m.bare .scr)⟩
  | .sfree o m => some ⟨o, shMem m .zero .zero .zero (m.bare .scr)⟩
  | .probe o m => some ⟨o, shMem m (.dst 1) .zero .zero (m.bare .glb)⟩
  | .atom o m => some ⟨o, shSync m (.dst m.ty.regs) (spaceB m.space) (.src m.ty.regs) (m.notPrv && decide (m.sub.toNat < 8) && m.ty.isInt)⟩
  | .atomFloat o m => some ⟨o, shSync m (.dst m.ty.regs) (spaceB m.space) (.src m.ty.regs) (m.notPrv && decide (m.sub.toNat < 3) && m.ty.isFloat)⟩
  | .atomCas o m => some ⟨o, shSync m (.dst m.ty.regs) (.src m.ty.regs) (.src m.ty.regs) (m.glbScr && m.sub == 0 && !m.ty.isFloat)⟩
  | .red o m => some ⟨o, shSync m .zero (spaceB m.space) (.src m.ty.regs) (m.notPrv && decide (1 ≤ m.sub.toNat ∧ m.sub.toNat < 8) && m.ty.isInt && m.ordSt)⟩
  | .redFloat o m => some ⟨o, shSync m .zero (spaceB m.space) (.src m.ty.regs) (m.notPrv && decide (m.sub.toNat < 3) && m.ty.isFloat && m.ordSt)⟩
  | .fence o m => some ⟨o, { w96 := true, role := .offset, ok := m.sub == 0 && m.ty == .n32 && m.space == .glb && m.ord != .rlx }⟩
  | .waitVal o m => some ⟨o, shSync m (.low 3) .zero (.src m.ty.regs) (m.glbScr && decide (m.sub.toNat < 6) && m.ty.isInt && m.ordLd)⟩
  | .ldLink o m => some ⟨o, shSync m (.dst m.ty.regs) .zero .zero (m.glbScr && m.sub == 0 && m.ty.isInt && m.ordLd)⟩
  | .stCond o m => some ⟨o, shSync m (.low 3) .zero (.src m.ty.regs) (m.glbScr && m.sub == 0 && m.ty.isInt && m.ordSt)⟩
  | .barInit o m => some ⟨o, shSync m .zero .zero (.src 1) (m.glbScr && m.sub == 0 && m.ty == .n32 && m.ordSt && decide (2 ≤ m.scope.code ∧ m.scope.code ≤ 5))⟩
  | .barArrive o m => some ⟨o, shBar m (.dst 1) (.src 1)⟩
  | .barWait o m => some ⟨o, shBar m .zero (.src 1)⟩
  | .barSync o m => some ⟨o, shBar m .zero .zero⟩
  | .barTest o m => some ⟨o, shBar m (.low 3) (.src 1)⟩
  | .barDrop o m => some ⟨o, shBar m .zero .zero⟩
  | .chkInjectEarly o m => some ⟨o, { w96 := true, a := .src 1, b := .src 1, sys := true, ok := m.sub == 0 && decide (m.sel.toNat < 8) }⟩
  | .chkInjectHash o m => some ⟨o, { w96 := true, a := .src 1, b := .src 1, sys := true, ok := m.sub == 1 && m.sel == 0 }⟩
  | .chkInjectSkip o m => some ⟨o, { w96 := true, a := .src 1, b := .src 1, sys := true, ok := m.sub == 2 && m.sel == 0 }⟩
  | .chkInjectDup o m => some ⟨o, { w96 := true, a := .src 1, b := .src 1, sys := true, ok := m.sub == 3 && m.sel == 0 }⟩
  | .chkRead o m => some ⟨o, { d := .dst 2, a := if m.sub = 0 then .src 2 else .zero, ok := decide (m.sub.toNat < 3) && m.sel == 0 }⟩
  | .chkSync o m => some ⟨o, shCtl m {}⟩
  | .chkClear o m => some ⟨o, { a := if m.sub = 0 then .src 1 else .zero, sys := true, ok := decide (m.sub.toNat < 2) && m.sel == 0 }⟩
  | .chkSample o m => some ⟨o, { d := .dst 2, a := .src 1, sys := true, ok := m.sub == 0 && decide (m.sel.toNat < 7) }⟩
  | .mma o m => some ⟨o, shMat m (.low 3) (.low 6) (.low 1) (.low 7) (scaleOk o.c && decide (m.sub.toNat < 2) && m.ty0 (Fmt.aOk bank)) true⟩
  | .mmaJ o m => some ⟨o, shMat m (.low 3) (.low 6) (.low 1) (.low 7) (scaleOk o.c && decide (m.sub.toNat < 2) && m.ty0 (Fmt.aOk bank)) false⟩
  | .mmaF64 o m => some ⟨o, shMat m (.low 6) (.low 6) (.low 6) .zero (decide (m.sub.toNat < 2) && m.ty == .f64) true⟩
  | .slateLd o m => some ⟨o, shMat m (.low 1) (.low 6) .zero (.low 7) (scaleOk o.c && m.sub == 0 && m.ty0 (Fmt.bOk bank)) true⟩
  | .slateSp o m => some ⟨o, shMat m (.low 1) (.low 6) (.low 6) (.low 7) (scaleOk o.c && decide (m.sub.toNat < 3) && m.ty0 (Fmt.bOk bank)) true⟩
  | .slateRel o m => some ⟨o, shMat m (.low 1) .zero .zero .zero (m.sub == 0 && m.ty == .f64) false⟩
  | .epi o m => some ⟨o, shMat m (.low 6) (.low 3) (.src 1) .zero (m.sub == 0 && m.ty0 (Fmt.epiOk bank)) true⟩
  | .accRd o m => some ⟨o, shMat m (.dst 1) (.low 3) (if m.sub = 2 then .zero else .src 1) .zero (decide (m.sub.toNat < 3) && m.ty == .f64) false⟩
  | .accWr o m => some ⟨o, shMat m (.low 3) (.low 6) .zero .zero (m.sub == 0 && m.ty == .f64) true⟩
  | .accZero o m => some ⟨o, shMat m (.low 3) .zero .zero .zero (m.sub == 0 && m.ty == .f64) true⟩
  | .accZeroFree o m => some ⟨o, shMat m (.low 3) .zero .zero .zero (m.sub == 1 && m.ty == .f64) false⟩
  | .mstat o m => some ⟨o, shMat m (.dst 2) .zero .zero .zero (m.sub == 0 && m.ty == .f64) false⟩
  | .mstatNow o m => some ⟨o, shMat m (.dst 2) .zero .zero .zero (m.sub == 1 && m.ty == .f64) false⟩
  | .mreset o m => some ⟨o, { shMat m (.dst 1) (.src 1) .zero .zero (m.sub == 0 && m.ty == .f64) false with sys := true }⟩
  | .tcopy o m => some ⟨o, shTile m true (.low 6) (.src 2) (.src 1) (m.sub == 0)⟩
  | .tstore o m => some ⟨o, shTile m true (.low 6) (.src 2) (.src 1) (decide (m.sub.toNat < 2))⟩
  | .twait o m => some ⟨o, shTile m false .zero (.low 6) .zero (decide (m.sub.toNat < 2) && m.scope == .th && m.gs == some 0)⟩
  | .tstate o m => some ⟨o, shTile m false (.dst 1) (.low 6) .zero (m.sub == 0 && m.scope == .th && m.gs == some 0)⟩
  | .tdef o m => some ⟨o, { w96 := true, d := .low 6, a := .src 1, b := .src 1, ok := m.sub == 0 && m.scope == .th && m.gs == none && pfOk bank m.ty }⟩
  | .tfree o m => some ⟨o, shTile m false (.low 6) .zero .zero (m.sub == 0 && m.scope == .th && m.gs == none)⟩
  | .tfill o m => some ⟨o, shTile m true (.low 6) .zero (.src 1) (m.sub == 0 && m.scope == .th)⟩
  | .tmov o m => some ⟨o, shTile m false (.low 6) (.low 6) .zero (decide (m.sub.toNat < 2) && m.scope == .th)⟩
  | .tcancel o m => some ⟨o, shTile m false (.low 6) .zero .zero (m.sub == 0 && m.scope == .th && m.gs == none)⟩
  | .emit o m => some ⟨o, { w96 := true, a := .src 2, b := .src 1, c := .src 1, ok := m.zero }⟩
  | .emitTry o m => some ⟨o, { w96 := true, d := .dst 1, a := .src 2, b := .src 1, c := .src 1, ok := m.sub == 0 && decide (m.sel.toNat < 8) }⟩
  | .launchJob o m => some ⟨o, shRegion m (.dst 1) (.src 2)⟩
  | .cancel o m => some ⟨o, shRegion m (.dst 1) .zero⟩
  | .quiesce o m => some ⟨o, shRegion m (.dst 1) .zero⟩
  | .resume o m => some ⟨o, shRegion m (.dst 1) .zero⟩
  | .nodeCtlOff o m => some ⟨o, { w96 := true, d := .dst 1, b := .src 1, ok := m.sub == 0 && m.sel == 0 }⟩
  | .nodeCtlOn o m => some ⟨o, { w96 := true, d := .dst 1, b := .src 1, ok := m.sub == 1 && m.sel == 0 }⟩
  | .nodeCtlFlush o m => some ⟨o, { w96 := true, d := .dst 1, b := .src 1, ok := m.sub == 2 && m.sel == 0 }⟩
  | .regionNew o m => some ⟨o, shCtl m { d := .dst 2, a := .src 2 }⟩
  | .regionFree o m => some ⟨o, shRegion m (.dst 1) .zero⟩
  | .qstat o m => some ⟨o, { w96 := true, d := .dst 2, b := .src 1, ok := m.sub == 0 && decide (m.sel.toNat < 9) }⟩
  | .pclNew o m => some ⟨o, shPcl m (.dst 2) (.src 1) .zero (m.sub == 0)⟩
  | .pclFree o m => some ⟨o, shPcl m .zero (.src 2) .zero (m.sub == 0)⟩
  | .seal o m => some ⟨o, shPcl m .zero (.src 2) .zero (m.sub == 0)⟩
  | .post o m => some ⟨o, shPcl m (.dst 1) (.src 2) (.src 2) (m.sub == 0)⟩
  | .postNb o m => some ⟨o, shPcl m .zero (.src 2) (.src 2) (m.sub == 1)⟩
  | .accept o m => some ⟨o, shPcl m (.dst 2) (.src 1) .zero (m.sub == 0)⟩
  | .acceptTry o m => some ⟨o, shPcl m (.dst 2) (.src 1) .zero (m.sub == 1)⟩
  | .acceptBack o m => some ⟨o, shPcl m (.dst 2) (.src 2) .zero (m.sub == 2)⟩
  | .pclStat o m => some ⟨o, shPcl m (.dst 2) (.src 2) .zero (decide (m.sub.toNat < 3))⟩
  | .rmaReg o m => some ⟨o, { shRma m true (.dst 1) (.src 2) .zero (m.sub == 0 && m.bare) with sys := true }⟩
  | .rmaDereg o m => some ⟨o, { shRma m false (.dst 1) (.src 1) .zero (m.sub == 0 && m.bare) with sys := true }⟩
  | .rmaWr o m => some ⟨o, shRma m true .zero (.src 2) .zero (m.sub == 0 && m.ty == .n32 && m.ord == .rlx && m.scope == .fab)⟩
  | .rmaWri o m => some ⟨o, shRma m true .zero (.src 2) .zero (m.sub == 0 && m.ty == .n32 && m.ord == .rel && m.scope == .fab)⟩
  | .rmaRd o m => some ⟨o, shRma m true (.dst m.ty.regs) (.src 2) .zero (m.sub == 0 && (m.ty == .n32 || m.ty == .n64 || m.ty == .n128) && m.ord == .rlx && m.scope == .fab)⟩
  | .rmaRdBlk o m => some ⟨o, shRma m true .zero (.src 2) .zero (m.sub == 1 && m.ty == .n32 && m.ord == .rlx && m.scope == .fab)⟩
  | .rmaAtom o m => some ⟨o, shRma m true (.dst m.ty.regs) (.src 2) (.src m.ty.regs) ((m.ty.isInt && decide (m.sub.toNat < 8) || m.ty.isFloat && decide (m.sub.toNat < 3)) && m.scope == .fab)⟩
  | .noteWait o m => some ⟨o, shRma m false (.dst 2) (.src 1) .zero (m.sub == 0 && m.ty == .n32 && m.ord == .acq && m.scope == .fab)⟩
  | .noteTry o m => some ⟨o, shRma m false (.dst 2) (.src 1) .zero (m.sub == 0 && m.ty == .n32 && m.ord == .acq && m.scope == .fab)⟩
  | .stPref o m => some ⟨o, shMem m .zero .opt (.src 2) (m.space == .par && m.size == 3 && (m.ord == .rlx || m.ord == .rel))⟩
  | .ldPref o m => some ⟨o, shMem m (.dst 2) .opt .zero (m.space == .par && m.size == 3 && (m.ord == .rlx || m.ord == .acq))⟩
  | .coll o m => some ⟨o, shRma m true .zero (.src 2) .zero (m.sub == 0 && m.bare)⟩
  | .collWait o m => some ⟨o, shRma m true (.dst 1) (.src 2) .zero (m.sub == 0 && m.bare)⟩
  | .timeRd o m => some ⟨o, shPcl m (.dst 2) .zero .zero (m.sub == 0)⟩
  | .trigAt o m => some ⟨o, shRma m true .zero (.src 2) (.src 2) (m.sub == 0 && m.bare)⟩
  | .waitUntil o m => some ⟨o, shPcl m .zero (.src 2) .zero (m.sub == 0)⟩
  | .hops o m => some ⟨o, shPcl m (.dst 1) (.src 1) (.src 1) (m.sub == 0)⟩
  | .trap o m => some ⟨o, shRegion m .zero .zero⟩
  | .trapRet o m => some ⟨o, shCtl m {}⟩
  | .preemptDone o m => some ⟨o, shCtl m { a := .src 2 }⟩
  | .dbgBrk o m => some ⟨o, shCtl m {}⟩
  | .invRange o m => some ⟨o, { d := .dst 1, a := .src 2, b := .src 2, c := .src 1, sys := true, ok := m.sub == 0 && decide (2 ≤ m.sel.toNat ∧ m.sel.toNat ≤ 5) }⟩
  | .invAsid o m => some ⟨o, { d := .dst 1, a := .src 1, sys := true, ok := m.sub == 0 && decide (2 ≤ m.sel.toNat ∧ m.sel.toNat ≤ 5) }⟩
  | .ctxSave o m => some ⟨o, { w96 := true, d := .dst 1, b := .src 1, sys := true, ok := m.sub == 0 && m.sel == 0 }⟩
  | .ctxSaveNow o m => some ⟨o, { w96 := true, d := .dst 1, b := .src 1, sys := true, ok := m.sub == 1 && m.sel == 0 }⟩
  | .ctxLoad o m => some ⟨o, { shRegion m (.dst 1) .zero with sys := true }⟩
  | .dbgHalt o m => some ⟨o, { w96 := true, d := .dst 1, a := .src 1, b := .src 1, sys := true, ok := m.sub == 0 && m.sel == 0 }⟩
  | .dbgHaltArm o m => some ⟨o, { w96 := true, d := .dst 1, a := .src 1, b := .src 1, sys := true, ok := m.sub == 1 && m.sel == 0 }⟩
  | .dbgHaltDisarm o m => some ⟨o, { w96 := true, d := .dst 1, a := .src 1, b := .src 1, sys := true, ok := m.sub == 2 && m.sel == 0 }⟩
  | .dbgHaltQry o m => some ⟨o, { w96 := true, d := .dst 1, a := .src 1, b := .src 1, sys := true, ok := m.sub == 3 && m.sel == 0 }⟩
  | .dbgStep o m => some ⟨o, { d := .dst 1, a := .src 1, sys := true, ok := decide (m.sub.toNat < 3) && m.sel == 0 }⟩
  | .dbgResume o m => some ⟨o, { shRegion m (.dst 1) (.src 1) with sys := true }⟩
  | .vdtLd o m => some ⟨o, { shRegion m (.dst 1) (.src 2) with sys := true }⟩
  | .envRd o m => some ⟨o, { d := .dst 2, a := .src 1, ok := m.sub == 0 && decide (m.sel.toNat < 9) }⟩
  | .logRd o m => some ⟨o, shCtl m { d := .dst 4 }⟩
  | .mchkRd o m => some ⟨o, { d := .dst 2, a := .src 1, sys := true, ok := decide (m.sub.toNat < 2) && m.sel == 0 }⟩
  | .sysIdle o m => some ⟨o, { shCtl m { d := .dst 1, a := .src 2 } with sys := true }⟩
  | _ => none

/-- The L64 instruction each S32 instruction behaves as (R57); every other instruction is itself. -/
def Instr.long : Instr → Instr
  | .nopS32 o => .nop o.long (.s 0)
  | .exitS32 o => .exit o.long (.s 0)
  | .yieldS32 o => .yield o.long (.s 0)
  | .convS32 o => .conv o.long (.s 0)
  | .retS32 o => .ret o.long (.s 0)
  | .barGrpS32 o => .barGrp o.long (.s 0)
  | .guardSetS32 o => .guardSet o.long (.s 0)
  | .guardClrS32 o => .guardClr o.long (.s 0)
  | .plogAndS32 o => .plog o.long (.s 0)
  | .plogOrS32 o => .plog o.long (.s 1)
  | .plogXorS32 o => .plog o.long (.s 2)
  | .plogAndnS32 o => .plog o.long (.s 3)
  | .twaitS32 o => .twait o.long .s
  | .tstateS32 o => .tstate o.long .s
  | .dbgBrkS32 o => .dbgBrk o.long (.s 0)
  | .ssyncS32 o => .ssync o.long (.s .f64)
  | .addI32S32 o => .add o.long (.s .i32)
  | .subI32S32 o => .sub o.long (.s .i32)
  | .mulI32S32 o => .mul o.long (.s .i32)
  | .andN32S32 o => .and o.long (.s .n32)
  | .orN32S32 o => .or o.long (.s .n32)
  | .xorN32S32 o => .xor o.long (.s .n32)
  | .shlN32S32 o => .shl o.long (.s .n32)
  | .shrN32S32 o => .shr o.long (.s .n32)
  | .sarI32S32 o => .sar o.long (.s .i32)
  | .minI32S32 o => .min o.long (.s .i32)
  | .maxI32S32 o => .max o.long (.s .i32)
  | .minN32S32 o => .min o.long (.s .n32)
  | .maxN32S32 o => .max o.long (.s .n32)
  | .movN32S32 o => .mov o.long (.s .n32)
  | .cmpI32S32 o => .cmp o.long (.s .i32)
  | .cmpN32S32 o => .cmp o.long (.s .n32)
  | .addF32S32 o => .fpAdd o.long (.s .f32)
  | .subF32S32 o => .fpSub o.long (.s .f32)
  | .mulF32S32 o => .fpMul o.long (.s .f32)
  | .minF32S32 o => .fpMin o.long (.s .f32)
  | .maxF32S32 o => .fpMax o.long (.s .f32)
  | .cmpF32S32 o => .fpCmp o.long (.s .f32)
  | .addF64S32 o => .fpAdd o.long (.s .f64)
  | .subF64S32 o => .fpSub o.long (.s .f64)
  | .mulF64S32 o => .fpMul o.long (.s .f64)
  | .rcpF32S32 o => .rcp o.long (.s .f32)
  | .rsqF32S32 o => .rsq o.long (.s .f32)
  | .exp2F32S32 o => .exp2 o.long (.s .f32)
  | .log2F32S32 o => .log2 o.long (.s .f32)
  | i => i

/-! ### Loop-nest instructions (R53, R54, R165) -/

/-- What a base pair of a loop-nest instruction is. -/
inductive NestKind where
  | none      -- unused: must be zero
  | mem       -- an operand word (R163)
  | val       -- a value held in the pair
  | out       -- the register destination of a reduction
  deriving DecidableEq, Repr, Inhabited

/-- One row of R165. -/
structure NestShape where
  d : NestKind
  a : NestKind
  b : NestKind
  ok : Bool
  deriving DecidableEq, Repr, Inhabited

/-- The type sets of R165. -/
def Fmt.nestE : Fmt → Bool
  | .f64 | .f32 | .bf16 | .f16 | .i32 => true
  | _ => false
def Fmt.nestH : Fmt → Bool
  | .f32 | .bf16 | .f16 => true
  | _ => false
/-- Destination formats of `NEST.CVT`: codes 0 to 10, 13 to 17, 22, 23 and PF codes of storage width 8. -/
def Fmt.nestCvt (bank : Option FBank) : Fmt → Bool
  | .e2m1 | .e1m2 | .i4 | .n4 | .i2 | .b1 => false
  | .pf k => (match bank with | some b => pfValid b[k.toNat] && pfStorage b[k.toNat] == 8 | none => true)
  | _ => true

def nestFloat (o : NestOps) : Bool := o.ty.nestE && (o.ty != .i32 || o.rnd == .rn)
def nestPlain (o : NestOps) : Bool := o.ty.nestE && o.rnd == .rn

/-- R165: the row of the loop-nest instruction of operation number `op`. -/
def nestRow (bank : Option FBank) (op : Nat) (o : NestOps) : NestShape :=
  match op with
  | 0x01 => ⟨.mem, .mem, .none, nestPlain o⟩
  | 0x02 => ⟨.mem, .none, .val, nestPlain o⟩
  | 0x03 => ⟨.mem, .mem, .none, o.ty.nestCvt bank⟩
  | 0x04 => ⟨.mem, .mem, .mem, nestFloat o⟩
  | 0x05 => ⟨.mem, .mem, .mem, nestFloat o⟩
  | 0x06 => ⟨.mem, .mem, .mem, nestFloat o⟩
  | 0x07 => ⟨.mem, .mem, .mem, o.ty.inS⟩
  | 0x08 => ⟨.mem, .mem, .mem, nestPlain o⟩
  | 0x09 => ⟨.mem, .mem, .mem, nestPlain o⟩
  | 0x0A => ⟨.mem, .mem, .none, nestPlain o⟩
  | 0x0B => ⟨.mem, .mem, .none, nestPlain o⟩
  | 0x0C => ⟨.mem, .mem, .val, o.ty.inS⟩
  | 0x0D => ⟨.mem, .mem, .none, o.ty.inS && o.rnd == .rn⟩
  | 0x0E => ⟨.mem, .mem, .none, o.ty.nestH && o.rnd == .rn⟩
  | 0x0F => ⟨.mem, .mem, .none, o.ty.nestH && o.rnd == .rn⟩
  | 0x10 => ⟨.mem, .mem, .none, o.ty.nestH && o.rnd == .rn⟩
  | 0x11 => ⟨.mem, .mem, .none, o.ty.nestH && o.rnd == .rn⟩
  | 0x12 => ⟨.out, .mem, .none, nestFloat o⟩
  | 0x13 => ⟨.out, .mem, .none, nestFloat o⟩
  | 0x14 => ⟨.out, .mem, .none, nestFloat o⟩
  | 0x15 => ⟨.out, .mem, .none, nestFloat o⟩
  | 0x16 => ⟨.out, .mem, .mem, o.ty.inS⟩
  | 0x17 => ⟨.out, .mem, .none, nestPlain o⟩
  | 0x18 => ⟨.mem, .mem, .none, nestFloat o⟩
  | _ => ⟨.none, .none, .none, false⟩

/-- The row of each loop-nest instruction. -/
def Instr.nest (bank : Option FBank) : Instr → Option (NestOps × NestShape)
  | .nestCopy o => some (o, nestRow bank 0x01 o)
  | .nestFill o => some (o, nestRow bank 0x02 o)
  | .nestCvt o => some (o, nestRow bank 0x03 o)
  | .nestAdd o => some (o, nestRow bank 0x04 o)
  | .nestSub o => some (o, nestRow bank 0x05 o)
  | .nestMul o => some (o, nestRow bank 0x06 o)
  | .nestFma o => some (o, nestRow bank 0x07 o)
  | .nestMin o => some (o, nestRow bank 0x08 o)
  | .nestMax o => some (o, nestRow bank 0x09 o)
  | .nestAbs o => some (o, nestRow bank 0x0A o)
  | .nestNeg o => some (o, nestRow bank 0x0B o)
  | .nestScale o => some (o, nestRow bank 0x0C o)
  | .nestRelu o => some (o, nestRow bank 0x0D o)
  | .nestExp2 o => some (o, nestRow bank 0x0E o)
  | .nestTanh o => some (o, nestRow bank 0x0F o)
  | .nestRcp o => some (o, nestRow bank 0x10 o)
  | .nestRsq o => some (o, nestRow bank 0x11 o)
  | .nestSum o => some (o, nestRow bank 0x12 o)
  | .nestSumsq o => some (o, nestRow bank 0x13 o)
  | .nestRmax o => some (o, nestRow bank 0x14 o)
  | .nestRmin o => some (o, nestRow bank 0x15 o)
  | .nestDot o => some (o, nestRow bank 0x16 o)
  | .nestArgmax o => some (o, nestRow bank 0x17 o)
  | .nestScan o => some (o, nestRow bank 0x18 o)
  | _ => none

/-- EXT, stride and SSH fields of a loop nest (R53). -/
def NestOps.extent (o : NestOps) (j : Nat) : Nat := (o.ext.extractLsb' (10 * j) 10).toNat + 1
def NestOps.stride (o : NestOps) (k j : Nat) : Int :=
  (o.str.extractLsb' (10 * (5 * k + j)) 10).toInt * (16 : Int) ^ (o.ssh.extractLsb' (2 * k) 2).toNat

/-- R54, R162: levels at or above NLEV and the strides of unused operands are zero. -/
def NestOps.levelsOk (o : NestOps) (used : Nat → Bool) : Bool :=
  decide (1 ≤ o.nlev.toNat ∧ o.nlev.toNat ≤ 5) &&
  (List.range 5).all (fun j => decide (j < o.nlev.toNat) || o.ext.extractLsb' (10 * j) 10 == 0) &&
  (List.range 3).all (fun k => (used k || o.ssh.extractLsb' (2 * k) 2 == 0) &&
    (List.range 5).all (fun j => (used k && decide (j < o.nlev.toNat)) || o.str.extractLsb' (10 * (5 * k + j)) 10 == 0))

/-- R60 for a loop-nest instruction. -/
def NestShape.legal (sh : NestShape) (o : NestOps) : Bool :=
  sh.ok && (sh.d != .none || o.db == 0) && (sh.a != .none || o.ab == 0) && (sh.b != .none || o.bb == 0) &&
  o.levelsOk (fun k => (if k = 0 then sh.d else if k = 1 then sh.a else sh.b) == .mem)

def NestKind.inBudget (k : NestKind) (p : BitVec 7) (budget : Nat) : Bool :=
  k == .none || decide (2 * p.toNat + 2 ≤ budget)
def NestShape.inBudget (sh : NestShape) (o : NestOps) (budget : Nat) : Bool :=
  sh.d.inBudget o.db budget && sh.a.inBudget o.ab budget && sh.b.inBudget o.bb budget

/-- The base pair's register: g(2 × field) (R53). -/
def pairReg (p : BitVec 7) : Reg := p.setWidth 8 <<< 1

def NestKind.source (k : NestKind) (p : BitVec 7) : List Source :=
  match k with
  | .mem | .val => [⟨pairReg p, 2, false⟩]
  | _ => []
def NestShape.sources (sh : NestShape) (o : NestOps) : List Source :=
  sh.d.source o.db ++ sh.a.source o.ab ++ sh.b.source o.bb

/-- R36: the syllables of an instruction; an event has none. -/
def Instr.syllables (i : Instr) : Nat :=
  match i.nest none with
  | some _ => 8
  | none =>
    match i.row none with
    | some f => if f.o.lit.isSome then 3 else 2
    | none => match i.long.row none with
      | some _ => 1
      | none => 0

/-- R60: the encoding is legal, judged with a format bank where one is known. -/
def Instr.legal (bank : Option FBank) (i : Instr) : Bool :=
  match i.nest bank with
  | some (o, sh) => sh.legal o
  | none => match i.long.row bank with
    | some f => f.sh.legal f.o
    | none => true

/-- R60: the registers named lie below the role's budget. -/
def Instr.inBudget (bank : Option FBank) (i : Instr) (budget : Nat) : Bool :=
  match i.nest bank with
  | some (o, sh) => sh.inBudget o budget
  | none => match i.long.row bank with
    | some f => f.sh.inBudget f.o budget
    | none => true

/-- R55: privileged instructions. -/
def Instr.isSys (i : Instr) : Bool := ((i.long.row none).map (·.sh.sys)).getD false

/-- The guarding predicate of an instruction (R78). -/
def Instr.guard (i : Instr) : Guard :=
  match i.nest none with
  | some (o, _) => o.g
  | none => ((i.long.row none).map (·.o.g)).getD ⟨0, false⟩

/-- The sources of an instruction with their FE policies (R70). -/
def Instr.sources (bank : Option FBank) (i : Instr) : List Source :=
  match i.nest bank with
  | some (o, sh) => sh.sources o
  | none => ((i.long.row bank).map (fun f => f.sh.sources f.o)).getD []

/-- What the checks of R61 need to know of an instruction. -/
structure Checks where
  syl : Nat
  g : Guard
  sys : Bool
  legal : FBank → Bool
  fits : FBank → Nat → Bool
  sources : FBank → List Source

def Instr.checks (i : Instr) : Checks :=
  { syl := i.syllables, g := i.guard, sys := i.isSys, legal := fun b => i.legal (some b), fits := fun b n => i.inBudget (some b) n,
    sources := fun b => i.sources (some b) }

/-- R57: an S32 instruction differs from the L64 instruction it behaves as in its length alone. -/
def Checks.short (c : Checks) : Checks := { c with syl := 1 }

/-- The checks of the loop-nest instruction of operation number `op`: the same that `Instr.checks` gives its constructor. -/
def nestChecks (op : Nat) (o : NestOps) : Checks :=
  { syl := 8, g := o.g, sys := false, legal := fun b => (nestRow (some b) op o).legal o,
    fits := fun b n => (nestRow (some b) op o).inBudget o n, sources := fun b => (nestRow (some b) op o).sources o }

end Sys2Proof
end

