-- ==== Sys2Proof/Machine/Num.lean ====
section
/-! DEFINITION. Exact numbers, the formats of R113 to R119 as values, and the `Round` step (R121 to R125). -/
namespace Sys2Proof

/-- An exact value: a NaN, an infinity, or `±m × 2^e`; a zero keeps its sign. A result that no such number equals (a quotient, a root, an
approximation) is held with a last bit 1 far below every bit that rounding looks at. -/
inductive Num where
  | nan (signalling : Bool)
  | inf (neg : Bool)
  | fin (neg : Bool) (m : Nat) (e : Int)
  deriving DecidableEq, Repr, Inhabited

/-- The flags of `sr.fsr` (R121). -/
abbrev Flags := BitVec 6
def flagIV : Flags := 1
def flagDZ : Flags := 2
def flagOF : Flags := 4
def flagUF : Flags := 8
def flagNX : Flags := 16
def flagSO : Flags := 32

/-- `m × 2^e` of a number and its sign as integers over a common exponent. -/
def signed (neg : Bool) (m : Nat) : Int := if neg then -(m : Int) else m
def Num.ofInt (neg0 : Bool) (i : Int) (e : Int) : Num := if i = 0 then .fin neg0 0 e else .fin (decide (i < 0)) i.natAbs e
/-- An integer as an exact value. -/
def Num.int (i : Int) : Num := .ofInt false i 0
def Num.isNan : Num → Bool
  | .nan _ => true
  | _ => false
def Num.isZero : Num → Bool
  | .fin _ m _ => m == 0
  | _ => false
def Num.neg : Num → Num
  | .nan s => .nan s
  | .inf n => .inf (!n)
  | .fin n m e => .fin (!n) m e
def Num.abs : Num → Num
  | .nan s => .nan s
  | .inf _ => .inf false
  | .fin _ m e => .fin false m e
def Num.sign : Num → Bool
  | .nan _ => false
  | .inf n => n
  | .fin n _ _ => n
/-- `v × 2^k`. -/
def Num.scale (k : Int) : Num → Num
  | .fin n m e => .fin n m (e + k)
  | v => v

/-- R125: a signalling operand raises IV. -/
def Num.snan : Num → Flags
  | .nan true => flagIV
  | _ => 0

/-- Bring two finite values to one exponent. -/
def align (m1 : Nat) (e1 : Int) (m2 : Nat) (e2 : Int) : Nat × Nat × Int :=
  if e1 ≤ e2 then (m1, m2 * 2 ^ (e2 - e1).toNat, e1) else (m1 * 2 ^ (e1 - e2).toNat, m2, e2)

/-- R131: a sum; `rm` says that the mode is `.RM`, under which an exact zero is −0. -/
def Num.add (rm : Bool) (x y : Num) : Num × Flags :=
  match x, y with
  | .nan a, y => (.nan false, if a then flagIV else y.snan)
  | x, .nan b => (.nan false, x.snan ||| (if b then flagIV else 0))
  | .inf a, .inf b => if a = b then (.inf a, 0) else (.nan false, flagIV)
  | .inf a, .fin _ _ _ => (.inf a, 0)
  | .fin _ _ _, .inf b => (.inf b, 0)
  | .fin a m e, .fin b k f =>
    if m = 0 ∧ k = 0 then (.fin (if a = b then a else rm) 0 e, 0)
    else
      let (m, k, e) := align m e k f
      (.ofInt rm (signed a m + signed b k) e, 0)

/-- R131, R125: a product. -/
def Num.mul (x y : Num) : Num × Flags :=
  match x, y with
  | .nan a, y => (.nan false, if a then flagIV else y.snan)
  | x, .nan b => (.nan false, x.snan ||| (if b then flagIV else 0))
  | .inf a, .inf b => (.inf (a ^^ b), 0)
  | .inf a, .fin b k _ => if k = 0 then (.nan false, flagIV) else (.inf (a ^^ b), 0)
  | .fin a m _, .inf b => if m = 0 then (.nan false, flagIV) else (.inf (a ^^ b), 0)
  | .fin a m e, .fin b k f => (.fin (a ^^ b) (m * k) (e + f), 0)

/-- R131: a fused product and sum; 0 × ∞ is invalid whatever C is. -/
def Num.fma (rm : Bool) (a b c : Num) : Num × Flags :=
  let (p, f) := a.mul b
  let (v, g) := p.add rm c
  (v, f ||| g)

/-- An inexact value as `m × 2^e` with its remainder kept in a last bit. -/
def sticky (m : Nat) (inexact : Bool) (neg : Bool) (e : Int) : Num := .fin neg (2 * m + (if inexact then 1 else 0)) (e - 1)

/-- R132: a quotient. A finite nonzero dividend over a zero gives DZ and an infinity. -/
def Num.div (x y : Num) : Num × Flags :=
  match x, y with
  | .nan a, y => (.nan false, if a then flagIV else y.snan)
  | x, .nan b => (.nan false, x.snan ||| (if b then flagIV else 0))
  | .inf _, .inf _ => (.nan false, flagIV)
  | .inf a, .fin b _ _ => (.inf (a ^^ b), 0)
  | .fin a _ _, .inf b => (.fin (a ^^ b) 0 0, 0)
  | .fin a m e, .fin b k f =>
    if k = 0 then (if m = 0 then (.nan false, flagIV) else (.inf (a ^^ b), flagDZ))
    else if m = 0 then (.fin (a ^^ b) 0 0, 0)
    else
      let up := k.log2 + 80
      let n := m * 2 ^ up
      (sticky (n / k) (n % k != 0) (a ^^ b) (e - f - up), 0)

/-- R132: a square root. -/
def Num.sqrt (x : Num) : Num × Flags :=
  match x with
  | .nan a => (.nan false, if a then flagIV else 0)
  | .inf true => (.nan false, flagIV)
  | .inf false => (.inf false, 0)
  | .fin neg m e =>
    if m = 0 then (.fin neg 0 e, 0)
    else if neg then (.nan false, flagIV)
    else
      let up : Nat := if (e % 2 = 0) then 160 else 161
      let n := m * 2 ^ up
      let r := Nat.sqrt n
      (sticky r (r * r != n) false ((e - up) / 2), 0)

/-- The order of two numbers: `none` when either is a NaN; −0 equals +0. -/
def Num.cmp (x y : Num) : Option Ordering :=
  match x, y with
  | .nan _, _ | _, .nan _ => none
  | .inf a, .inf b => some (if a = b then .eq else if a then .lt else .gt)
  | .inf a, .fin _ _ _ => some (if a then .lt else .gt)
  | .fin _ _ _, .inf b => some (if b then .gt else .lt)
  | .fin a m e, .fin b k f =>
    let (m, k, _) := align m e k f
    some (compare (signed a m) (signed b k))

/-! ### Formats (R113 to R119) -/

/-- Which codes of a float format are NaN (R115, R118). -/
inductive NanCodes where
  | ieee   -- exponent all ones, mantissa nonzero; the exponent all ones with mantissa zero is an infinity
  | top    -- every exponent and mantissa bit set
  | none
  deriving DecidableEq, Repr

/-- What the codes of a format mean. -/
inductive FSpec where
  | flt (sgn : Bool) (e m : Nat) (bias : Int) (nan : NanCodes)
  | fix (signed : Bool) (w : Nat) (q : Int)    -- integers, natural or two's complement, times 2^q
  | pow                                        -- E8M0
  | one                                        -- B1
  deriving DecidableEq, Repr

/-- The specification of each format (R113 to R119). -/
def Fmt.spec (bank : FBank) : Fmt → FSpec
  | .f64 => .flt true 11 52 1023 .ieee
  | .f32 => .flt true 8 23 127 .ieee
  | .f19 => .flt true 8 10 127 .ieee
  | .bf16 => .flt true 8 7 127 .ieee
  | .f16 => .flt true 5 10 15 .ieee
  | .e4m3 => .flt true 4 3 7 .top
  | .e5m2 => .flt true 5 2 15 .ieee
  | .e3m4 => .flt true 3 4 3 .top
  | .e2m5 => .flt true 2 5 1 .none
  | .e3m2 => .flt true 3 2 3 .none
  | .e2m3 => .flt true 2 3 1 .none
  | .e2m1 => .flt true 2 1 1 .none
  | .e1m2 => .flt true 1 2 1 .none
  | .e8m0 => .pow
  | .i32 => .fix true 32 0
  | .i16 => .fix true 16 0
  | .i8 => .fix true 8 0
  | .n8 => .fix false 8 0
  | .i4 => .fix true 4 0
  | .n4 => .fix false 4 0
  | .i2 => .fix true 2 0
  | .b1 => .one
  | .e6m1 => .flt true 6 1 31 .top
  | .q7 => .fix true 8 (-7)
  | .pf k =>
    let x := bank[k.toNat]
    .flt (pfSgn x) (pfEb x) (pfMb x) (pfBias x) (if pfSpec x then .top else .none)

/-- The code of an element within its storage: F19 lies in the high bits of a word (R113). -/
def Fmt.toCode (f : Fmt) (x : Nat) : Nat := if f = .f19 then x / 2 ^ 13 else x
def Fmt.ofCodeBits (f : Fmt) (x : Nat) : Nat := if f = .f19 then x * 2 ^ 13 else x

/-- The magnitude `code` of a float format (R114, R119). -/
def fltValue (e m : Nat) (bias : Int) (code : Nat) : Nat × Int :=
  let ex := code / 2 ^ m % 2 ^ e
  let ma := code % 2 ^ m
  if e = 0 then (ma, -bias)
  else if ex = 0 then (ma, 1 - bias - m)
  else (2 ^ m + ma, ex - bias - m)

/-- The value of a code (R114 to R119). -/
def FSpec.value (f : FSpec) (code : Nat) : Num :=
  match f with
  | .flt sgn e m bias nan =>
    let mag := code % 2 ^ (e + m)
    let neg := sgn && code.testBit (e + m)
    match nan with
    | .ieee =>
      if mag / 2 ^ m = 2 ^ e - 1 then
        (if mag % 2 ^ m = 0 then .inf neg else .nan (!(mag.testBit (m - 1))))
      else let (k, x) := fltValue e m bias mag; .fin neg k x
    | .top => if mag = 2 ^ (e + m) - 1 then .nan false else let (k, x) := fltValue e m bias mag; .fin neg k x
    | .none => let (k, x) := fltValue e m bias mag; .fin neg k x
  | .fix sg w q =>
    let c := code % 2 ^ w
    .ofInt false (if sg ∧ 2 ^ (w - 1) ≤ c then (c : Int) - 2 ^ w else c) q
  | .pow => if code % 256 = 255 then .nan false else .fin false 1 ((code % 256 : Nat) - 127)
  | .one => .fin (code.testBit 0) 1 0

/-- The value of storage bits in a format. -/
def Fmt.value (bank : FBank) (f : Fmt) (x : Nat) : Num := (f.spec bank).value (f.toCode x)

/-- The largest finite magnitude code of a float format (R115, R118). -/
def maxCode (e m : Nat) : NanCodes → Nat
  | .ieee => (2 ^ e - 1) * 2 ^ m - 1
  | .top => 2 ^ (e + m) - 2
  | .none => 2 ^ (e + m) - 1
/-- The canonical NaN code, where there is one (R115). -/
def canonNan (e m : Nat) : NanCodes → Option Nat
  | .ieee => some ((2 ^ e - 1) * 2 ^ m + 2 ^ (m - 1))
  | .top => some (2 ^ (e + m) - 1)
  | .none => Option.none

/-! ### Rounding (R122 to R124) -/

/-- How an instruction rounds: its mode, SAT, FTZ, the dither term d of R123, and whether it applied an E8M0 scale. -/
structure RoundBy where
  mode : Rnd
  sat : Sat := .none
  ftz : Bool := false
  dither : Nat := 0
  scaled : Bool := false
  deriving DecidableEq, Repr, Inhabited

/-- R123: the dither matrix, row by row. -/
def ditherMatrix : List Nat :=
  [0, 32, 8, 40, 2, 34, 10, 42, 48, 16, 56, 24, 50, 18, 58, 26, 12, 44, 4, 36, 14, 46, 6, 38, 60, 28, 52, 20, 62, 30, 54, 22,
   3, 35, 11, 43, 1, 33, 9, 41, 51, 19, 59, 27, 49, 17, 57, 25, 15, 47, 7, 39, 13, 45, 5, 37, 63, 31, 55, 23, 61, 29, 53, 21]
/-- R123: d at a row and column and a phase. -/
def ditherAt (row col phase : Nat) : Nat := (ditherMatrix.getD (8 * (row % 8) + col % 8) 0 + phase) % 64
/-- R123: d at a linear index. -/
def ditherIdx (i phase : Nat) : Nat := ditherAt (i / 8) i phase

/-- R122, R123: the integer multiple of 2^q that a magnitude `m × 2^e` rounds to, and whether it is exact. `up` says that the mode's
direction is away from zero for this sign; `tieUp` that a tie under `.RN` takes the larger magnitude (R116). Where a format has no mantissa bits, the last bit of `.RN`
and `.RO` is that of the whole significand. DESIGN CHOICE (assumption 81). -/
def roundGrid (by_ : RoundBy) (neg tieUp : Bool) (m : Nat) (e q : Int) : Nat × Bool :=
  if q ≤ e then (m * 2 ^ (e - q).toNat, true)
  else
    let k := (q - e).toNat
    let n := m / 2 ^ k
    let r := m % 2 ^ k
    if r = 0 then (n, true)
    else
      let inc := match by_.mode with
        | .rn => if 2 * r = 2 ^ k then (tieUp || n % 2 = 1) else decide (2 ^ k < 2 * r)
        | .ra => decide (2 ^ k ≤ 2 * r)
        | .rz => false
        | .rp => !neg
        | .rm => neg
        | .rs => decide (64 * 2 ^ k ≤ 64 * r + by_.dither * 2 ^ k)
        | .ro => n % 2 = 0
        | .dyn => false
      (if inc then n + 1 else n, false)

/-- ⌊log2⌋ of `m × 2^e`, for m ≠ 0. -/
def floorLog (m : Nat) (e : Int) : Int := (m.log2 : Int) + e

/-- The exponent of the ulp at a magnitude in a float format (R122). -/
def ulpExp (e m : Nat) (bias : Int) (k : Nat) (x : Int) : Int :=
  if e = 0 then -bias else max (1 - bias - m) (floorLog k x - m)

/-- The magnitude code of `n × 2^q`, a value on the format's grid (R114, R119). -/
def encodeMag (e m : Nat) (bias : Int) (n : Nat) (q : Int) : Nat :=
  if n = 0 then 0
  else if e = 0 then n
  else
    let l := floorLog n q
    let base := 1 - bias - m
    if l < 1 - bias then n * 2 ^ (q - base).toNat
    else
      let sh := l - m
      let man := if q ≤ sh then n / 2 ^ (sh - q).toNat else n * 2 ^ (q - sh).toNat
      ((l + bias).toNat) * 2 ^ m + (man - 2 ^ m)

/-- R124 for an overflow or infinity: the largest finite value or an infinity. -/
def signBit (sgn neg : Bool) (w : Nat) : Nat := if sgn ∧ neg then 2 ^ w else 0

/-- R121: the exact value, rounded to the precision with the exponent unbounded below, lies below the smallest normal value. -/
def tiny (by_ : RoundBy) (neg : Bool) (m : Nat) (bias : Int) (k : Nat) (x : Int) : Bool :=
  let q := floorLog k x - m
  let (n, _) := roundGrid by_ neg false k x q
  decide (floorLog n q < 1 - bias)

/-- R124 for a float format. -/
def roundFlt (by_ : RoundBy) (sgn : Bool) (e m : Nat) (bias : Int) (nc : NanCodes) (v : Num) : Nat × Flags :=
  let w := e + m
  let top := maxCode e m nc
  let special (neg : Bool) : Nat × Flags :=
    match canonNan e m nc with
    | some c => (c, 0)
    | Option.none => (signBit sgn neg w + top, 0)
  match v with
  | .nan _ =>
    match canonNan e m nc with
    | some c => (c, 0)
    | Option.none => (if by_.sat = .sati then top else 0, flagIV)
  | .inf neg =>
    if !sgn ∧ neg then (0, flagIV)
    else if by_.sat = .sati then (signBit sgn neg w + top, 0)
    else if nc = .ieee then (signBit sgn neg w + (2 ^ e - 1) * 2 ^ m, 0)
    else ((special neg).1, flagIV)
  | .fin neg k x =>
    if k = 0 then (signBit sgn neg w, 0)
    else
      let q := ulpExp e m bias k x
      let (n, exact) := roundGrid by_ neg false k x q
      if !sgn ∧ neg then
        (if n = 0 then (0, flagNX ||| (if e > 0 then flagUF else 0)) else (0, flagIV))
      else
        let s := signBit sgn neg w
        let (tk, tx) := fltValue e m bias top
        let (a, b, _) := align n q tk tx
        if b < a then
          let f := flagOF ||| flagNX ||| (if by_.scaled then flagSO else 0)
          if by_.sat ≠ .none then (s + top, f)
          else if nc ≠ .ieee then ((special neg).1, f)
          else if by_.mode = .rn ∨ by_.mode = .ra ∨ (by_.mode = .rp ∧ !neg) ∨ (by_.mode = .rm ∧ neg) then (s + (2 ^ e - 1) * 2 ^ m, f)
          else (s + top, f)
        else
          let isTiny := e > 0 && tiny by_ neg m bias k x
          if isTiny ∧ by_.ftz ∧ m ≠ 0 then (s, flagUF ||| flagNX)
          else (s + encodeMag e m bias n q, (if exact then 0 else flagNX) ||| (if isTiny ∧ !exact then flagUF else 0))

/-- R124 for an integer or fixed-point format: its range is that of R117, and an overflow on the negative side gives the least value. DEDUCED (assumption 80). -/
def roundFix (by_ : RoundBy) (sg : Bool) (w : Nat) (q : Int) (v : Num) : Nat × Flags :=
  let hi : Nat := if sg then 2 ^ (w - 1) - 1 else 2 ^ w - 1
  let lo : Nat := if sg then 2 ^ (w - 1) else 0
  match v with
  | .nan _ => (if by_.sat = .sati then hi else 0, flagIV)
  | .inf neg =>
    if !sg ∧ neg then (0, flagIV)
    else (if neg then 2 ^ w - lo else hi, if by_.sat = .sati then 0 else flagIV)
  | .fin neg k x =>
    if k = 0 then (0, 0)
    else
      let (n, exact) := roundGrid by_ neg false k x q
      if !sg ∧ neg then (if n = 0 then (0, flagNX) else (0, flagIV))
      else if (neg ∧ lo < n) ∨ (!neg ∧ hi < n) then
        (if neg then 2 ^ w - lo else hi, flagOF ||| flagNX ||| (if by_.scaled then flagSO else 0))
      else ((if neg then 2 ^ w - n else n) % 2 ^ w, if exact then 0 else flagNX)

/-- R116, R124 for E8M0. -/
def roundPow (by_ : RoundBy) (v : Num) : Nat × Flags :=
  match v with
  | .nan _ => (255, 0)
  | .inf neg => if neg then (255, flagIV) else if by_.sat = .sati then (254, 0) else (255, flagIV)
  | .fin neg k x =>
    if neg ∨ k = 0 then (255, flagIV)
    else
      let l := floorLog k x
      let (n, exact) := roundGrid by_ false true k x l
      let l := if n = 2 then l + 1 else l
      if l < -127 then (0, flagUF ||| flagNX)
      else if 127 < l then
        (if by_.sat ≠ .none then 254 else 255, flagOF ||| flagNX ||| (if by_.scaled then flagSO else 0))
      else ((l + 127).toNat, if exact then 0 else flagNX)

/-- The `Round` helper (R124): the code a value takes in a format, and the flags raised. -/
def FSpec.round (f : FSpec) (by_ : RoundBy) (v : Num) : Nat × Flags :=
  match f with
  | .flt sgn e m bias nc => roundFlt by_ sgn e m bias nc v
  | .fix sg w q => roundFix by_ sg w q v
  | .pow => roundPow by_ v
  | .one => (if v.sign then 1 else 0, 0)

/-- `Round` to the storage bits of a format. -/
def Fmt.round (bank : FBank) (f : Fmt) (by_ : RoundBy) (v : Num) : Nat × Flags :=
  let (c, fl) := (f.spec bank).round by_ v
  (f.ofCodeBits c, fl)

/-- R133: the smaller operand, or the larger; the result is an operand's own bits, or the canonical NaN. -/
def minMaxBits (bank : FBank) (f : Fmt) (max : Bool) (x y : Nat) : Nat × Flags :=
  let a := f.value bank x
  let b := f.value bank y
  let fl := a.snan ||| b.snan
  match a.isNan, b.isNan with
  | true, true => ((f.round bank { mode := .rn } (.nan false)).1, fl)
  | true, false => (y, fl)
  | false, true => (x, fl)
  | false, false =>
    let less : Bool := match a.cmp b with
      | some .lt => true
      | some .gt => false
      | _ => a.sign && !b.sign
    (if less != max then x else y, fl)

end Sys2Proof
end

