-- ==== Sys2Proof/WellFormed.lean ====
section
/-! DEFINITION. Well-formed instructions: the checks of R60 that need no state. The checks that depend on the gang's format
bank or the role's register budget are made at issue (R61). -/
namespace Sys2Proof

/-- Rows that are events of agents other than a thread; they have no encoding. -/
def Instr.isEvent (i : Instr) : Bool := i.syllables == 0

/-- R60, as far as the encoding alone decides it. -/
def Instr.wf (i : Instr) : Bool := i.legal none

end Sys2Proof
end

