-- ==== Sys2Proof/Decode.lean ====
section
/-! DEFINITION. Decoding of the four formats (R42, R43, R46 to R51, R53) by the opcode maps (R55, R57, R58), total on any bits and
rejecting by name (R60), and the encoder written from the same layouts. -/
namespace Sys2Proof

/-- Why bits are no instruction (R60). -/
inductive Reject where
  | truncated    -- fewer bytes than the length of R36
  | unassigned   -- an opcode that no map assigns
  | reserved     -- a reserved value in MOD15, GS or a reserved bit
  | illegal      -- a form or field value that the instruction's row does not accept
  deriving DecidableEq, Repr, Inhabited

/-! ### Bit fields: a layout is the list of the widths of its fields, lowest first. -/

/-- The values of the fields of a layout in a number. -/
def unpack : List Nat → Nat → List Nat
  | [], _ => []
  | w :: ws, n => n % 2 ^ w :: unpack ws (n / 2 ^ w)

/-- The number whose fields hold the given values. -/
def pack : List Nat → List Nat → Nat
  | w :: ws, v :: vs => v % 2 ^ w + 2 ^ w * pack ws vs
  | _, _ => 0

/-- R42: LEN, OP6, D, A, B, P, PN, FA, FB. -/
def layoutS32 : List Nat := [2, 6, 6, 6, 6, 3, 1, 1, 1]
/-- R43: LEN, OP8, D, A, B, C, P, PN, FA, FB, FC, MOD15. -/
def layoutL64 : List Nat := [2, 8, 8, 8, 8, 8, 3, 1, 1, 1, 1, 15]
/-- R43: the same with LIT32. -/
def layoutW96 : List Nat := layoutL64 ++ [32]
/-- R53: LEN, OP6, TYPE5, RND, DB, AB, BB, GS, P, PN, NLEV, EXT, STRIDES, SSH, reserved. -/
def layoutN256 : List Nat := [2, 6, 5, 3, 7, 7, 7, 5, 3, 1, 3, 50, 150, 6, 1]
/-- R50: SEL8, reserved, SUB. -/
def layoutCtl : List Nat := [8, 3, 4]
/-- R47: ITYPE, ISAT, CP, reserved, SUB. -/
def layoutInt : List Nat := [3, 2, 3, 3, 4]
/-- R46: TYPE5, RND, SAT, FTZ, SUB. -/
def layoutFp : List Nat := [5, 3, 2, 1, 4]
/-- R48: ORD, SCOPE, EVICT, SIZE, SPACE, reserved. -/
def layoutMem : List Nat := [2, 3, 3, 3, 2, 2]
/-- R49: ORD, SCOPE, DTYPE, SPACE, reserved, SUB. -/
def layoutSync : List Nat := [2, 3, 3, 2, 1, 4]
/-- R51: GS, TYPE5, SCOPE, SUB2. -/
def layoutEng : List Nat := [5, 5, 3, 2]

/-! ### The codes of the modifier fields -/

def Rnd.code : Rnd → Nat
  | .rn => 0 | .rz => 1 | .rp => 2 | .rm => 3 | .ra => 4 | .rs => 5 | .ro => 6 | .dyn => 7
def Rnd.ofCode : Nat → Rnd
  | 0 => .rn | 1 => .rz | 2 => .rp | 3 => .rm | 4 => .ra | 5 => .rs | 6 => .ro | _ => .dyn
def Sat.code : Sat → Nat
  | .none => 0 | .sat => 1 | .sati => 2
def Sat.ofCode : Nat → Option Sat
  | 0 => some .none | 1 => some .sat | 2 => some .sati | _ => Option.none
def Scope.ofCode : Nat → Scope
  | 0 => .th | 1 => .grp | 2 => .core | 3 => .quad | 4 => .die | 5 => .dev | 6 => .host | _ => .fab
def Space.code : Space → Nat
  | .glb => 0 | .scr => 1 | .prv => 2 | .par => 3
def Space.ofCode : Nat → Space
  | 0 => .glb | 1 => .scr | 2 => .prv | _ => .par
def Ord.code : Ord → Nat
  | .rlx => 0 | .acq => 1 | .rel => 2 | .ar => 3
def Ord.ofCode : Nat → Ord
  | 0 => .rlx | 1 => .acq | 2 => .rel | _ => .ar
def DType.code : DType → Nat
  | .n32 => 0 | .i32 => 1 | .n64 => 2 | .i64 => 3 | .f32 => 4 | .f64 => 5 | .bf16x2 => 6 | .n128 => 7
def DType.ofCode : Nat → DType
  | 0 => .n32 | 1 => .i32 | 2 => .n64 | 3 => .i64 | 4 => .f32 | 5 => .f64 | 6 => .bf16x2 | _ => .n128
/-- R51: guard slots 0 to 15 and 31 for none; 16 to 30 are reserved. -/
def gsCode : Option (BitVec 4) → Nat
  | none => 31
  | some g => g.toNat
def gsOfCode (n : Nat) : Option (Option (BitVec 4)) :=
  if n < 16 then some (some (BitVec.ofNat 4 n)) else if n = 31 then some none else none

def CtlMod.fields (m : CtlMod) : List Nat := [m.sel.toNat, 0, m.sub.toNat]
def CtlMod.ofFields : List Nat → Option CtlMod
  | [sel, r, sub] => if r = 0 then some ⟨BitVec.ofNat 4 sub, BitVec.ofNat 8 sel⟩ else none
  | _ => none
def IntMod.fields (m : IntMod) : List Nat := [m.ty.code.toNat, m.sat.toNat, m.cp.toNat, 0, m.sub.toNat]
def IntMod.ofFields : List Nat → Option IntMod
  | [ty, sat, cp, r, sub] =>
    if r = 0 ∧ sat < 2 then some ⟨BitVec.ofNat 4 sub, BitVec.ofNat 3 cp, decide (sat = 1), IType.ofCode (BitVec.ofNat 3 ty)⟩ else none
  | _ => none
def FpMod.fields (m : FpMod) : List Nat := [m.ty.code.toNat, m.rnd.code, m.sat.code, m.ftz.toNat, m.sub.toNat]
def FpMod.ofFields : List Nat → Option FpMod
  | [ty, rnd, sat, ftz, sub] =>
    (Sat.ofCode sat).map (fun s => ⟨BitVec.ofNat 4 sub, decide (ftz = 1), s, Rnd.ofCode rnd, Fmt.ofCode (BitVec.ofNat 5 ty)⟩)
  | _ => none
def MemMod.fields (m : MemMod) : List Nat := [m.ord.code, m.scope.code, m.evict.toNat, m.size.toNat, m.space.code, 0]
def MemMod.ofFields : List Nat → Option MemMod
  | [ord, scope, evict, size, space, r] =>
    if r = 0 then some ⟨Space.ofCode space, BitVec.ofNat 3 size, BitVec.ofNat 3 evict, Scope.ofCode scope, Ord.ofCode ord⟩ else none
  | _ => none
def SyncMod.fields (m : SyncMod) : List Nat := [m.ord.code, m.scope.code, m.ty.code, m.space.code, 0, m.sub.toNat]
def SyncMod.ofFields : List Nat → Option SyncMod
  | [ord, scope, ty, space, r, sub] =>
    if r = 0 then some ⟨BitVec.ofNat 4 sub, Space.ofCode space, DType.ofCode ty, Scope.ofCode scope, Ord.ofCode ord⟩ else none
  | _ => none
def EngMod.fields (m : EngMod) : List Nat := [gsCode m.gs, m.ty.code.toNat, m.scope.code, m.sub.toNat]
def EngMod.ofFields : List Nat → Option EngMod
  | [gs, ty, scope, sub] =>
    (gsOfCode gs).map (fun g => ⟨BitVec.ofNat 2 sub, Scope.ofCode scope, Fmt.ofCode (BitVec.ofNat 5 ty), g⟩)
  | _ => none

/-- MOD15 in one of the six layouts of R45. -/
inductive Mod where
  | ctl (m : CtlMod) | int (m : IntMod) | fp (m : FpMod) | mem (m : MemMod) | sync (m : SyncMod) | eng (m : EngMod)
  deriving DecidableEq, Repr

def Mod.code : Mod → Nat
  | .ctl m => pack layoutCtl m.fields
  | .int m => pack layoutInt m.fields
  | .fp m => pack layoutFp m.fields
  | .mem m => pack layoutMem m.fields
  | .sync m => pack layoutSync m.fields
  | .eng m => pack layoutEng m.fields

/-- The layout of an opcode's MOD15 (R45). -/
def Mod.ofCode (op n : Nat) : Option Mod :=
  match op / 16 with
  | 0x0 | 0x1 | 0x9 | 0xC | 0xF => (CtlMod.ofFields (unpack layoutCtl n)).map .ctl
  | 0x2 | 0x3 => (IntMod.ofFields (unpack layoutInt n)).map .int
  | 0x4 | 0x5 | 0x6 => (FpMod.ofFields (unpack layoutFp n)).map .fp
  | 0x7 => (MemMod.ofFields (unpack layoutMem n)).map .mem
  | 0xA | 0xB => (EngMod.ofFields (unpack layoutEng n)).map .eng
  | 0xD => if op = 0xD2 ∨ op = 0xD3 then (MemMod.ofFields (unpack layoutMem n)).map .mem
    else (SyncMod.ofFields (unpack layoutSync n)).map .sync
  | _ => (SyncMod.ofFields (unpack layoutSync n)).map .sync

/-! ### The opcode maps
Lean's code generator does not build constructors past the 245th of one type, so the maps and what calls them have no
compiled code; the kernel evaluates them. -/

noncomputable section

/-- What the fields of an instruction are before its opcode is looked up. -/
inductive Form where
  | s (op : Nat) (o : SOps)
  | l (op : Nat) (o : LOps) (m : Mod)
  | n (op : Nat) (o : NestOps)
  deriving DecidableEq, Repr

/-- R57, R55, R58: the opcode of each instruction; an event has none. -/
def Instr.form : Instr → Option Form
  | .nopS32 o => some (.s 0x00 o)
  | .exitS32 o => some (.s 0x01 o)
  | .yieldS32 o => some (.s 0x02 o)
  | .convS32 o => some (.s 0x03 o)
  | .retS32 o => some (.s 0x04 o)
  | .barGrpS32 o => some (.s 0x05 o)
  | .guardSetS32 o => some (.s 0x06 o)
  | .guardClrS32 o => some (.s 0x07 o)
  | .plogAndS32 o => some (.s 0x08 o)
  | .plogOrS32 o => some (.s 0x09 o)
  | .plogXorS32 o => some (.s 0x0A o)
  | .plogAndnS32 o => some (.s 0x0B o)
  | .twaitS32 o => some (.s 0x0C o)
  | .tstateS32 o => some (.s 0x0D o)
  | .dbgBrkS32 o => some (.s 0x0E o)
  | .ssyncS32 o => some (.s 0x0F o)
  | .addI32S32 o => some (.s 0x10 o)
  | .subI32S32 o => some (.s 0x11 o)
  | .mulI32S32 o => some (.s 0x12 o)
  | .andN32S32 o => some (.s 0x13 o)
  | .orN32S32 o => some (.s 0x14 o)
  | .xorN32S32 o => some (.s 0x15 o)
  | .shlN32S32 o => some (.s 0x16 o)
  | .shrN32S32 o => some (.s 0x17 o)
  | .sarI32S32 o => some (.s 0x18 o)
  | .minI32S32 o => some (.s 0x19 o)
  | .maxI32S32 o => some (.s 0x1A o)
  | .minN32S32 o => some (.s 0x1B o)
  | .maxN32S32 o => some (.s 0x1C o)
  | .movN32S32 o => some (.s 0x1D o)
  | .cmpI32S32 o => some (.s 0x1E o)
  | .cmpN32S32 o => some (.s 0x1F o)
  | .addF32S32 o => some (.s 0x20 o)
  | .subF32S32 o => some (.s 0x21 o)
  | .mulF32S32 o => some (.s 0x22 o)
  | .minF32S32 o => some (.s 0x23 o)
  | .maxF32S32 o => some (.s 0x24 o)
  | .cmpF32S32 o => some (.s 0x25 o)
  | .addF64S32 o => some (.s 0x26 o)
  | .subF64S32 o => some (.s 0x27 o)
  | .mulF64S32 o => some (.s 0x28 o)
  | .rcpF32S32 o => some (.s 0x29 o)
  | .rsqF32S32 o => some (.s 0x2A o)
  | .exp2F32S32 o => some (.s 0x2B o)
  | .log2F32S32 o => some (.s 0x2C o)
  | .nop o m => some (.l 0x00 o (.ctl m))
  | .bra o m => some (.l 0x01 o (.ctl m))
  | .jmp o m => some (.l 0x02 o (.ctl m))
  | .call o m => some (.l 0x03 o (.ctl m))
  | .calli o m => some (.l 0x04 o (.ctl m))
  | .ret o m => some (.l 0x05 o (.ctl m))
  | .exit o m => some (.l 0x06 o (.ctl m))
  | .yield o m => some (.l 0x07 o (.ctl m))
  | .conv o m => some (.l 0x08 o (.ctl m))
  | .barGrp o m => some (.l 0x09 o (.ctl m))
  | .guardSet o m => some (.l 0x0A o (.ctl m))
  | .guardClr o m => some (.l 0x0B o (.ctl m))
  | .plog o m => some (.l 0x0C o (.ctl m))
  | .pmovRd o m => some (.l 0x0D o (.ctl m))
  | .pmovWr o m => some (.l 0x0D o (.ctl m))
  | .sread o m => some (.l 0x0E o (.ctl m))
  | .swrite o m => some (.l 0x0F o (.ctl m))
  | .brdec o m => some (.l 0x10 o (.ctl m))
  | .brv o m => some (.l 0x11 o (.ctl m))
  | .nap o m => some (.l 0x12 o (.ctl m))
  | .ipref o m => some (.l 0x13 o (.ctl m))
  | .feSet o m => some (.l 0x14 o (.ctl m))
  | .feTest o m => some (.l 0x15 o (.ctl m))
  | .add o m => some (.l 0x20 o (.int m))
  | .sub o m => some (.l 0x21 o (.int m))
  | .addc o m => some (.l 0x22 o (.int m))
  | .subb o m => some (.l 0x23 o (.int m))
  | .mul o m => some (.l 0x24 o (.int m))
  | .mulh o m => some (.l 0x25 o (.int m))
  | .mad o m => some (.l 0x26 o (.int m))
  | .div o m => some (.l 0x27 o (.int m))
  | .rem o m => some (.l 0x28 o (.int m))
  | .min o m => some (.l 0x29 o (.int m))
  | .max o m => some (.l 0x2A o (.int m))
  | .abs o m => some (.l 0x2B o (.int m))
  | .neg o m => some (.l 0x2C o (.int m))
  | .and o m => some (.l 0x2D o (.int m))
  | .or o m => some (.l 0x2E o (.int m))
  | .xor o m => some (.l 0x2F o (.int m))
  | .andn o m => some (.l 0x30 o (.int m))
  | .shl o m => some (.l 0x31 o (.int m))
  | .shr o m => some (.l 0x32 o (.int m))
  | .sar o m => some (.l 0x33 o (.int m))
  | .rot o m => some (.l 0x34 o (.int m))
  | .bfx o m => some (.l 0x35 o (.int m))
  | .bfi o m => some (.l 0x36 o (.int m))
  | .popc o m => some (.l 0x37 o (.int m))
  | .clz o m => some (.l 0x38 o (.int m))
  | .brev o m => some (.l 0x39 o (.int m))
  | .cmp o m => some (.l 0x3A o (.int m))
  | .sel o m => some (.l 0x3B o (.int m))
  | .mov o m => some (.l 0x3C o (.int m))
  | .lea o m => some (.l 0x3D o (.int m))
  | .fpAdd o m => some (.l 0x40 o (.fp m))
  | .fpSub o m => some (.l 0x41 o (.fp m))
  | .fpMul o m => some (.l 0x42 o (.fp m))
  | .fma o m => some (.l 0x43 o (.fp m))
  | .fms o m => some (.l 0x44 o (.fp m))
  | .fnma o m => some (.l 0x45 o (.fp m))
  | .fnms o m => some (.l 0x46 o (.fp m))
  | .fpDiv o m => some (.l 0x47 o (.fp m))
  | .sqrt o m => some (.l 0x48 o (.fp m))
  | .fpMin o m => some (.l 0x49 o (.fp m))
  | .fpMax o m => some (.l 0x4A o (.fp m))
  | .fpAbs o m => some (.l 0x4B o (.fp m))
  | .fpNeg o m => some (.l 0x4C o (.fp m))
  | .cpysgn o m => some (.l 0x4D o (.fp m))
  | .fpCmp o m => some (.l 0x4E o (.fp m))
  | .fclass o m => some (.l 0x4F o (.fp m))
  | .rint o m => some (.l 0x50 o (.fp m))
  | .scale o m => some (.l 0x51 o (.fp m))
  | .getexp o m => some (.l 0x52 o (.fp m))
  | .cvt o m => some (.l 0x53 o (.fp m))
  | .cvti o m => some (.l 0x54 o (.fp m))
  | .cvtf o m => some (.l 0x55 o (.fp m))
  | .padd o m => some (.l 0x56 o (.fp m))
  | .pmul o m => some (.l 0x57 o (.fp m))
  | .pfma o m => some (.l 0x58 o (.fp m))
  | .pdot o m => some (.l 0x59 o (.fp m))
  | .pcvt o m => some (.l 0x5A o (.fp m))
  | .pmax o m => some (.l 0x5B o (.fp m))
  | .shfl o m => some (.l 0x60 o (.fp m))
  | .bcast o m => some (.l 0x61 o (.fp m))
  | .vote o m => some (.l 0x62 o (.fp m))
  | .laneRed o m => some (.l 0x63 o (.fp m))
  | .laneScan o m => some (.l 0x64 o (.fp m))
  | .laneChain o m => some (.l 0x65 o (.fp m))
  | .matchAny o m => some (.l 0x66 o (.fp m))
  | .rcp o m => some (.l 0x67 o (.fp m))
  | .rsq o m => some (.l 0x68 o (.fp m))
  | .exp2 o m => some (.l 0x69 o (.fp m))
  | .log2 o m => some (.l 0x6A o (.fp m))
  | .sin o m => some (.l 0x6B o (.fp m))
  | .cos o m => some (.l 0x6C o (.fp m))
  | .tanh o m => some (.l 0x6D o (.fp m))
  | .ssync o m => some (.l 0x6E o (.fp m))
  | .ld o m => some (.l 0x70 o (.mem m))
  | .ldSignExtend o m => some (.l 0x71 o (.mem m))
  | .st o m => some (.l 0x72 o (.mem m))
  | .ldu o m => some (.l 0x73 o (.mem m))
  | .stz o m => some (.l 0x74 o (.mem m))
  | .stm o m => some (.l 0x75 o (.mem m))
  | .pref o m => some (.l 0x76 o (.mem m))
  | .prefCnt o m => some (.l 0x77 o (.mem m))
  | .cctl o m => some (.l 0x78 o (.mem m))
  | .cdisc o m => some (.l 0x79 o (.mem m))
  | .salloc o m => some (.l 0x7A o (.mem m))
  | .sfree o m => some (.l 0x7B o (.mem m))
  | .probe o m => some (.l 0x7C o (.mem m))
  | .atom o m => some (.l 0x80 o (.sync m))
  | .atomFloat o m => some (.l 0x81 o (.sync m))
  | .atomCas o m => some (.l 0x82 o (.sync m))
  | .red o m => some (.l 0x83 o (.sync m))
  | .redFloat o m => some (.l 0x84 o (.sync m))
  | .fence o m => some (.l 0x85 o (.sync m))
  | .waitVal o m => some (.l 0x86 o (.sync m))
  | .ldLink o m => some (.l 0x87 o (.sync m))
  | .stCond o m => some (.l 0x88 o (.sync m))
  | .barInit o m => some (.l 0x89 o (.sync m))
  | .barArrive o m => some (.l 0x8A o (.sync m))
  | .barWait o m => some (.l 0x8B o (.sync m))
  | .barSync o m => some (.l 0x8C o (.sync m))
  | .barTest o m => some (.l 0x8D o (.sync m))
  | .barDrop o m => some (.l 0x8E o (.sync m))
  | .chkInjectEarly o m => some (.l 0x90 o (.ctl m))
  | .chkInjectHash o m => some (.l 0x90 o (.ctl m))
  | .chkInjectSkip o m => some (.l 0x90 o (.ctl m))
  | .chkInjectDup o m => some (.l 0x90 o (.ctl m))
  | .chkRead o m => some (.l 0x91 o (.ctl m))
  | .chkSync o m => some (.l 0x92 o (.ctl m))
  | .chkClear o m => some (.l 0x93 o (.ctl m))
  | .chkSample o m => some (.l 0x94 o (.ctl m))
  | .mma o m => some (.l 0xA0 o (.eng m))
  | .mmaJ o m => some (.l 0xA1 o (.eng m))
  | .mmaF64 o m => some (.l 0xA2 o (.eng m))
  | .slateLd o m => some (.l 0xA3 o (.eng m))
  | .slateSp o m => some (.l 0xA4 o (.eng m))
  | .slateRel o m => some (.l 0xA5 o (.eng m))
  | .epi o m => some (.l 0xA6 o (.eng m))
  | .accRd o m => some (.l 0xA7 o (.eng m))
  | .accWr o m => some (.l 0xA8 o (.eng m))
  | .accZero o m => some (.l 0xA9 o (.eng m))
  | .accZeroFree o m => some (.l 0xA9 o (.eng m))
  | .mstat o m => some (.l 0xAA o (.eng m))
  | .mstatNow o m => some (.l 0xAA o (.eng m))
  | .mreset o m => some (.l 0xAB o (.eng m))
  | .tcopy o m => some (.l 0xB0 o (.eng m))
  | .tstore o m => some (.l 0xB1 o (.eng m))
  | .twait o m => some (.l 0xB2 o (.eng m))
  | .tstate o m => some (.l 0xB3 o (.eng m))
  | .tdef o m => some (.l 0xB4 o (.eng m))
  | .tfree o m => some (.l 0xB5 o (.eng m))
  | .tfill o m => some (.l 0xB6 o (.eng m))
  | .tmov o m => some (.l 0xB7 o (.eng m))
  | .tcancel o m => some (.l 0xB8 o (.eng m))
  | .emit o m => some (.l 0xC0 o (.ctl m))
  | .emitTry o m => some (.l 0xC1 o (.ctl m))
  | .launchJob o m => some (.l 0xC2 o (.ctl m))
  | .cancel o m => some (.l 0xC3 o (.ctl m))
  | .quiesce o m => some (.l 0xC4 o (.ctl m))
  | .resume o m => some (.l 0xC5 o (.ctl m))
  | .nodeCtlOff o m => some (.l 0xC6 o (.ctl m))
  | .nodeCtlOn o m => some (.l 0xC6 o (.ctl m))
  | .nodeCtlFlush o m => some (.l 0xC6 o (.ctl m))
  | .regionNew o m => some (.l 0xC7 o (.ctl m))
  | .regionFree o m => some (.l 0xC8 o (.ctl m))
  | .qstat o m => some (.l 0xC9 o (.ctl m))
  | .pclNew o m => some (.l 0xD0 o (.sync m))
  | .pclFree o m => some (.l 0xD1 o (.sync m))
  | .seal o m => some (.l 0xD4 o (.sync m))
  | .post o m => some (.l 0xD5 o (.sync m))
  | .postNb o m => some (.l 0xD5 o (.sync m))
  | .accept o m => some (.l 0xD6 o (.sync m))
  | .acceptTry o m => some (.l 0xD6 o (.sync m))
  | .acceptBack o m => some (.l 0xD6 o (.sync m))
  | .pclStat o m => some (.l 0xD7 o (.sync m))
  | .rmaReg o m => some (.l 0xD8 o (.sync m))
  | .rmaDereg o m => some (.l 0xD9 o (.sync m))
  | .rmaWr o m => some (.l 0xDA o (.sync m))
  | .rmaWri o m => some (.l 0xDB o (.sync m))
  | .rmaRd o m => some (.l 0xDC o (.sync m))
  | .rmaRdBlk o m => some (.l 0xDC o (.sync m))
  | .rmaAtom o m => some (.l 0xDD o (.sync m))
  | .noteWait o m => some (.l 0xDE o (.sync m))
  | .noteTry o m => some (.l 0xDF o (.sync m))
  | .stPref o m => some (.l 0xD2 o (.mem m))
  | .ldPref o m => some (.l 0xD3 o (.mem m))
  | .coll o m => some (.l 0xE0 o (.sync m))
  | .collWait o m => some (.l 0xE1 o (.sync m))
  | .timeRd o m => some (.l 0xE2 o (.sync m))
  | .trigAt o m => some (.l 0xE3 o (.sync m))
  | .waitUntil o m => some (.l 0xE4 o (.sync m))
  | .hops o m => some (.l 0xE5 o (.sync m))
  | .trap o m => some (.l 0xF0 o (.ctl m))
  | .trapRet o m => some (.l 0xF1 o (.ctl m))
  | .preemptDone o m => some (.l 0xF2 o (.ctl m))
  | .dbgBrk o m => some (.l 0xF3 o (.ctl m))
  | .invRange o m => some (.l 0xF4 o (.ctl m))
  | .invAsid o m => some (.l 0xF5 o (.ctl m))
  | .ctxSave o m => some (.l 0xF6 o (.ctl m))
  | .ctxSaveNow o m => some (.l 0xF6 o (.ctl m))
  | .ctxLoad o m => some (.l 0xF7 o (.ctl m))
  | .dbgHalt o m => some (.l 0xF8 o (.ctl m))
  | .dbgHaltArm o m => some (.l 0xF8 o (.ctl m))
  | .dbgHaltDisarm o m => some (.l 0xF8 o (.ctl m))
  | .dbgHaltQry o m => some (.l 0xF8 o (.ctl m))
  | .dbgStep o m => some (.l 0xF9 o (.ctl m))
  | .dbgResume o m => some (.l 0xFA o (.ctl m))
  | .vdtLd o m => some (.l 0xFB o (.ctl m))
  | .envRd o m => some (.l 0xFC o (.ctl m))
  | .logRd o m => some (.l 0xFD o (.ctl m))
  | .mchkRd o m => some (.l 0xFE o (.ctl m))
  | .sysIdle o m => some (.l 0xFF o (.ctl m))
  | .nestCopy o => some (.n 0x01 o)
  | .nestFill o => some (.n 0x02 o)
  | .nestCvt o => some (.n 0x03 o)
  | .nestAdd o => some (.n 0x04 o)
  | .nestSub o => some (.n 0x05 o)
  | .nestMul o => some (.n 0x06 o)
  | .nestFma o => some (.n 0x07 o)
  | .nestMin o => some (.n 0x08 o)
  | .nestMax o => some (.n 0x09 o)
  | .nestAbs o => some (.n 0x0A o)
  | .nestNeg o => some (.n 0x0B o)
  | .nestScale o => some (.n 0x0C o)
  | .nestRelu o => some (.n 0x0D o)
  | .nestExp2 o => some (.n 0x0E o)
  | .nestTanh o => some (.n 0x0F o)
  | .nestRcp o => some (.n 0x10 o)
  | .nestRsq o => some (.n 0x11 o)
  | .nestSum o => some (.n 0x12 o)
  | .nestSumsq o => some (.n 0x13 o)
  | .nestRmax o => some (.n 0x14 o)
  | .nestRmin o => some (.n 0x15 o)
  | .nestDot o => some (.n 0x16 o)
  | .nestArgmax o => some (.n 0x17 o)
  | .nestScan o => some (.n 0x18 o)
  | _ => none

/-- R57: the S32 opcodes. -/
def instrS32 (o : SOps) : Nat → Option Instr
  | 0x00 => some (.nopS32 o)
  | 0x01 => some (.exitS32 o)
  | 0x02 => some (.yieldS32 o)
  | 0x03 => some (.convS32 o)
  | 0x04 => some (.retS32 o)
  | 0x05 => some (.barGrpS32 o)
  | 0x06 => some (.guardSetS32 o)
  | 0x07 => some (.guardClrS32 o)
  | 0x08 => some (.plogAndS32 o)
  | 0x09 => some (.plogOrS32 o)
  | 0x0A => some (.plogXorS32 o)
  | 0x0B => some (.plogAndnS32 o)
  | 0x0C => some (.twaitS32 o)
  | 0x0D => some (.tstateS32 o)
  | 0x0E => some (.dbgBrkS32 o)
  | 0x0F => some (.ssyncS32 o)
  | 0x10 => some (.addI32S32 o)
  | 0x11 => some (.subI32S32 o)
  | 0x12 => some (.mulI32S32 o)
  | 0x13 => some (.andN32S32 o)
  | 0x14 => some (.orN32S32 o)
  | 0x15 => some (.xorN32S32 o)
  | 0x16 => some (.shlN32S32 o)
  | 0x17 => some (.shrN32S32 o)
  | 0x18 => some (.sarI32S32 o)
  | 0x19 => some (.minI32S32 o)
  | 0x1A => some (.maxI32S32 o)
  | 0x1B => some (.minN32S32 o)
  | 0x1C => some (.maxN32S32 o)
  | 0x1D => some (.movN32S32 o)
  | 0x1E => some (.cmpI32S32 o)
  | 0x1F => some (.cmpN32S32 o)
  | 0x20 => some (.addF32S32 o)
  | 0x21 => some (.subF32S32 o)
  | 0x22 => some (.mulF32S32 o)
  | 0x23 => some (.minF32S32 o)
  | 0x24 => some (.maxF32S32 o)
  | 0x25 => some (.cmpF32S32 o)
  | 0x26 => some (.addF64S32 o)
  | 0x27 => some (.subF64S32 o)
  | 0x28 => some (.mulF64S32 o)
  | 0x29 => some (.rcpF32S32 o)
  | 0x2A => some (.rsqF32S32 o)
  | 0x2B => some (.exp2F32S32 o)
  | 0x2C => some (.log2F32S32 o)
  | _ => none

/-- R58: the N256 opcodes. -/
def instrN256 (o : NestOps) : Nat → Option Instr
  | 0x01 => some (.nestCopy o)
  | 0x02 => some (.nestFill o)
  | 0x03 => some (.nestCvt o)
  | 0x04 => some (.nestAdd o)
  | 0x05 => some (.nestSub o)
  | 0x06 => some (.nestMul o)
  | 0x07 => some (.nestFma o)
  | 0x08 => some (.nestMin o)
  | 0x09 => some (.nestMax o)
  | 0x0A => some (.nestAbs o)
  | 0x0B => some (.nestNeg o)
  | 0x0C => some (.nestScale o)
  | 0x0D => some (.nestRelu o)
  | 0x0E => some (.nestExp2 o)
  | 0x0F => some (.nestTanh o)
  | 0x10 => some (.nestRcp o)
  | 0x11 => some (.nestRsq o)
  | 0x12 => some (.nestSum o)
  | 0x13 => some (.nestSumsq o)
  | 0x14 => some (.nestRmax o)
  | 0x15 => some (.nestRmin o)
  | 0x16 => some (.nestDot o)
  | 0x17 => some (.nestArgmax o)
  | 0x18 => some (.nestScan o)
  | _ => none

/-- R55: the L64 and W96 opcodes, by row of the map, each with MOD15 in its layout; SUB tells apart the rows of the opcode
table that share an opcode. -/
def row0 (o : LOps) (m : CtlMod) : Nat → Option Instr
  | 0x00 => some (.nop o m)
  | 0x01 => some (.bra o m)
  | 0x02 => some (.jmp o m)
  | 0x03 => some (.call o m)
  | 0x04 => some (.calli o m)
  | 0x05 => some (.ret o m)
  | 0x06 => some (.exit o m)
  | 0x07 => some (.yield o m)
  | 0x08 => some (.conv o m)
  | 0x09 => some (.barGrp o m)
  | 0x0A => some (.guardSet o m)
  | 0x0B => some (.guardClr o m)
  | 0x0C => some (.plog o m)
  | 0x0D => if m.sub = 0 then some (.pmovRd o m) else if m.sub = 1 then some (.pmovWr o m) else none
  | 0x0E => some (.sread o m)
  | 0x0F => some (.swrite o m)
  | _ => none
def row1 (o : LOps) (m : CtlMod) : Nat → Option Instr
  | 0x10 => some (.brdec o m)
  | 0x11 => some (.brv o m)
  | 0x12 => some (.nap o m)
  | 0x13 => some (.ipref o m)
  | 0x14 => some (.feSet o m)
  | 0x15 => some (.feTest o m)
  | _ => none
def row2 (o : LOps) (m : IntMod) : Nat → Option Instr
  | 0x20 => some (.add o m)
  | 0x21 => some (.sub o m)
  | 0x22 => some (.addc o m)
  | 0x23 => some (.subb o m)
  | 0x24 => some (.mul o m)
  | 0x25 => some (.mulh o m)
  | 0x26 => some (.mad o m)
  | 0x27 => some (.div o m)
  | 0x28 => some (.rem o m)
  | 0x29 => some (.min o m)
  | 0x2A => some (.max o m)
  | 0x2B => some (.abs o m)
  | 0x2C => some (.neg o m)
  | 0x2D => some (.and o m)
  | 0x2E => some (.or o m)
  | 0x2F => some (.xor o m)
  | _ => none
def row3 (o : LOps) (m : IntMod) : Nat → Option Instr
  | 0x30 => some (.andn o m)
  | 0x31 => some (.shl o m)
  | 0x32 => some (.shr o m)
  | 0x33 => some (.sar o m)
  | 0x34 => some (.rot o m)
  | 0x35 => some (.bfx o m)
  | 0x36 => some (.bfi o m)
  | 0x37 => some (.popc o m)
  | 0x38 => some (.clz o m)
  | 0x39 => some (.brev o m)
  | 0x3A => some (.cmp o m)
  | 0x3B => some (.sel o m)
  | 0x3C => some (.mov o m)
  | 0x3D => some (.lea o m)
  | _ => none
def row4 (o : LOps) (m : FpMod) : Nat → Option Instr
  | 0x40 => some (.fpAdd o m)
  | 0x41 => some (.fpSub o m)
  | 0x42 => some (.fpMul o m)
  | 0x43 => some (.fma o m)
  | 0x44 => some (.fms o m)
  | 0x45 => some (.fnma o m)
  | 0x46 => some (.fnms o m)
  | 0x47 => some (.fpDiv o m)
  | 0x48 => some (.sqrt o m)
  | 0x49 => some (.fpMin o m)
  | 0x4A => some (.fpMax o m)
  | 0x4B => some (.fpAbs o m)
  | 0x4C => some (.fpNeg o m)
  | 0x4D => some (.cpysgn o m)
  | 0x4E => some (.fpCmp o m)
  | 0x4F => some (.fclass o m)
  | _ => none
def row5 (o : LOps) (m : FpMod) : Nat → Option Instr
  | 0x50 => some (.rint o m)
  | 0x51 => some (.scale o m)
  | 0x52 => some (.getexp o m)
  | 0x53 => some (.cvt o m)
  | 0x54 => some (.cvti o m)
  | 0x55 => some (.cvtf o m)
  | 0x56 => some (.padd o m)
  | 0x57 => some (.pmul o m)
  | 0x58 => some (.pfma o m)
  | 0x59 => some (.pdot o m)
  | 0x5A => some (.pcvt o m)
  | 0x5B => some (.pmax o m)
  | _ => none
def row6 (o : LOps) (m : FpMod) : Nat → Option Instr
  | 0x60 => some (.shfl o m)
  | 0x61 => some (.bcast o m)
  | 0x62 => some (.vote o m)
  | 0x63 => some (.laneRed o m)
  | 0x64 => some (.laneScan o m)
  | 0x65 => some (.laneChain o m)
  | 0x66 => some (.matchAny o m)
  | 0x67 => some (.rcp o m)
  | 0x68 => some (.rsq o m)
  | 0x69 => some (.exp2 o m)
  | 0x6A => some (.log2 o m)
  | 0x6B => some (.sin o m)
  | 0x6C => some (.cos o m)
  | 0x6D => some (.tanh o m)
  | 0x6E => some (.ssync o m)
  | _ => none
def row7 (o : LOps) (m : MemMod) : Nat → Option Instr
  | 0x70 => some (.ld o m)
  | 0x71 => some (.ldSignExtend o m)
  | 0x72 => some (.st o m)
  | 0x73 => some (.ldu o m)
  | 0x74 => some (.stz o m)
  | 0x75 => some (.stm o m)
  | 0x76 => some (.pref o m)
  | 0x77 => some (.prefCnt o m)
  | 0x78 => some (.cctl o m)
  | 0x79 => some (.cdisc o m)
  | 0x7A => some (.salloc o m)
  | 0x7B => some (.sfree o m)
  | 0x7C => some (.probe o m)
  | _ => none
def row8 (o : LOps) (m : SyncMod) : Nat → Option Instr
  | 0x80 => some (.atom o m)
  | 0x81 => some (.atomFloat o m)
  | 0x82 => some (.atomCas o m)
  | 0x83 => some (.red o m)
  | 0x84 => some (.redFloat o m)
  | 0x85 => some (.fence o m)
  | 0x86 => some (.waitVal o m)
  | 0x87 => some (.ldLink o m)
  | 0x88 => some (.stCond o m)
  | 0x89 => some (.barInit o m)
  | 0x8A => some (.barArrive o m)
  | 0x8B => some (.barWait o m)
  | 0x8C => some (.barSync o m)
  | 0x8D => some (.barTest o m)
  | 0x8E => some (.barDrop o m)
  | _ => none
def row9 (o : LOps) (m : CtlMod) : Nat → Option Instr
  | 0x90 => if m.sub = 0 then some (.chkInjectEarly o m) else if m.sub = 1 then some (.chkInjectHash o m) else if m.sub = 2 then some (.chkInjectSkip o m) else if m.sub = 3 then some (.chkInjectDup o m) else none
  | 0x91 => some (.chkRead o m)
  | 0x92 => some (.chkSync o m)
  | 0x93 => some (.chkClear o m)
  | 0x94 => some (.chkSample o m)
  | _ => none
def rowA (o : LOps) (m : EngMod) : Nat → Option Instr
  | 0xA0 => some (.mma o m)
  | 0xA1 => some (.mmaJ o m)
  | 0xA2 => some (.mmaF64 o m)
  | 0xA3 => some (.slateLd o m)
  | 0xA4 => some (.slateSp o m)
  | 0xA5 => some (.slateRel o m)
  | 0xA6 => some (.epi o m)
  | 0xA7 => some (.accRd o m)
  | 0xA8 => some (.accWr o m)
  | 0xA9 => if m.sub = 0 then some (.accZero o m) else if m.sub = 1 then some (.accZeroFree o m) else none
  | 0xAA => if m.sub = 0 then some (.mstat o m) else if m.sub = 1 then some (.mstatNow o m) else none
  | 0xAB => some (.mreset o m)
  | _ => none
def rowB (o : LOps) (m : EngMod) : Nat → Option Instr
  | 0xB0 => some (.tcopy o m)
  | 0xB1 => some (.tstore o m)
  | 0xB2 => some (.twait o m)
  | 0xB3 => some (.tstate o m)
  | 0xB4 => some (.tdef o m)
  | 0xB5 => some (.tfree o m)
  | 0xB6 => some (.tfill o m)
  | 0xB7 => some (.tmov o m)
  | 0xB8 => some (.tcancel o m)
  | _ => none
def rowC (o : LOps) (m : CtlMod) : Nat → Option Instr
  | 0xC0 => some (.emit o m)
  | 0xC1 => some (.emitTry o m)
  | 0xC2 => some (.launchJob o m)
  | 0xC3 => some (.cancel o m)
  | 0xC4 => some (.quiesce o m)
  | 0xC5 => some (.resume o m)
  | 0xC6 => if m.sub = 0 then some (.nodeCtlOff o m) else if m.sub = 1 then some (.nodeCtlOn o m) else if m.sub = 2 then some (.nodeCtlFlush o m) else none
  | 0xC7 => some (.regionNew o m)
  | 0xC8 => some (.regionFree o m)
  | 0xC9 => some (.qstat o m)
  | _ => none
def rowD (o : LOps) (m : SyncMod) : Nat → Option Instr
  | 0xD0 => some (.pclNew o m)
  | 0xD1 => some (.pclFree o m)
  | 0xD4 => some (.seal o m)
  | 0xD5 => if m.sub = 0 then some (.post o m) else if m.sub = 1 then some (.postNb o m) else none
  | 0xD6 => if m.sub = 0 then some (.accept o m) else if m.sub = 1 then some (.acceptTry o m) else if m.sub = 2 then some (.acceptBack o m) else none
  | 0xD7 => some (.pclStat o m)
  | 0xD8 => some (.rmaReg o m)
  | 0xD9 => some (.rmaDereg o m)
  | 0xDA => some (.rmaWr o m)
  | 0xDB => some (.rmaWri o m)
  | 0xDC => if m.sub = 0 then some (.rmaRd o m) else if m.sub = 1 then some (.rmaRdBlk o m) else none
  | 0xDD => some (.rmaAtom o m)
  | 0xDE => some (.noteWait o m)
  | 0xDF => some (.noteTry o m)
  | _ => none
def rowDMem (o : LOps) (m : MemMod) : Nat → Option Instr
  | 0xD2 => some (.stPref o m)
  | 0xD3 => some (.ldPref o m)
  | _ => none
def rowE (o : LOps) (m : SyncMod) : Nat → Option Instr
  | 0xE0 => some (.coll o m)
  | 0xE1 => some (.collWait o m)
  | 0xE2 => some (.timeRd o m)
  | 0xE3 => some (.trigAt o m)
  | 0xE4 => some (.waitUntil o m)
  | 0xE5 => some (.hops o m)
  | _ => none
def rowF (o : LOps) (m : CtlMod) : Nat → Option Instr
  | 0xF0 => some (.trap o m)
  | 0xF1 => some (.trapRet o m)
  | 0xF2 => some (.preemptDone o m)
  | 0xF3 => some (.dbgBrk o m)
  | 0xF4 => some (.invRange o m)
  | 0xF5 => some (.invAsid o m)
  | 0xF6 => if m.sub = 0 then some (.ctxSave o m) else if m.sub = 1 then some (.ctxSaveNow o m) else none
  | 0xF7 => some (.ctxLoad o m)
  | 0xF8 => if m.sub = 0 then some (.dbgHalt o m) else if m.sub = 1 then some (.dbgHaltArm o m) else if m.sub = 2 then some (.dbgHaltDisarm o m) else if m.sub = 3 then some (.dbgHaltQry o m) else none
  | 0xF9 => some (.dbgStep o m)
  | 0xFA => some (.dbgResume o m)
  | 0xFB => some (.vdtLd o m)
  | 0xFC => some (.envRd o m)
  | 0xFD => some (.logRd o m)
  | 0xFE => some (.mchkRd o m)
  | 0xFF => some (.sysIdle o m)
  | _ => none

/-- R55: the whole map. -/
def instrLong (o : LOps) (op : Nat) : Mod → Option Instr
  | .ctl m => match op / 16 with
    | 0x0 => row0 o m op
    | 0x1 => row1 o m op
    | 0x9 => row9 o m op
    | 0xC => rowC o m op
    | 0xF => rowF o m op
    | _ => none
  | .int m => match op / 16 with
    | 0x2 => row2 o m op
    | 0x3 => row3 o m op
    | _ => none
  | .fp m => match op / 16 with
    | 0x4 => row4 o m op
    | 0x5 => row5 o m op
    | 0x6 => row6 o m op
    | _ => none
  | .mem m => match op / 16 with
    | 0x7 => row7 o m op
    | 0xD => rowDMem o m op
    | _ => none
  | .sync m => match op / 16 with
    | 0x8 => row8 o m op
    | 0xD => rowD o m op
    | 0xE => rowE o m op
    | _ => none
  | .eng m => match op / 16 with
    | 0xA => rowA o m op
    | 0xB => rowB o m op
    | _ => none

/-- The instruction a form names. -/
def Form.instr : Form → Option Instr
  | .s op o => instrS32 o op
  | .l op o m => instrLong o op m
  | .n op o => instrN256 o op

/-! ### Words -/

/-- R36: the length in syllables by bits [1:0] of the first syllable. -/
def lenSyllables (n : Nat) : Nat :=
  match n % 4 with
  | 0 => 1
  | 1 => 2
  | 2 => 3
  | _ => 8

def SOps.fields (op : Nat) (o : SOps) : List Nat :=
  [0, op, o.d.toNat, o.a.toNat, o.b.toNat, o.g.p.toNat, o.g.pn.toNat, o.fa.toNat, o.fb.toNat]
def LOps.fields (len op m : Nat) (o : LOps) : List Nat :=
  [len, op, o.d.toNat, o.a.toNat, o.b.toNat, o.c.toNat, o.g.p.toNat, o.g.pn.toNat, o.fa.toNat, o.fb.toNat, o.fc.toNat, m]
def NestOps.fields (op : Nat) (o : NestOps) : List Nat :=
  [3, op, o.ty.code.toNat, o.rnd.code, o.db.toNat, o.ab.toNat, o.bb.toNat, gsCode o.gs, o.g.p.toNat, o.g.pn.toNat, o.nlev.toNat,
   o.ext.toNat, o.str.toNat, o.ssh.toNat, 0]

/-- The bits of a form as one number, the first syllable lowest. -/
def Form.bits : Form → Nat
  | .s op o => pack layoutS32 (o.fields op)
  | .l op o m =>
    match o.lit with
    | none => pack layoutL64 (o.fields 1 op m.code)
    | some v => pack layoutW96 (o.fields 2 op m.code ++ [v.toNat])
  | .n op o => pack layoutN256 (o.fields op)

/-- The operand fields of L64 and W96 from their values. -/
def LOps.ofFields (d a b c p pn fa fb fc : Nat) (lit : Option Word) : LOps :=
  { g := ⟨BitVec.ofNat 3 p, decide (pn = 1)⟩, fa := decide (fa = 1), fb := decide (fb = 1), fc := decide (fc = 1),
    d := BitVec.ofNat 8 d, a := BitVec.ofNat 8 a, b := BitVec.ofNat 8 b, c := BitVec.ofNat 8 c, lit := lit }

/-- The form a list of field values names. -/
def formS32 : List Nat → Except Reject Form
  | [_, op, d, a, b, p, pn, fa, fb] =>
    .ok (.s op { g := ⟨BitVec.ofNat 3 p, decide (pn = 1)⟩, fa := decide (fa = 1), fb := decide (fb = 1), d := BitVec.ofNat 6 d,
                 a := BitVec.ofNat 6 a, b := BitVec.ofNat 6 b })
  | _ => .error .truncated
def formLong (lit : Option Word) : List Nat → Except Reject Form
  | [_, op, d, a, b, c, p, pn, fa, fb, fc, m15] =>
    match Mod.ofCode op m15 with
    | some m => .ok (.l op (LOps.ofFields d a b c p pn fa fb fc lit) m)
    | none => .error .reserved
  | _ => .error .truncated
def formN256 : List Nat → Except Reject Form
  | [_, op, ty, rnd, db, ab, bb, gs, p, pn, nlev, ext, str, ssh, r] =>
    match gsOfCode gs with
    | some g =>
      if r = 0 then
        .ok (.n op { g := ⟨BitVec.ofNat 3 p, decide (pn = 1)⟩, ty := Fmt.ofCode (BitVec.ofNat 5 ty), rnd := Rnd.ofCode rnd,
                     db := BitVec.ofNat 7 db, ab := BitVec.ofNat 7 ab, bb := BitVec.ofNat 7 bb, gs := g, nlev := BitVec.ofNat 3 nlev,
                     ext := BitVec.ofNat 50 ext, str := BitVec.ofNat 150 str, ssh := BitVec.ofNat 6 ssh })
      else .error .reserved
    | none => .error .reserved
  | _ => .error .truncated

/-- The form of the instruction whose first syllable is lowest in `n`; bits beyond its length are not looked at. -/
def formOf (n : Nat) : Except Reject Form :=
  match n % 4 with
  | 0 => formS32 (unpack layoutS32 n)
  | 1 => formLong none (unpack layoutL64 n)
  | 2 => formLong (some (BitVec.ofNat 32 (n / 2 ^ 64))) (unpack layoutL64 n)
  | _ => formN256 (unpack layoutN256 n)

/-- R60, for the static checks. -/
def decode (n : Nat) : Except Reject Instr :=
  match formOf n with
  | .error e => .error e
  | .ok f =>
    match f.instr with
    | none => .error .unassigned
    | some i => if i.wf then .ok i else .error .illegal

/-- The bits of an instruction; an event has none. -/
def encode (i : Instr) : Option Nat := i.form.map Form.bits

/-- A little-endian list of bytes as a number (R1). -/
def leNat : List Byte → Nat
  | [] => 0
  | b :: bs => b.toNat + 256 * leNat bs

/-- The `k` low bytes of a number, lowest first (R1). -/
def leBytes : Nat → Nat → List Byte
  | 0, _ => []
  | k + 1, n => BitVec.ofNat 8 n :: leBytes k (n / 256)

/-- Decoding at the head of any bytes, with the rest. -/
def decodeBytes (bs : List Byte) : Except Reject (Instr × List Byte) :=
  match bs with
  | [] => .error .truncated
  | b :: _ =>
    let k := 4 * lenSyllables b.toNat
    if bs.length < k then .error .truncated
    else match decode (leNat (bs.take k)) with
      | .error e => .error e
      | .ok i => .ok (i, bs.drop k)

/-- The bytes of an instruction. -/
def encodeBytes (i : Instr) : List Byte := leBytes (4 * i.syllables) ((encode i).getD 0)

/-- The instruction read from bits `w`, numbered from the least significant bit of the first syllable; bits above `nbits` are zero. -/
def decodeTableWord (nbits w : Nat) : Option Instr := (decode (w % 2 ^ nbits)).toOption

end

end Sys2Proof
end

