-- ==== Sys2Proof/Config.lean ====
section
/-! DEFINITION. Free values: what the manual leaves open. Each is a constant without a body, so no proof can see its value. DESIGN CHOICE
(assumption 1). -/
namespace Sys2Proof.Config

/-- How far the Pavane count moves between two readings of it (R358: it never decreases; timing is not modelled). -/
opaque clockAdvance : Nat → Nat
/-- The approximation the SFU forms before its Round step (R158, R159), as mantissa and exponent of a dyadic number:
function code, format code, operand bits. It depends on the operand alone: the same input gives the same bits everywhere. The model takes it only
within the bound of R159. DESIGN CHOICE (assumption 17). -/
opaque sfuApprox : Nat → Nat → Nat → Int × Int
/-- Epilogue activations 2 and 3 (R271) of an F32 operand, before rounding; the model takes it only within the bound of R271. DESIGN CHOICE (assumption 17). -/
opaque actApprox : Nat → Nat → Int × Int
/-- The flags of those activations at −∞, where their formulas have no value. DESIGN CHOICE (assumption 17). -/
opaque actFlags : Nat → BitVec 6
/-- Which start a logged record names, modulo 16: the excepting instruction (0) or one of the next 15 starts (R128). DESIGN CHOICE (assumption 18). -/
opaque logPcSlip : Nat → Nat
/-- The signature an attestation report carries (R407): die, nonce and signed bytes as one number. -/
opaque attestSign : Nat → Nat → Nat
/-- Digest SHA-384 of the running image of a die (R407), by die, firmware version, and which of the images activated so far it is. -/
opaque firmwareHash : Nat → Nat → Nat → Nat
/-- Digest SHA-384 of the configuration of the module (R407). -/
opaque configHash : Nat → Nat
/-- Identity public key of a die (R407). -/
opaque identityKey : Nat → Nat
/-- The certificate of a die (R407). -/
opaque certificate : Nat → List (BitVec 8)
/-- A value or a choice that the manual leaves open, numbered by a counter: the contents of a new accumulator, a read of a discarded value, which packets
a dead link held. -/
opaque freeWord : Nat → Nat

/-- The chips that can be reached once the routes have been rebuilt (R395): the manual gives no topology between modules. -/
opaque routesAfter : Nat → List Nat

/-- The chip id and the route table that firmware loads at boot (R330); the id is taken into the range that R330 gives. -/
opaque chipId : Nat
opaque bootRoutes : List Nat

/-- The class of a physical core, which is fixed at manufacture (R15): 0 to 3 for A to D; any other value is a disabled core. -/
opaque coreClass : Nat → BitVec 3

/-- Which of its die's 32 L2 slices holds a line: the manual names the slices (R12, R240) and not the hash. -/
opaque l2Slice : Nat → BitVec 5

end Sys2Proof.Config
end

