-- ==== Sys2Proof/Machine/State.lean ====
section
/-! DEFINITION. The state of one module as plain data, the outcomes a step can have beside a next state, and the state after reset. -/
namespace Sys2Proof.Machine

/-- Why a step stops. -/
inductive Fault where
  /-- Raised by `step` on a module without power (POWER_REMOVAL, 21): nothing executes. Safe: no state follows. -/
  | poweredOff
  deriving DecidableEq, Repr

/-- Why an instruction has no meaning. -/
inductive Refusal where
  /-- Raised by an arm of `exec` that has no meaning yet. Safe: no state follows. -/
  | notModelled (mnemonic : String)
  deriving DecidableEq, Repr

/-! ### Traps and waits -/

/-- A trap about to be taken (R362): cause, resume address, faulting address, details, whether an engine command raised it, and the
record that follows the frame (R240, R366), empty where there is none. -/
structure Trap where
  cause : Nat
  pc : Dword
  faddr : Dword := 0
  d0 : Dword := 0
  d1 : Dword := 0
  eng : Bool := false
  record : List Byte := []
  deriving DecidableEq, Repr, Inhabited

/-- What a thread waits for (R66). -/
inductive WaitKind where
  | source     -- a blocking source is empty (R70)
  | conv       -- at `CONV` (R86), WKIND 1
  | barGrp     -- at `BAR.GRP` (R87), WKIND 2
  | coll       -- at a cross-lane collective or `BRV` (R146, R88), WKIND 3
  | matrix     -- at a matrix instruction (R258), WKIND 4
  | chain      -- at a `LANE.CHAIN` buffer (R156), WKIND 5
  | barObj     -- at a barrier object (R227), WKIND 6
  | tile       -- on a tile state (R292), WKIND 7
  | claim      -- on a slate claim or an accumulator binding (R251, R256), WKIND 8
  | nap        -- napping (R85)
  | yielded    -- yielded (R85)
  | guardSlot  -- `GUARD.CLR` (R90)
  | queue      -- for room in an engine queue
  | order      -- for its own earlier accesses, releases or queues (R93, R247, R379)
  | value      -- at `WAIT.VAL` (R223)
  | pool       -- in the retries of a blocking `EMIT` (R322)
  | post       -- at `POST` (R342)
  | accept     -- at `ACCEPT` (R343)
  | note       -- at `NOTE.WAIT` (R353)
  | idle       -- at `SYS.IDLE` (R387)
  | time       -- at `WAIT.UNTIL` (R359)
  | system     -- at another instruction that waits for its completion
  | preempted  -- done with `PREEMPT.DONE` (R379)
  | step       -- at `DBG.STEP` (R382)
  deriving DecidableEq, Repr, Inhabited

/-- A wait: its kind, the tick when it began, the ticks of it that were frozen, the member mask it names, what the thread
presented or obtained on arrival, the barrier object it names and whether that lies in scratch, its bound in ticks, and the tiles that were freed while it lasted (R282). -/
structure Wait where
  kind : WaitKind
  since : Nat := 0
  frozen : Nat := 0
  mask : Dword := 0
  data : List Dword := []
  obj : Dword := 0
  scr : Bool := false
  limit : Option Nat := none
  freed : List Nat := []
  deriving DecidableEq, Repr, Inhabited

/-- Whether a thread can issue (R66, R77). -/
inductive Run where
  | ready
  | waiting (w : Wait)
  | parked (req : Nat)
  | exited
  deriving DecidableEq, Repr, Inhabited

/-- A long-latency producer of a thread (R69): its destination registers, those a later write has superseded (R71), and the words
it will write, lowest register first, once they are known. `queue` marks the SFU and conversion queues (R93, R158), whose
flags are raised on arrival (R126), and `sfu` the SFU queue, with the bundle that the instruction issued in: its PC and cycle (R158). -/
structure Prod where
  tag : Nat
  d : Reg
  n : Nat
  dead : List Reg := []
  val : Option (List Word) := none
  queue : Bool := false
  sfu : Option (Dword × Nat) := none
  flags : BitVec 6 := 0
  deriving DecidableEq, Repr, Inhabited

/-- An `LD.LINK` reservation (R221): space, line and access size, whether the link has performed, how many instructions the thread has
executed since it issued, and whether one of them was another memory access. -/
structure Resv where
  glb : Bool
  line : Nat
  size : Nat
  live : Bool
  age : Nat := 0
  other : Bool := false
  deriving DecidableEq, Repr, Inhabited

/-- Handler state (R365): the cause it was entered by, the tick of entry and the frozen ticks since, and the containment record, if any. -/
structure Handler where
  cause : Nat
  since : Nat
  frozen : Nat := 0
  record : List Byte := []
  deriving DecidableEq, Repr, Inhabited

/-- A line that a thread, or an engine for it, has written (R239): the interval of the write, the narrowest scope at which no release of the thread
has completed since, and the number of the first such write, which says what came before it (R241). -/
structure Wrote where
  line : Nat
  interval : Nat
  scope : Nat
  id : Nat
  deriving DecidableEq, Repr, Inhabited

/-- An armed `TRIG.AT` (R360): the word, the tick, and whether the command that took it could not start at the tick. -/
structure Trigger where
  pa : Nat
  tick : Nat
  late : Bool := false
  /-- The address of the word, and whether it is translated again when the word is written (R372). -/
  va : Dword := 0
  again : Bool := false
  deriving DecidableEq, Repr, Inhabited

/-- A log record of a thread that has not entered the ring (R128): the excepting instruction, the engine command that may raise its flags, the enabled flags once they are known,
which start the record names (0 the excepting instruction, n the n-th after it), and the starts that the thread has come to since, at most 15. -/
structure LogWait where
  pc : Dword
  cmd : Option Nat
  flags : Option (BitVec 6)
  n : Nat
  starts : List Dword
  deriving DecidableEq, Repr, Inhabited

/-! ### Threads, groups and gangs -/

/-- The state of one thread (R62 to R65). Registers and their full bits are numbered by register; a full bit is true when the
register is full (R69). `starting` holds until the role's entry has been checked (R38). `resume` is where `PREEMPT.DONE` sends the thread
(R379), `light` holds from a light save to the resume (R368), and `warned` once a pre-emption's trap has reached it (R367). `asks` is the destination and length of an instruction whose failed page
request does not trap (R349, R357). `syncs` holds the tokens of `BAR.SYNC`s that have arrived, by instruction address (R227). `since` is the cycle at which
the thread last became ready (R66, R67). `logs` are its log records that have not been written yet, in program order (R128), and `struck` the register pairs that hold an uncorrectable error (R398). -/
structure Thread where
  uid : Nat
  gang : Nat
  role : Nat
  gid : Nat
  member : Nat
  tid : Nat
  core : Nat
  part : Nat
  lane : Nat
  budget : Nat
  pc : Dword
  regs : Vector Word 256
  fe : Vector Bool 256
  preds : BitVec 8
  ord : BitVec 16
  stk : Word
  fcr : Word
  fsr : Word
  trapf : Dword
  asid : Word
  ptel : Dword
  priv : List Host.Cell
  privSize : Nat
  privBase : Nat
  prods : List Prod
  run : Run
  halted : Bool
  handler : Option Handler
  entering : Option Trap
  held : List Trap
  cancelTaken : Bool
  psn : Word
  resv : Option Resv
  trig : Option Trigger
  resume : Option Dword
  light : Bool
  warned : Bool
  wrote : List Wrote
  stepping : Bool
  starting : Bool
  asks : Option (Reg × Nat)
  syncs : List (Dword × Word)
  since : Nat
  logs : List LogWait
  struck : List Nat
  deriving DecidableEq, Repr

/-- A group (R63 to R65): its width, place, started membership, whether it holds padding, and its guard slots (R79; `none` is
unresolved), the `LANE.CHAIN` edge buffers (R156), and the joint counter and turn of `MMA.J` (R266). -/
structure Group where
  gang : Nat
  role : Nat
  gid : Nat
  width : Nat
  core : Nat
  part : Nat
  k : Nat
  started : BitVec 64
  pad : Bool
  guards : Vector (Option Bool) 16
  edgeUp : Option Dword
  edgeDown : Option Dword
  joint : Nat
  qturn : Nat
  deriving DecidableEq, Repr

/-- The key of a group: gang, role, `sr.gid` (R63). -/
structure GKey where
  gang : Nat
  role : Nat
  gid : Nat
  deriving DecidableEq, Repr, Inhabited

/-! ### Tiles and engine commands -/

/-- Tile states (R279). -/
inductive TState where
  | empty | filling | ready | draining
  deriving DecidableEq, Repr, Inhabited

/-- An owned entry of a core's tile table (R279). A format PF k carries its descriptor. `copied` names the thread and scope of the `TCOPY` that filled it last (R214). -/
structure Tile where
  core : Nat
  id : Nat
  gang : Nat
  base : Nat
  rows : Nat
  cols : Nat
  fmt : Fmt
  desc : BitVec 16
  st : TState
  chk : Option (List Word)
  copied : Option (Nat × Scope) := none
  deriving DecidableEq, Repr, Inhabited

/-- A fault held pending for an engine command (R170, R287): cause, faulting address, detail code and element index. -/
structure Pend where
  cause : Nat
  faddr : Dword
  code : Nat
  elem : Nat
  deriving DecidableEq, Repr, Inhabited

/-- How far a command is: queued or executing, parked on a page request, stopped by a fault that is pending, or stopped
by one that was delivered. DEDUCED (assumption 28). -/
inductive CmdSt where
  | queued
  | parked (req : Nat)
  | faulted (p : Pend)
  | dead
  deriving DecidableEq, Repr, Inhabited

/-- The commands of the copy engine (R286). -/
inductive CopyOp where
  | load
  | store (keep : Bool)
  | fill (v : Nat)
  | move (src : Nat) (transpose : Bool)
  deriving DecidableEq, Repr, Inhabited

/-- A tensor record as the engine read it (R283). -/
structure TRec where
  base : Nat
  ndim : Nat
  ext : List Nat
  stride : List Int
  oob : Nat
  rsel : Nat
  fmt : Fmt
  desc : BitVec 16
  deriving DecidableEq, Repr, Inhabited

/-- A command of a copy engine (R286, R290, R295): its place in arrival order is its place in the list. `started` holds once it has left
the head of the queue; `done` counts the elements written. -/
structure CopyCmd where
  id : Nat
  core : Nat
  uid : Nat
  pc : Dword
  gs : Option (BitVec 4)
  op : CopyOp
  tile : Nat
  addr : Dword
  origin : List Int
  scope : Scope
  prior : TState
  started : Bool
  tens : Option TRec
  done : Nat
  st : CmdSt
  trig : Option Trigger
  deriving DecidableEq, Repr, Inhabited

/-- An N256 instruction in a stream queue (R168): its OP6, fields, operand words, the check vector that its destination tile had (R169), and what it has accumulated so far. -/
structure StreamCmd where
  id : Nat
  core : Nat
  uid : Nat
  pc : Dword
  op : Nat
  o : NestOps
  dw : Dword
  aw : Dword
  bw : Dword
  fcr : Word
  tag : Option Nat
  tile : Option Nat
  prior : TState
  srcs : List Nat
  done : Nat
  acc : List (Option Nat)
  flags : BitVec 6
  st : CmdSt
  chk : Option (List Word) := none
  deriving DecidableEq, Repr, Inhabited

/-! ### Matrix units -/

/-- A column or row group in aligned-block form (R253): its NaN mark, shared exponent, mantissas, and the signs of infinite positions. -/
structure BlockGroup where
  nan : Bool
  e : Int
  m : List Int
  inf : List (Option Bool)
  deriving DecidableEq, Repr, Inhabited

/-- The descriptor of a slate load (R259, R264, R277); `sp` is the stored count of a sparse load, 0 for a dense one. -/
structure SlateDesc where
  tile : Nat
  idx : Option Nat
  scale : Option Nat
  fmt : Fmt
  desc : BitVec 16
  k : Nat
  n : Nat
  sp : Nat
  deriving DecidableEq, Repr, Inhabited

/-- A slate (R251): claim, pinned tiles, the descriptor of the last load issued and of the last load executed, whether it is void, and its
content with the checksum column. -/
structure Slate where
  core : Nat
  n : Nat
  claim : Option Nat
  pins : List Nat
  want : Option SlateDesc
  got : Option SlateDesc
  void : Bool
  data : List (List BlockGroup)
  sum : List Word
  deriving DecidableEq, Repr, Inhabited

/-- An entry of the accumulator pool (R256) that is bound, held by a shadow, or returned and not taken anew, with the group and handle that it was last bound to. DESIGN CHOICE (assumption 39). -/
structure Entry where
  core : Nat
  id : Nat
  of : GKey
  handle : Nat
  val : List Word
  chk : List Word
  mag : List Word
  g : Nat
  deriving DecidableEq, Repr, Inhabited

/-- A binding of a group's handle to a pool entry (R256); `leaving` once an `ACC.ZERO.FREE` of it has issued. -/
structure Binding where
  id : Nat
  core : Nat
  g : GKey
  h : Nat
  acc : Nat
  leaving : Bool
  deriving DecidableEq, Repr, Inhabited

/-- A shadow of a handle under a guard slot (R261), with the flags it has gathered. -/
structure Shadow where
  core : Nat
  g : GKey
  h : Nat
  slot : BitVec 4
  acc : Nat
  flags : BitVec 6
  pc : Dword
  deriving DecidableEq, Repr, Inhabited

/-- What a matrix command does (R263). -/
inductive MatOp where
  | mma (acc : Bool)
  | joint (acc : Bool)
  | f64 (acc : Bool)
  | load
  | sparse
  | rel
  | epi
  | accWr
  | accZero
  | accFree
  deriving DecidableEq, Repr, Inhabited

/-- A command of a matrix queue (R259, R260). `t1` and `t2` are its tiles, `off` the descriptor offset of `EPI`, `desc` the slate descriptor it
was checked against or brings, `turn` the number of a joint command, and `fcr` that of its lowest started member when it issued, for `.DYN` (R122). -/
structure MatCmd where
  id : Nat
  core : Nat
  g : GKey
  uid : Nat
  pc : Dword
  gs : Option (BitVec 4)
  op : MatOp
  h : Nat
  slate : Nat
  out : Option Nat
  t1 : Nat
  t2 : Nat
  scale : Option Nat
  fmt : Fmt
  off : Nat
  desc : Option SlateDesc
  prior : TState
  turn : Nat
  trig : Option Trigger
  done : Nat
  fcr : Word := 0
  deriving DecidableEq, Repr, Inhabited

/-- What a producer waits for that no access brings (R274, R357). -/
inductive LateKind where
  | accRd (h sub idx : Nat)
  | collWait (pa : Nat)
  deriving DecidableEq, Repr, Inhabited

/-- A long-latency producer whose value depends on commands issued before it: `after` bounds their numbers, and `pc` is its instruction (R362). DEDUCED (assumption 40). -/
structure Late where
  uid : Nat
  pc : Dword
  tag : Nat
  core : Nat
  g : GKey
  after : Nat
  kind : LateKind
  deriving DecidableEq, Repr, Inhabited

/-- A role of a launch block (R304). -/
structure Role where
  entry : Dword
  width : Nat
  regs : Nat
  groups : Nat
  deriving DecidableEq, Repr, Inhabited

/-- A tile declaration of a launch block (R304). -/
structure TileDecl where
  id : Nat
  base : Nat
  cols : Nat
  rows : Nat
  ty : Fmt
  deriving DecidableEq, Repr, Inhabited

/-- A launch block as read (R304); role k is `roles[k]`, `none` where absent. -/
structure LaunchBlock where
  addr : Dword
  roles : List (Option Role)
  handler : Dword
  scratch : Nat
  priv : Nat
  classes : BitVec 4
  joint : BitVec 3
  l1min : Nat
  lpc : Nat
  tiles : List TileDecl
  fbank : FBank
  deriving DecidableEq, Repr

/-- Where the records of a gang come from (R310, R316): a batch of a node, or a chunk of a job card. -/
inductive Origin where
  | batch (region node batch : Nat)
  | card (card : Nat)
  | none
  deriving DecidableEq, Repr, Inhabited

/-- Whether a gang is resident, and how far a pre-emption of it has come (R367 to R371): since when, and whether its threads stand still for the
full save. -/
inductive Residence where
  | running
  | preempting (since : Nat) (full : Bool)
  | saved
  deriving DecidableEq, Repr, Inhabited

/-- A gang (R64, R304 to R311). `kept` are the slates it held when it was saved and has not claimed again, and `wait` is the tick since when it waits for
them (R277). -/
structure Gang where
  id : Nat
  region : Nat
  die : Nat
  vdie : Nat
  lb : LaunchBlock
  recAddr : Dword
  nrec : Nat
  depth : Nat
  origin : Origin
  res : Residence
  forced : Bool
  wait : Option Nat
  kept : List Slate
  deriving DecidableEq, Repr

/-- The scratchpad of a gang on one core (R173, R199). DESIGN CHOICE (assumption 4). -/
structure Pad where
  gang : Nat
  core : Nat
  size : Nat
  dynBase : Nat
  dynPtr : Nat
  bytes : List Host.Cell
  deriving DecidableEq, Repr

/-! ### Memory -/

/-- A line of an L1 (R184): line number, bytes, the valid, dirty and partition masks, and whether a release wrote dirty bytes of it (R198). -/
structure L1Line where
  line : Nat
  data : BitVec 512
  valid : BitVec 64
  dirty : BitVec 64
  parts : BitVec 4
  rel : Bool
  deriving DecidableEq, Repr, Inhabited

/-- A translation (R177 to R179): ASID, page base, log2 of its size, frame, and the rights and dirty bit of its leaf. -/
structure Tlb where
  asid : Word
  va : Nat
  log : Nat
  pa : Nat
  w : Bool
  u : Bool
  x : Bool
  db : Bool
  deriving DecidableEq, Repr, Inhabited

/-- Who holds a line in its current interval (R236, R249): the home's controller, the L2 of one die (in state M if `m`, else E), the L2s of `dies` (one in state O if `o`)
with the port through which the host reads, the atomic unit, or the port through which the host or a peer chip writes. -/
inductive Owner where
  | home
  | writer (die : Nat) (m : Bool)
  | readers (dies : List Nat) (port : Option Nat) (o : Bool)
  | atomic
  | port (id : Nat)
  deriving DecidableEq, Repr, Inhabited

/-- What Purlin knows of one line of memory (R236): its interval and owner. Lines not listed are at interval 0 with their home. -/
structure LineState where
  line : Nat
  interval : Nat
  owner : Owner
  deriving DecidableEq, Repr, Inhabited

/-- An armed one-shot fault (R245): form, scope, events to skip, region. -/
structure Inject where
  form : Nat
  scope : Nat
  skip : Nat
  region : Word
  deriving DecidableEq, Repr, Inhabited

/-- The bundle that an access issued in (R67): its partition among all, its PC and its cycle. -/
structure BundleKey where
  part : Nat
  pc : Dword
  cycle : Nat
  deriving DecidableEq, Repr, Inhabited

/-- A line of a home's L2 under a read count (R196): the reads left, and the bundle that made the last counted read. -/
structure Counted where
  line : Nat
  left : Nat
  last : Option BundleKey
  deriving DecidableEq, Repr, Inhabited

/-- A Purlin record on its way (R237): the line, the interval that begins, mode, writer, the hash sent and the hash received, the thread whose access caused
the handover, whether the host's did, the granting and the receiving unit, whether the grant was recorded for a second L2 (R245), and the granting copy that is
kept until the acknowledgement (R238): its owner and bytes. -/
structure Handover where
  line : Nat
  interval : Nat
  expect : Nat
  mode : Nat
  who : Word
  hout : Word
  hin : Word
  uid : Option Nat
  host : Bool
  pc : Dword
  src : Nat
  dst : Nat
  dup : Bool
  from_ : Owner
  bytes : List Byte
  deriving DecidableEq, Repr, Inhabited

/-- Where an access performs (R171): the private space is that of one thread. -/
inductive OpSpace where
  | glb
  | scr (gang core : Nat)
  | prv (uid : Nat)
  deriving DecidableEq, Repr, Inhabited

/-- What an atomic-point operation does (R218 to R221), with its operands. -/
inductive RmwFn where
  | int (op : Nat) (ty : DType) (v : Nat)
  | flt (op : Nat) (ty : DType) (v : Nat)
  | cas (ty : DType) (cmp new : Nat)
  | link (ty : DType)
  deriving DecidableEq, Repr, Inhabited

/-- The kinds of pending access; a store may be one of `ST.PREF` (R340). -/
inductive OpKind where
  | load (sx : Bool)
  | store (ref : Bool)
  | rmw (f : RmwFn)
  | fence
  deriving DecidableEq, Repr, Inhabited

/-- An access that has issued and not yet performed (R201, R213). `segs` are the byte ranges (address, length) it covers, in order; a
store holds one entry per byte, `none` where it writes nothing or has written already; a load holds the bytes it has read already (R192). `tag` names the
register producer it fills, `va` is the virtual address of the access (R362), `back` the physical address that backs a private access (R240), `issued` the cycle of its issue, `split` marks `LDU`,
and `ahead` the intervals of its lines when it performed before an earlier acquire (R233). -/
structure MemOp where
  id : Nat
  uid : Nat
  core : Nat
  part : Nat
  pc : Dword
  psn : Word
  kind : OpKind
  space : OpSpace
  segs : List (Nat × Nat)
  data : List (Option Byte)
  scope : Scope
  ord : Ord
  evict : Nat
  tag : Option Nat
  back : Nat := 0
  va : Dword := 0
  issued : Nat := 0
  split : Bool := false
  ahead : Option (List Nat) := none
  deriving DecidableEq, Repr, Inhabited

/-- A byte that a held release replaced (R232): its address, what the level of the release held, and the dirty byte of the core's L1, if there was one. -/
structure OldByte where
  a : Nat
  was : Byte
  dirty : Option Byte
  deriving DecidableEq, Repr, Inhabited

/-- A byte that a write has replaced: a read in a race may still return it (R204). -/
structure Past where
  space : OpSpace
  a : Nat
  b : Byte
  deriving DecidableEq, Repr, Inhabited

/-- The PHASE that a barrier instruction last gave a barrier object (R224, R227). -/
structure Phased where
  space : OpSpace
  a : Nat
  phase : Nat
  deriving DecidableEq, Repr, Inhabited

/-- A release that has performed and is not yet confirmed (R230): the bytes it replaced and the map words of parcels it touched that were marked, by parcel number
(R333), for a withdrawal (R232), whether an armed `.EARLY` presented it before earlier events of its thread (R245), and the tick when it was held. -/
structure Hold where
  op : MemOp
  old : List OldByte
  marks : List (Nat × List Nat)
  interval : Nat
  early : Bool
  since : Nat
  deriving DecidableEq, Repr, Inhabited

/-- A page request (R180), and whether a fetch made it. -/
structure PageReq where
  id : Nat
  die : Nat
  asid : Word
  va : Dword
  write : Bool
  exec : Bool
  deriving DecidableEq, Repr, Inhabited

/-- The classes of R15; a disabled core has none. -/
inductive CoreClass where
  | a | b | c | d
  deriving DecidableEq, Repr, Inhabited

/-- What one core holds besides its gangs. `behind` marks the partitions that have not yet looked at their L1 lines anew since a thread of another partition
acquired at `.QUAD` or wider (R208). -/
structure Core where
  id : Nat
  cls : Option CoreClass
  l1size : Nat
  l1 : List L1Line
  behind : BitVec 4
  icache : List (Nat × BitVec 512)
  tlb : List Tlb
  walkTlb : List Tlb
  batten : Vector Nat 7
  inject : Option Inject
  deriving DecidableEq, Repr

/-- What a ready gang comes from (R314, R371). -/
inductive WorkSrc where
  | batch (id : Nat)
  | chunk (card first count : Nat)
  | saved (gang : Nat)
  deriving DecidableEq, Repr, Inhabited

/-- What one die holds: its TLB, firmware version, the errors that it has corrected (R398), machine-check summary (R386), the Galliard counters (R394), the region of each PRIO
that its dispatcher served last and the heads that it has passed over (R314), and whether it has stopped for heat (R400). -/
structure Die where
  id : Nat
  enabled : Bool
  stopped : Bool
  tlb : List Tlb
  fw : Word
  galliard : Vector Nat 5
  last : List (Nat × Nat)
  passed : List WorkSrc
  corrected : Nat
  mchkCount : Nat
  mchkKind : Nat
  mchkCore : Nat
  /-- Which activated image runs (R407), and whether the last one failed to verify (R406). -/
  image : Nat := 0
  failed : Bool := false
  deriving DecidableEq, Repr

/-- A Purlin unit with something armed or counted (R245, R248): UNIT code, counters, armed fault. Units not listed have zero counters
and nothing armed. -/
structure Purlin where
  unit : Nat
  counts : Vector Nat 7
  inject : Option Inject
  deriving DecidableEq, Repr

/-! ### Regions and work -/

/-- The states of a region (R301, R303). -/
inductive RState where
  | active | quiescing | cancelling | halted | dead
  deriving DecidableEq, Repr, Inhabited

/-- A node of a region (R309). -/
structure Node where
  lb : Dword
  blk : LaunchBlock
  rsz : Nat
  maxd : Nat
  pad : Bool
  en : Bool
  replay : Bool
  thr : Nat
  timer : Nat
  classes : BitVec 4
  qlog2 : Nat
  qbase : Dword
  nrec : Nat
  ngang : Nat
  ntimer : Nat
  deriving DecidableEq, Repr

/-- A region under a debugger on one die (R373, R377): halted, armed for break-halting, and the place of a thread that broke. -/
structure Debug where
  die : Nat
  halted : Bool
  armed : Bool
  brk : Option Nat
  deriving DecidableEq, Repr, Inhabited

/-- A region (R301): the RCB fields and what the device keeps with them. -/
structure Region where
  num : Nat
  parent : Nat
  image : Dword
  vif : Nat
  state : RState
  ovr : BitVec 16
  cores : Nat
  slots : Nat
  pool : Nat
  poolb : Nat
  tdir : Nat
  prio : Nat
  classes : BitVec 4
  logm : Bool
  sys : Bool
  fdom : Nat
  vdtAddr : Dword
  vdt : List Nat
  pasid : BitVec 20
  ptroot : Nat
  ptel : Dword
  asid : Word
  audit : Word
  wdog : Word
  grace : Nat
  fcr0 : Word
  bincap : Nat
  nodes : List Node
  nodetab : Dword
  handler : Dword
  logring : Dword
  logn : Nat
  logdrop : Nat
  lseed : Dword
  accepted : Nat
  consumed : Nat
  dropped : Nat
  tdwoff : List (Option Nat)
  cancelAt : Nat
  hold : Bool
  log : List Nat
  logTail : Nat
  cursors : List (Nat × Nat × Nat)
  sel : List (Nat × Nat)
  dbg : List Debug
  deriving DecidableEq, Repr

/-- How far a batch is (R310): gathering, sealed and waiting for room in the ring, in the ring, or a gang. -/
inductive BatchSt where
  | gathering | sealed | ring | gang
  deriving DecidableEq, Repr, Inhabited

/-- A batch (R310): where its records lie, the slots taken, when the first was, and whether its timer sealed it. -/
structure Batch where
  id : Nat
  region : Nat
  node : Nat
  die : Nat
  depth : Nat
  base : Nat
  size : Nat
  slots : Nat
  t0 : Nat
  timed : Bool
  st : BatchSt
  deriving DecidableEq, Repr, Inhabited

/-- A job card in progress (R315 to R318): records dealt, chunks dealt, chunks that have not ended. -/
structure Card where
  id : Nat
  region : Nat
  uid : Nat
  lb : LaunchBlock
  args : Dword
  n : Nat
  stride : Nat
  pad : Bool
  dscope : Nat
  done : Dword
  dealt : Nat
  chunks : Nat
  live : Nat
  deriving DecidableEq, Repr

/-- A ready gang of a die's dispatcher, in order of arrival (R314). -/
structure Ready where
  die : Nat
  region : Nat
  bin : Nat
  src : WorkSrc
  deriving DecidableEq, Repr, Inhabited

/-- Bytes that `region` has taken from the pool allotment it draws on (R302), for a gang, a batch or a job. -/
structure Block where
  id : Nat
  region : Nat
  base : Nat
  size : Nat
  deriving DecidableEq, Repr, Inhabited

/-- What the device writes on its own: bytes, an atomic add of 1 that is a release at `scope` (R318), or a word at its atomic point (R346, R357). -/
inductive DevKind where
  | bytes (bs : List Byte)
  | add (scope : Nat)
  | word (bs : List Byte)
  | mark (bits : Nat)
  deriving DecidableEq, Repr, Inhabited

/-- A write of the device that has not performed yet (R301, R309, R318, R405): the region in whose space `va` is an address, or none for a physical address, the
page request that it waits for (R180), and the thread and instruction that it is for. DESIGN CHOICE (assumption 32). -/
structure DevWrite where
  space : Option Nat
  core : Nat
  va : Dword
  kind : DevKind
  parked : Option Nat
  uid : Option Nat := none
  pc : Dword := 0
  deriving DecidableEq, Repr, Inhabited

/-! ### Parcels, windows and the fabric (18) -/

/-- Parcel states (R332). -/
inductive PState where
  | free | opened | sealed | inTransit | arrived | returned
  deriving DecidableEq, Repr, Inhabited

/-- An entry of the parcel table (R331, R332): its header, the physical address of its bytes, the words its map marks, the `SEAL` in progress
(thread, and the number of its release), and the region whose allotment it is charged to. Numbers not listed are free at generation 0. DESIGN CHOICE (assumption 55). -/
structure Parcel where
  num : Nat
  gen : Nat
  st : PState
  lsz : Nat
  region : Nat
  base : Nat
  map : List Nat
  schip : Nat
  dchip : Nat
  dwin : Nat
  key : Word
  sealing : Option (Nat × Option Nat)
  charge : Nat
  dropped : Bool
  deriving DecidableEq, Repr, Inhabited

/-- A `POST` that waits for its outcome (R342). DESIGN CHOICE (assumption 42). -/
structure Post where
  uid : Nat
  num : Nat
  status : Option Nat
  deriving DecidableEq, Repr, Inhabited

/-- A window (R345): its descriptor, the frames pinned for its pages and its queue, whether it is broken, its arrival list, and its
notification queue: the place of the oldest entry and how many there are. -/
structure Window where
  num : Nat
  region : Nat
  base : Nat
  size : Nat
  key : Word
  rights : BitVec 4
  nq : Nat
  nqlog2 : Nat
  asid : Word
  frames : List Nat
  qframes : List Nat
  broken : Bool
  arrivals : List Nat
  head : Nat
  count : Nat
  deriving DecidableEq, Repr, Inhabited

/-- The remote operations a thread issues (R348). -/
inductive RmaOp where
  | wr | wri | rd (n : Nat) | rdBlk | atom (op : Nat) (ty : DType) (v : Nat)
  deriving DecidableEq, Repr, Inhabited

/-- A remote operation in progress (R346, R347): the physical address of its block's STATUS word, target, local range, ordering, and producer. -/
structure Remote where
  id : Nat
  uid : Nat
  core : Nat
  pc : Dword
  op : RmaOp
  ord : Ord
  status : Nat
  chip : Nat
  win : Nat
  key : Word
  off : Nat
  len : Nat
  laddr : Dword
  imm : Word
  tag : Option Nat
  st : CmdSt
  deriving DecidableEq, Repr, Inhabited

/-- A collective round of this module (R355 to R357): its block and team as read, the physical address of its STATUS word, its time limit in ticks,
when its clock began and for how long it was frozen, its trigger, and whether its own block is invalid (status 4). -/
structure Coll where
  id : Nat
  uid : Nat
  core : Nat
  pc : Dword
  status : Nat
  send : Dword
  recv : Dword
  count : Nat
  seq : Nat
  root : Nat
  rank : Nat
  dt : Nat
  red : Nat
  op : Nat
  nmem : Nat
  limit : Option Nat
  since : Nat
  frozen : Nat
  trig : Option Trigger
  bad : Bool
  parked : Option Nat
  /-- The chips of the members (R354). -/
  chips : List Nat := []
  deriving DecidableEq, Repr, Inhabited

/-- Traffic that is bound to one link: operations and rounds by number, and parcels by number and generation. DESIGN CHOICE (assumption 59). -/
structure Traffic where
  remotes : List Nat
  colls : List Nat
  parcels : List (Nat × Nat)
  deriving DecidableEq, Repr, Inhabited

/-- A peer port (R330, R395): port `6d + i` is port i of die d, and 24 to 27 are the Eave links. `fails` counts flits that failed in a row, `heard` is the tick of
the last one, and `training` is what the link still carries while it drains for a retrain (R401). DESIGN CHOICE (assumption 38). -/
structure Port where
  port : Nat
  live : Bool
  seq : Nat
  fails : Nat
  heard : Nat
  training : Option Traffic := none
  deriving DecidableEq, Repr, Inhabited

/-- The drain of a dead link (R396): the tick of the declaration, the rounds that have ended, and what the link held or no route now reaches. -/
structure Drain extends Traffic where
  chip : BitVec 16
  port : Nat
  since : Nat
  round : Nat
  deriving DecidableEq, Repr, Inhabited

/-- A link-state event that has not been posted (R397), with the tick of the change. -/
structure Notice where
  port : Nat
  live : Bool
  seq : Nat
  since : Nat
  deriving DecidableEq, Repr, Inhabited

/-- The last link-state update applied for a port of a chip (R395). -/
structure LinkSt where
  chip : BitVec 16
  port : Nat
  live : Bool
  seq : Word
  deriving DecidableEq, Repr, Inhabited

/-! ### Virtual interfaces and reliability (21) -/

/-- A virtual interface (R403 to R405): root region, rung doorbells, pre-emption grace in ticks (R369), and its event ring in host memory:
address, entries, how many the host has taken and the device written, and the events dropped. -/
structure Vif where
  id : Nat
  root : Option Nat
  bells : Word
  grace : Nat
  ring : Nat
  slots : Nat
  taken : Nat
  written : Nat
  dropped : Nat
  deriving DecidableEq, Repr, Inhabited

/-- What the auditor and Purlin keep of a gang of a replayable node (R243, R394): where it ran, its launch block, the classes that suit it and the bytes of its batch, its stores, its records by thread, the lines it wrote with the
interval of each write, and the threads' fault domains that received one of them. -/
structure Audit where
  gang : Nat
  die : Nat
  quad : Nat
  region : Nat
  fdom : Nat
  lb : LaunchBlock
  classes : BitVec 4
  batch : List Byte
  selected : Bool
  stores : List (Nat × Byte)
  records : List (Nat × List Byte)
  lines : List (Nat × Nat)
  seen : List Nat
  /-- What the replay starts with (R394), the line of each record, and how a replay has ended: its core, and its output unless it was abandoned. -/
  recAddr : Dword := 0
  nrec : Nat := 0
  depth : Nat := 0
  pad : Bool := false
  recLines : List Nat := []
  replay : Option Replay := none
  deriving DecidableEq, Repr

/-- The model's own: what the agenda makes happen next: an event, a step of a thread, the passing of time, the eviction of a line from an L1 (R185) or of
code from an instruction cache (R41), the loss of a reservation (R221), part `part` of the `k`-th pending access (R192), a racing read of the `k`-th pending access that
returns `bytes` (R204), the `k`-th pending access performing ahead of an earlier acquire (R233), the `k`-th write of the device, the next element of the `k`-th started command of a core's copy engine (R286), the translations of its next `n` elements ahead of them (R287), the next element of a core's stream unit (R169), the retrain of a link (R401), or a replay of the oldest selected gang of a die at
some places, by the next `n` entries (R394). DESIGN CHOICE (assumption 10). DESIGN CHOICE (assumption 75). -/
inductive Agenda where
  | event (i : Instr)
  | thread (uid : Nat)
  | tick (n : Nat)
  | evict (core line : Nat)
  | evictCode (core line : Nat)
  | retrain (port : Nat)
  | loseResv (uid : Nat)
  | piece (k part : Nat)
  | race (k : Nat) (bytes : List Byte)
  | reload (k : Nat)
  | device (k : Nat)
  | element (core k : Nat)
  | ahead (core k n : Nat)
  | nest (core : Nat)
  | replay (die : Nat) (place : List Place) (n : Nat)
  deriving DecidableEq, Repr

/-- What has issued in this cycle (R67): the partition among all, the PC and region of the bundle, the thread and its home lane, and the line that its bundle has fetched (R41). -/
structure Issued where
  part : Nat
  pc : Dword
  region : Nat
  uid : Nat
  lane : Nat
  line : Option (BitVec 512)
  deriving DecidableEq, Repr, Inhabited

/-- The state of the whole module. `me` is the thread that issues next, `others` are the rest; `badWords` numbers the
8-byte words that hold an uncorrectable error (R399), `weak` those that hold a correctable one and `struck` the words of other arrays that hold an uncorrectable one (R398), and `answer` holds the bytes that the device
last returned to the host: of a read of memory (R188) or an attestation report (R407). `envCxl` are the host ranges the device may use (R400), as base and
size, and `attached` the dies through whose ports a host is attached (R402). `cycle` numbers the cycles in which the pickers
choose, and `bundle` holds what has issued in this cycle (R67). `past` holds what writes have replaced (R204), and `phases` the barrier objects (R227). `agenda`, `fresh` and `turns` are the model's own: what moves next, the
number of the next free value or tag, and how many cycles have passed in which nothing else moved. -/
structure State where
  me : Thread
  others : List Thread
  groups : List Group
  gangs : List Gang
  pads : List Pad
  cores : List Core
  dies : List Die
  purlin : List Purlin
  mem : List Host.Cell
  lines : List LineState
  counted : List Counted
  past : List Past
  phases : List Phased
  ops : List MemOp
  holds : List Hold
  handovers : List Handover
  pageReqs : List PageReq
  devWrites : List DevWrite
  regions : List Region
  tiles : List Tile
  copies : List CopyCmd
  streams : List StreamCmd
  matrix : List MatCmd
  slates : List Slate
  accs : List Entry
  binds : List Binding
  shadows : List Shadow
  lates : List Late
  batches : List Batch
  cards : List Card
  ready : List Ready
  blocks : List Block
  parcels : List Parcel
  posts : List Post
  windows : List Window
  remotes : List Remote
  colls : List Coll
  ports : List Port
  links : List LinkSt
  drains : List Drain
  notices : List Notice
  routes : List Nat
  eaves : List (Nat × Nat)
  vifs : List Vif
  audits : List Audit
  badWords : List Nat
  weak : List Nat
  struck : List Struck
  answer : List Byte
  chip : BitVec 16
  heap : Nat
  heapSize : Nat
  saveSize : Nat
  envPow : Nat
  envInj : Nat
  envCxl : List (Nat × Nat)
  attached : List Nat
  powered : Bool
  mbase : Nat
  time : Nat
  fresh : Nat
  turns : Nat
  cycle : Nat
  bundle : List Issued
  agenda : List Agenda
  deriving DecidableEq, Repr

/-! ### Reset -/

/-- The thread that stands in `me` while the module holds no thread: it has ended, and its registers hold 0 (assumption 3). -/
def Thread.vacant : Thread :=
  { uid := 0, gang := 0, role := 0, gid := 0, member := 0, tid := 0, core := 0, part := 0, lane := 0, budget := 8, pc := 0,
    regs := Vector.replicate 256 0, fe := Vector.replicate 256 true, preds := 1, ord := 0, stk := 0, fcr := 0, fsr := 0, trapf := 0, asid := 0, ptel := 0,
    priv := [], privSize := 0, privBase := 0, prods := [], run := .exited, halted := false, handler := none, entering := none, held := [],
    cancelTaken := false, psn := 0, resv := none, trig := none, resume := none, light := false, warned := false, wrote := [], stepping := false,
    starting := false, asks := none, syncs := [], since := 0, logs := [], struck := [] }
/-- A core before its die has booted: no class is recorded, and its L1 is 64 KiB (R181). DESIGN CHOICE (assumption 3). -/
def Core.unbooted (id : Nat) : Core :=
  { id := id, cls := none, l1size := 65536, l1 := [], behind := 0, icache := [], tlb := [], walkTlb := [], batten := Vector.replicate 7 0, inject := none }
/-- A die before it has booted (R406). DESIGN CHOICE (assumption 3). -/
def Die.unbooted (id : Nat) : Die :=
  { id := id, enabled := false, stopped := false, tlb := [], fw := 0, galliard := Vector.replicate 5 0, last := [], passed := [], corrected := 0, mchkCount := 0, mchkKind := 0, mchkCore := 0 }
/-- A virtual interface without a root, with the grace of R369. DESIGN CHOICE (assumption 3). -/
def Vif.fresh (id : Nat) : Vif :=
  { id := id, root := none, bells := 0, grace := 50000, ring := 0, slots := 0, taken := 0, written := 0, dropped := 0 }
/-- A slate that nobody has claimed (R251). DESIGN CHOICE (assumption 3). -/
def Slate.fresh (core n : Nat) : Slate :=
  { core := core, n := n, claim := none, pins := [], want := none, got := none, void := false, data := [], sum := [] }

/-- The module when its power comes up, before any die has booted (R406): no region, no gang, no thread. The values that the manual does not give
are those of assumption 3; the envelopes stand at manufacture (R400). DESIGN CHOICE (assumption 3). DESIGN CHOICE (assumption 7). -/
def State.reset : State :=
  { me := Thread.vacant, others := [], groups := [], gangs := [], pads := [], cores := (List.range 256).map Core.unbooted,
    dies := (List.range 4).map Die.unbooted, purlin := [], mem := [], lines := [], counted := [], past := [], phases := [], ops := [], holds := [], handovers := [], pageReqs := [], devWrites := [],
    regions := [], tiles := [], copies := [], streams := [], matrix := [],
    slates := (List.range 512).map (fun i => Slate.fresh (i / 2) (i % 2)), accs := [], binds := [], shadows := [], lates := [], batches := [], cards := [],
    ready := [], blocks := [], parcels := [], posts := [], windows := [], remotes := [], colls := [],
    ports := (List.range 28).map (fun p => { port := p, live := true, seq := 0, fails := 0, heard := 0 }),
    links := [], drains := [], notices := [], routes := [], eaves := [], vifs := (List.range 64).map Vif.fresh, audits := [], badWords := [], weak := [], struck := [], answer := [], chip := 1,
    heap := 0, heapSize := 0, saveSize := 0, envPow := 4000, envInj := 212500, envCxl := [(0, 2 ^ 64)], attached := [], powered := true, mbase := 0,
    time := 0, fresh := 1, turns := 0, cycle := 0, bundle := [], agenda := [] }

end Sys2Proof.Machine
end

