-- ==== Sys2Proof/Machine/Memory.lean ====
section
/-! DEFINITION. Byte memories: sorted lists of cells without repeats, in which no listed byte is the 0 that an unlisted address reads
as (00 R1; assumption 2). -/
namespace Sys2Proof.Machine

/-- What an address that is not listed reads as (assumption 2). -/
def unlisted : Byte := 0

/-- The byte at an address. DESIGN CHOICE (assumption 2). -/
def readByte (m : List Host.Cell) (a : Nat) : Byte :=
  match m with
  | [] => unlisted
  | (b, v) :: m => if b = a then v else if a < b then unlisted else readByte m a

/-- Store a byte, keeping the canonical form. -/
def writeByte (m : List Host.Cell) (a : Nat) (x : Byte) : List Host.Cell :=
  match m with
  | [] => if x = unlisted then [] else [(a, x)]
  | (b, v) :: m =>
    if b = a then (if x = unlisted then m else (a, x) :: m)
    else if a < b then (if x = unlisted then (b, v) :: m else (a, x) :: (b, v) :: m)
    else (b, v) :: writeByte m a x

/-- The canonical form: addresses rise strictly above `lo` and no cell holds the unlisted value. -/
def Memory.wfFrom (lo : Nat) : List Host.Cell → Bool
  | [] => true
  | (a, v) :: m => decide (lo ≤ a) && v != unlisted && Memory.wfFrom (a + 1) m
def Memory.wf (m : List Host.Cell) : Bool := Memory.wfFrom 0 m

/-- `n` bytes from address `a`, lowest address first. -/
def readBytes (m : List Host.Cell) (a n : Nat) : List Byte := (List.range n).map (fun i => readByte m (a + i))

/-- Store a run of bytes. -/
def writeBytes (m : List Host.Cell) (a : Nat) : List Byte → List Host.Cell
  | [] => m
  | b :: bs => writeBytes (writeByte m a b) (a + 1) bs

/-- Store the bytes that are present. -/
def writeSome (m : List Host.Cell) (a : Nat) : List (Option Byte) → List Host.Cell
  | [] => m
  | none :: bs => writeSome m (a + 1) bs
  | some b :: bs => writeSome (writeByte m a b) (a + 1) bs

/-- A little-endian list of bytes as a number (R1). -/
def bytesNat : List Byte → Nat
  | [] => 0
  | b :: bs => b.toNat + 256 * bytesNat bs

/-- The `k` low bytes of a number, lowest first (R1). -/
def natBytes : Nat → Nat → List Byte
  | 0, _ => []
  | k + 1, n => BitVec.ofNat 8 n :: natBytes k (n / 256)

/-- An `n`-byte number at an address. -/
def readNat (m : List Host.Cell) (a n : Nat) : Nat := bytesNat (readBytes m a n)

/-- Bytes as register words, lowest first. -/
def bytesWords : List Byte → List Word
  | b0 :: b1 :: b2 :: b3 :: bs => BitVec.ofNat 32 (bytesNat [b0, b1, b2, b3]) :: bytesWords bs
  | [] => []
  | bs => [BitVec.ofNat 32 (bytesNat bs)]

/-- Register words as bytes. -/
def wordsBytes : List Word → List Byte
  | [] => []
  | w :: ws => natBytes 4 w.toNat ++ wordsBytes ws

/-- The bits `hi` to `lo` of a number (02). -/
def bitsOf (n hi lo : Nat) : Nat := n / 2 ^ lo % 2 ^ (hi + 1 - lo)
def bitOf (n i : Nat) : Bool := n.testBit i

/-- CRC-32C (R237), bit by bit over the bytes in address order. -/
def crcStep : Nat → Nat → Nat
  | 0, c => c
  | k + 1, c => crcStep k (if c % 2 = 1 then (c / 2) ^^^ 0x82F63B78 else c / 2)
def crc32c (bs : List Byte) : Word :=
  BitVec.ofNat 32 ((bs.foldl (fun c b => crcStep 8 (c ^^^ b.toNat)) 0xFFFFFFFF) ^^^ 0xFFFFFFFF)

end Sys2Proof.Machine
end

