-- ==== Sys2Proof/Machine/Ops.lean ====
section
/-! DEFINITION. The named operations over the state that every instruction uses: registers with their full and empty bits, the
instruction boundary, and the physical address map. -/
namespace Sys2Proof.Machine

/-! ### Registers (R62, R69 to R71) -/

/-- A general register; g0 reads zero (R62). -/
def Thread.rd (t : Thread) (r : Reg) : Word := if r = 0 then 0 else t.regs[r.toNat]

/-- A pair, named by its even register, low word first (R25). -/
def Thread.rd2 (t : Thread) (r : Reg) : Dword := t.rd (r + 1) ++ t.rd r

/-- `n` consecutive registers. -/
def Thread.rds (t : Thread) (r : Reg) : Nat → List Word
  | 0 => []
  | n + 1 => t.rd r :: t.rds (r + 1) n

/-- `n` registers as one number, the lowest register least significant. -/
def Thread.rdNat (t : Thread) (r : Reg) : Nat → Nat
  | 0 => 0
  | n + 1 => (t.rd r).toNat + 2 ^ 32 * t.rdNat (r + 1) n

/-- The producer has a register in its group. -/
def Prod.covers (p : Prod) (r : Reg) : Bool := decide (p.d.toNat ≤ r.toNat ∧ r.toNat < p.d.toNat + p.n)

/-- A producer of the register is pending. -/
def Thread.pending (t : Thread) (r : Reg) : Bool := t.prods.any (·.covers r)

/-- The register is full (R69); g0 always is. -/
def Thread.full (t : Thread) (r : Reg) : Bool := r == 0 || t.fe[r.toNat]

/-- R71: a pending producer no longer writes the register. -/
def Prod.supersede (r : Reg) (p : Prod) : Prod := if p.covers r then { p with dead := r :: p.dead } else p

/-- Write a register at completion (R69): it turns full, unless a producer is pending, in which case it turns full when the
producer arrives and keeps the value written here (R71). Writes to g0 are discarded. DESIGN CHOICE (assumption 14). -/
def Thread.wr (t : Thread) (r : Reg) (v : Word) : Thread :=
  if r = 0 then t
  else if t.pending r then
    { t with regs := t.regs.set r.toNat v, prods := t.prods.map (Prod.supersede r) }
  else { t with regs := t.regs.set r.toNat v, fe := t.fe.set r.toNat true }

/-- Write consecutive registers, lowest first. Each of them turns full by itself (R71), also where the two halves of a pair await different producers. DESIGN CHOICE (assumption 85). -/
def Thread.wrs (t : Thread) (r : Reg) : List Word → Thread
  | [] => t
  | w :: ws => (t.wr r w).wrs (r + 1) ws

/-- R399: the error of a register pair goes with a write of all of it. -/
def Thread.mend (t : Thread) (r : Reg) (n : Nat) : Thread := { t with struck := t.struck.filter (fun p => !decide (r.toNat ≤ 2 * p ∧ 2 * p + 2 ≤ r.toNat + n)) }
/-- Write a pair (R25). -/
def Thread.wr2 (t : Thread) (r : Reg) (v : Dword) : Thread := (t.wrs r [v.setWidth 32, (v >>> 32).setWidth 32]).mend r 2

/-- The `n` words of a number, lowest first. -/
def natWords : Nat → Nat → List Word
  | 0, _ => []
  | n + 1, v => BitVec.ofNat 32 v :: natWords n (v / 2 ^ 32)

/-- Empty a register. -/
def Thread.drain (t : Thread) (r : Reg) : Thread :=
  if r = 0 then t else { t with fe := t.fe.set r.toNat false, prods := t.prods.map (Prod.supersede r) }

/-- Registers `r` to `r + n - 1`. -/
def regGroup (r : Reg) : Nat → List Reg
  | 0 => []
  | n + 1 => r :: regGroup (r + 1) n

/-- R69: a long-latency producer issues: each destination register turns empty. -/
def Thread.produce (t : Thread) (p : Prod) : Thread :=
  let t := (regGroup p.d p.n).foldl Thread.drain t
  { t with prods := t.prods ++ [p] }

/-- The value of a producer is known. -/
def Thread.fill (t : Thread) (tag : Nat) (ws : List Word) : Thread :=
  { t with prods := t.prods.map (fun p => if p.tag = tag then { p with val := some ws } else p) }

/-- Write the words of an arriving producer into those registers of its group that no later write superseded. -/
def Thread.land (t : Thread) (dead : List Reg) (r : Reg) : List Word → Thread
  | [] => t
  | w :: ws =>
    let t := if r = 0 ∨ r ∈ dead then t else { t with regs := t.regs.set r.toNat w }
    t.land dead (r + 1) ws

/-- The register turns full when no producer of it is left (R71). -/
def Thread.refill (t : Thread) (r : Reg) : Thread :=
  if r = 0 ∨ t.pending r then t else { t with fe := t.fe.set r.toNat true }

/-- The producers of a thread that were issued after `p`. -/
def Thread.later (t : Thread) (p : Prod) : List Prod := (t.prods.dropWhile (·.tag ≠ p.tag)).drop 1
/-- R71: a write that has completed has superseded the producer's value of the register; producers that are still pending may yet be discarded (R169). -/
def Thread.outlived (t : Thread) (p : Prod) (r : Reg) : Bool := decide ((t.later p).countP (·.covers r) < p.dead.count r)
/-- R69, R71: the value of producer `p` arrives. -/
def Thread.arrive (t : Thread) (p : Prod) (ws : List Word) : Thread :=
  let dead := (regGroup p.d p.n).filter (t.outlived p)
  let t := { t with prods := t.prods.filter (·.tag ≠ p.tag), fsr := t.fsr ||| p.flags.setWidth 32 }
  ((regGroup p.d p.n).foldl Thread.refill (t.land dead p.d ws)).mend p.d (if dead.isEmpty then p.n else 0)
/-- R169: producer `p` is discarded: its registers are as if it had not been issued. -/
def Thread.forgo (t : Thread) (p : Prod) : Thread :=
  let back (q : Prod) : Prod := { q with dead := (regGroup p.d p.n).foldl (fun l r => if q.covers r then l.erase r else l) q.dead }
  let t := { t with prods := (t.prods.takeWhile (·.tag ≠ p.tag)).map back ++ t.later p }
  (regGroup p.d p.n).foldl Thread.refill t

/-- A predicate; p0 is true (R78). -/
def Thread.pred (t : Thread) (p : BitVec 3) : Bool := p == 0 || t.preds.getLsbD p.toNat
/-- Write a predicate; a write to p0 is discarded (R52, R91). -/
def Thread.setPred (t : Thread) (p : BitVec 3) (v : Bool) : Thread :=
  if p = 0 then t
  else { t with preds := (t.preds &&& ~~~ (1#8 <<< p.toNat)) ||| (if v then 1#8 <<< p.toNat else 0) }
/-- The predicates as a byte, bit 0 one (R91, R363). -/
def Thread.predByte (t : Thread) : BitVec 8 := t.preds ||| 1

/-- R78. -/
def Thread.passes (t : Thread) (g : Guard) : Bool := t.pred g.p ^^ g.pn

/-! ### Looking things up -/

def State.group? (s : State) (t : Thread) : Option Group :=
  s.groups.find? (fun g => g.gang = t.gang ∧ g.role = t.role ∧ g.gid = t.gid)
def State.gang? (s : State) (id : Nat) : Option Gang := s.gangs.find? (·.id = id)
def State.region? (s : State) (num : Nat) : Option Region := s.regions.find? (·.num = num)
def State.core? (s : State) (id : Nat) : Option Core := s.cores.find? (·.id = id)
def State.die? (s : State) (id : Nat) : Option Die := s.dies.find? (·.id = id)
def State.thread? (s : State) (uid : Nat) : Option Thread :=
  if s.me.uid = uid then some s.me else s.others.find? (·.uid = uid)
/-- All threads, the issuing one first. -/
def State.threads (s : State) : List Thread := s.me :: s.others
/-- The region a thread belongs to. -/
def State.regionNum (s : State) (t : Thread) : Nat := ((s.gang? t.gang).map (·.region)).getD 0
def State.regionOf (s : State) (t : Thread) : Option Region := s.region? (s.regionNum t)
/-- R55: the thread belongs to a system region. -/
def State.isSys (s : State) (t : Thread) : Bool := ((s.regionOf t).map (·.sys)).getD false
/-- The gang's format bank (R118). -/
def State.bank (s : State) (t : Thread) : FBank := ((s.gang? t.gang).map (·.lb.fbank)).getD (Vector.replicate 8 0)
/-- The key of a thread's group. -/
def Thread.gkey (t : Thread) : GKey := { gang := t.gang, role := t.role, gid := t.gid }
/-- The die of a thread's core. -/
def Thread.die (t : Thread) : Nat := t.core / 64

/-- Change what is known of every thread. -/
def State.mapThreads (s : State) (f : Thread → Thread) : State := { s with me := f s.me, others := s.others.map f }
/-- Change one thread. -/
def State.mapThread (s : State) (uid : Nat) (f : Thread → Thread) : State :=
  s.mapThreads (fun t => if t.uid = uid then f t else t)
def State.mapGroup (s : State) (t : Thread) (f : Group → Group) : State :=
  { s with groups := s.groups.map (fun g => if g.gang = t.gang ∧ g.role = t.role ∧ g.gid = t.gid then f g else g) }
def State.mapGang (s : State) (id : Nat) (f : Gang → Gang) : State :=
  { s with gangs := s.gangs.map (fun g => if g.id = id then f g else g) }
def State.mapCore (s : State) (id : Nat) (f : Core → Core) : State :=
  { s with cores := s.cores.map (fun c => if c.id = id then f c else c) }
def State.mapDie (s : State) (id : Nat) (f : Die → Die) : State :=
  { s with dies := s.dies.map (fun d => if d.id = id then f d else d) }
def State.mapRegion (s : State) (num : Nat) (f : Region → Region) : State :=
  { s with regions := s.regions.map (fun r => if r.num = num then f r else r) }

/-- Change the issuing thread. -/
def State.upd (s : State) (f : Thread → Thread) : State := { s with me := f s.me }
def State.wr (s : State) (r : Reg) (v : Word) : State := s.upd (·.wr r v)
def State.wr2 (s : State) (r : Reg) (v : Dword) : State := s.upd (·.wr2 r v)
def State.wrNat (s : State) (r : Reg) (n v : Nat) : State := s.upd (fun t => (t.wrs r (natWords n v)).mend r n)
def State.setPred (s : State) (p : BitVec 3) (v : Bool) : State := s.upd (·.setPred p v)
/-- A number that no other has. DESIGN CHOICE (assumption 1). -/
def State.bump (s : State) : State := { s with fresh := s.fresh + 1 }

/-- A long-latency producer of the issuing thread, with its value if it is already known. -/
def State.produce (s : State) (d : Reg) (n : Nat) (val : Option (List Word)) : State :=
  (s.upd (·.produce { tag := s.fresh, d := d, n := n, val := val })).bump
/-- A producer of an SFU or conversion queue (R69). -/
def State.enqueue (s : State) (d : Reg) (val : List Word) (flags : BitVec 6) (sfu : Option (Dword × Nat)) : State :=
  (s.upd (·.produce { tag := s.fresh, d := d, n := val.length, val := some val, queue := true, sfu := sfu, flags := flags })).bump

/-! ### The instruction boundary -/

/-- R37: the next instruction start after an instruction of `n` syllables. -/
def nextStart (pc : Dword) (n : Nat) : Dword :=
  if (pc.toNat % 64) / 4 + n ≥ 15 then BitVec.ofNat 64 ((pc.toNat / 64 + 1) * 64) else pc + BitVec.ofNat 64 (4 * n)

/-- One instruction more since the thread's `LD.LINK` (R221). -/
def Resv.older (r : Resv) : Resv := { r with age := r.age + 1 }
/-- The thread has executed an instruction and goes on at `a`. -/
def Thread.goAt (a : Dword) (t : Thread) : Thread := { t with pc := a, run := .ready, resv := t.resv.map Resv.older }
/-- The thread goes on at the next start. -/
def Thread.advanceBy (n : Nat) (t : Thread) : Thread := t.goAt (nextStart t.pc n)
def State.advanceBy (n : Nat) (s : State) : State := s.upd (Thread.advanceBy n)
def State.advance (i : Checks) (s : State) : State := s.advanceBy i.syl
/-- The thread goes on at `a`. -/
def State.goto (a : Dword) (s : State) : State := s.upd (Thread.goAt a)

/-- The thread stays at the instruction and waits (R66). A wait of the same kind that has begun goes on. -/
def Thread.await (t : Thread) (w : Wait) : Thread :=
  match t.run with
  | .waiting w' => if w'.kind = w.kind then { t with run := .waiting { w with since := w'.since, frozen := w'.frozen, freed := w'.freed } } else { t with run := .waiting w }
  | _ => { t with run := .waiting w }
def State.await (s : State) (k : WaitKind) : State := s.upd (·.await { kind := k, since := s.time })
def State.awaitWith (s : State) (w : Wait) : State := s.upd (·.await { w with since := s.time })

/-! ### The physical address map (R175) and lines -/

/-- What a host-physical address is. -/
inductive PhysKind where
  | dram (die : Nat)
  | tdir (die unit : Nat)
  | host
  | bad
  deriving DecidableEq, Repr

/-- A region's carve on a die holds the unit (R189, R301). -/
def Region.carved (r : Region) (die unit : Nat) : Bool :=
  match (r.tdwoff[die]?).join with
  | some u => decide (u ≤ unit ∧ unit < u + r.tdir)
  | none => false

/-- DESIGN CHOICE (assumption 69). -/
def State.physKind (s : State) (pa : Nat) : PhysKind :=
  if s.mbase ≤ pa ∧ pa < s.mbase + 2 ^ 42 then
    let x := pa - s.mbase
    let die := x / 2 ^ 40
    let w := x % 2 ^ 40
    if ((s.die? die).map (·.enabled)).getD false then
      if w < 240000000000 then .dram die
      else if 0xC000000000 ≤ w ∧ w < 0xC030000000 ∧ s.regions.any (·.carved die ((w - 0xC000000000) / 2 ^ 21)) then
        .tdir die ((w - 0xC000000000) / 2 ^ 21)
      else .bad
    else .bad
  else if s.envCxl.any (fun r => decide (r.1 ≤ pa ∧ pa < r.1 + r.2)) then .host else .bad

/-- The home die of a device-memory address (R175). -/
def State.homeDie (s : State) (pa : Nat) : Nat := (pa - s.mbase) / 2 ^ 40 % 4

/-- The violation that the receiving checker finds in a record, if any (R238). -/
def Handover.fails (r : Handover) : Option Nat :=
  if r.interval ≠ r.expect then some 35 else if r.dup then some 32 else if r.hout ≠ r.hin then some 34 else none
/-- The last record of the line fails, and its checker has not found that yet: the faulty copy is not installed, and accesses wait (R238). DESIGN CHOICE (assumption 15). -/
def State.suspect (s : State) (line : Nat) : Bool := s.handovers.any (fun r => r.line == line && r.fails.isSome)
/-- Accesses to the line wait: it is held by a release that is not yet confirmed (R230), or its last record fails (R238). -/
def State.lineHeld (s : State) (line : Nat) : Bool :=
  s.holds.any (fun h => h.op.space == .glb && h.op.segs.any (fun x => decide (x.1 / 64 ≤ line ∧ 64 * line < x.1 + x.2))) || s.suspect line
/-- R398: a word of the range of a scratchpad, or of the lines that an L1 holds, has an uncorrectable error. -/
def State.scratchStruck (s : State) (gang core a n : Nat) : Bool :=
  s.struck.any (fun x => match x with | .scratch g c w => g == gang && c == core && decide (w * 8 < a + n ∧ a < w * 8 + 8) | _ => false)
def State.l1Struck (s : State) (core a n : Nat) : Bool :=
  s.struck.any (fun x => match x with | .l1 c w => c == core && decide (w * 8 < a + n ∧ a < w * 8 + 8) | _ => false)
/-- R399: a word of the physical range has an uncorrectable error. -/
def State.inError (s : State) (a n : Nat) : Bool := s.badWords.any (fun w => decide (w * 8 < a + n ∧ a < w * 8 + 8))

end Sys2Proof.Machine
end

