-- ==== Sys2Proof/Machine/Access.lean ====
section
/-! DEFINITION. Accesses as they perform: Purlin's intervals and handovers (R236 to R238, R249), the L1 (R184, R185), the atomic point
(R217), the allowed-reordering table (R213), and held releases (R230, R232). -/
namespace Sys2Proof.Machine

/-! ### Intervals (R236) -/

def State.lineState (s : State) (line : Nat) : LineState :=
  (s.lines.find? (·.line = line)).getD { line := line, interval := 0, owner := .home }
def State.setLine (s : State) (l : LineState) : State :=
  { s with lines := l :: s.lines.filter (·.line ≠ l.line) }

/-- R240: the UNIT code of a Purlin at an L2 slice, at an HBM controller, and of a Batten. -/
def unitL2 (die line : Nat) : Nat := die * 2 ^ 14 + 2 ^ 12 + (Config.l2Slice line).toNat
def State.unitHbm (s : State) (line : Nat) : Nat :=
  s.homeDie (line * 64) * 2 ^ 14 + 2 * 2 ^ 12 + ((line * 64 - s.mbase) % 2 ^ 40 / 4096) % 3
def unitBatten (core : Nat) : Nat := core / 64 * 2 ^ 14 + core % 64

/-- R237: writer ids: an L2 slice, the controller or atomic unit, and a host port. -/
def whoL2 (die line : Nat) : Nat := die * 2 ^ 14 + (Config.l2Slice line).toNat
def State.whoHbm (s : State) (line : Nat) : Nat :=
  s.homeDie (line * 64) * 2 ^ 14 + 2 ^ 12 + ((line * 64 - s.mbase) % 2 ^ 40 / 4096) % 3
def whoCxl (die : Nat) : Nat := die * 2 ^ 14 + 2 * 2 ^ 12

def Owner.mode : Owner → Nat
  | .home | .writer _ _ | .port _ => 0
  | .readers _ _ _ => 1
  | .atomic => 2
/-- R237: WHO of an owner. -/
def State.who (s : State) (line : Nat) : Owner → Word
  | .home | .atomic => BitVec.ofNat 32 (s.whoHbm line)
  | .writer d _ => BitVec.ofNat 32 (whoL2 d line)
  | .port p => BitVec.ofNat 32 p
  | .readers ds p _ => crc32c (((ds.map (whoL2 · line) ++ p.toList).insertionSort (· ≤ ·)).flatMap (natBytes 2))
/-- The UNIT whose checker holds a line for its owner (R237): that of the L2 that has the latest copy, else the home's. -/
def State.unitOf (s : State) (line : Nat) : Owner → Nat
  | .home | .atomic | .port _ => s.unitHbm line
  | .writer d _ => unitL2 d line
  | .readers ds _ _ => match ds with | d :: _ => unitL2 d line | [] => s.unitHbm line

def State.purlin? (s : State) (unit : Nat) : Purlin :=
  (s.purlin.find? (·.unit = unit)).getD { unit := unit, counts := Vector.replicate 7 0, inject := none }
def State.setPurlin (s : State) (p : Purlin) : State := { s with purlin := p :: s.purlin.filter (·.unit ≠ p.unit) }
/-- R248: a counter rises, modulo 2^64. -/
def bumpCount (v : Vector Nat 7) (i : Fin 7) : Vector Nat 7 := v.set i ((v[i] + 1) % 2 ^ 64)
/-- DESIGN CHOICE (assumption 15). -/
def State.countPurlin (s : State) (unit : Nat) (i : Fin 7) : State :=
  let p := s.purlin? unit
  s.setPurlin { p with counts := bumpCount p.counts i }
def State.countBatten (s : State) (core : Nat) (i : Fin 7) : State :=
  s.mapCore core (fun c => { c with batten := bumpCount c.batten i })

/-- Who causes an access: the thread it is for, if any, its instruction, its region, and the bundle it issued in; or the host. -/
structure Cause where
  uid : Option Nat := none
  pc : Dword := 0
  region : Word := 0
  host : Bool := false
  bundle : Option BundleKey := none
  deriving DecidableEq, Repr, Inhabited

/-- R245: whether an armed fault of the unit fires on this event, and the unit after it. -/
def Inject.fires (i : Inject) (region : Word) : Bool := i.region == 0xFFFFFFFF || i.region == region
/-- An outgoing record of the unit; `grant` says that it grants an L2 write ownership, which alone matches `.DUP`. -/
def Purlin.event (p : Purlin) (region : Word) (grant : Bool) : Option Nat × Purlin :=
  match p.inject with
  | none => (none, p)
  | some i =>
    if i.fires region && (i.form != 3 || grant) then
      if i.skip = 0 then (some i.form, { p with inject := none, counts := bumpCount p.counts 6 })
      else (none, { p with inject := some { i with skip := i.skip - 1 } })
    else (none, p)

def lineBytes (m : List Host.Cell) (line : Nat) : List Byte := readBytes m (line * 64) 64

/-- R243: a thread of the cause's region receives a line that an audited gang has written. -/
def State.markSeen (s : State) (line : Nat) (c : Cause) : State :=
  match s.region? c.region.toNat with
  | some r => { s with audits := s.audits.map (fun a => if a.lines.any (·.1 = line) then { a with seen := r.fdom :: a.seen } else a) }
  | none => s

/-- R236, R237: a line passes to `new`, received by the unit `dst`: the granting checker sends a record. The next interval begins, unless the line passes
among readers alone (`next` false). -/
def State.handover (s : State) (line : Nat) (new : Owner) (dst : Nat) (next : Bool) (c : Cause) : State :=
  let l := s.lineState line
  let n := if next then (l.interval + 1) % 2 ^ 40 else l.interval
  let src := s.unitOf line l.owner
  let (f, p) := (s.purlin? src).event c.region (match new with | .writer _ _ => true | _ => false)
  let sum := crc32c (lineBytes s.mem line)
  let r : Handover :=
    { line := line, interval := if f = some 2 then (n + 2) % 2 ^ 40 else n, expect := n, mode := new.mode, who := s.who line new,
      hout := if f = some 1 then sum ^^^ 1 else sum, hin := sum, uid := c.uid, host := c.host, pc := c.pc, src := src, dst := dst,
      dup := decide (f = some 3), from_ := l.owner, bytes := lineBytes s.mem line }
  let s := if p.inject = (s.purlin? src).inject then s else s.setPurlin p
  let s := (s.setLine { l with interval := n, owner := new }).markSeen line c
  { s with handovers := s.handovers ++ [r] }
/-- A handover that begins an interval, received by the unit of the new owner. -/
def State.grant (s : State) (line : Nat) (new : Owner) (c : Cause) : State := s.handover line new (s.unitOf line new) true c

/-- R236, R249: die `d`'s L2 reads a line: the first copy is granted exclusive, and a second reader moves the line to readers. -/
def State.readLine (s : State) (d line : Nat) (c : Cause) : State :=
  match (s.lineState line).owner with
  | .home | .atomic | .port _ => s.grant line (.writer d false) c
  | .writer d' m => if d' = d then s else s.handover line (.readers [d', d] none m) (unitL2 d line) true c
  | .readers ds p o => if d ∈ ds then s else s.handover line (.readers (ds ++ [d]) p o) (unitL2 d line) false c

/-- R236, R249: die `d`'s L2 takes a line to write it; a copy that it has exclusive turns from E to M. -/
def State.writeLine (s : State) (d line : Nat) (c : Cause) : State :=
  let l := s.lineState line
  match l.owner with
  | .writer d' m => if d' = d then (if m then s else s.setLine { l with owner := .writer d true }) else s.grant line (.writer d true) c
  | _ => s.grant line (.writer d true) c

/-- R238: the atomic unit takes a line. -/
def State.atomicLine (s : State) (line : Nat) (c : Cause) : State :=
  match (s.lineState line).owner with
  | .atomic => s
  | _ => s.grant line .atomic c
/-- The home's controller takes a line that leaves an L2. -/
def State.homeLine (s : State) (line : Nat) (c : Cause) : State :=
  match (s.lineState line).owner with
  | .home => s
  | _ => s.grant line .home c

/-- The lines a byte range touches. -/
def linesOf (a n : Nat) : List Nat :=
  if n = 0 then [] else (List.range ((a + n - 1) / 64 + 1 - a / 64)).map (· + a / 64)

/-- R196: the read by `c` is one request with the last counted read of the line: they issued in one bundle. DESIGN CHOICE (assumption 24). -/
def Counted.oneRequest (x : Counted) (c : Cause) : Bool := c.bundle.isSome && x.last == c.bundle
/-- R196: a read request of a counted line at its home takes one count; at zero the line leaves the L2. DESIGN CHOICE (assumption 24). -/
def State.readCounted (s : State) (line : Nat) (c : Cause) : State :=
  match s.counted.find? (·.line = line) with
  | none => s
  | some x =>
    let rest := s.counted.filter (·.line ≠ line)
    if x.oneRequest c then s
    else if x.left ≤ 1 then ({ s with counted := rest } : State).homeLine line c
    else { s with counted := { x with left := x.left - 1, last := c.bundle } :: rest }
def State.isCounted (s : State) (line : Nat) : Bool := s.counted.any (·.line = line)
/-- R196: a write of the range cancels counts. -/
def State.uncount (s : State) (a n : Nat) : List Counted := s.counted.filter (fun x => x.line ∉ linesOf a n)

/-- R398: a read of memory meets a word with a correctable error: it is corrected, and its home die counts it. DESIGN CHOICE (assumption 26). -/
def State.correct (s : State) (a n : Nat) : State :=
  let hit (w : Nat) : Bool := decide (8 * w < a + n ∧ a < 8 * w + 8)
  if s.weak.any hit then
    { s.mapDie (s.homeDie a) (fun d => { d with corrected := d.corrected + s.weak.countP hit }) with weak := s.weak.filter (!hit ·) }
  else s
/-- A read at the L2 of die `d` (R185, R196). -/
def State.l2Read (s : State) (d a n : Nat) (c : Cause) : State :=
  (linesOf a n).foldl (fun s l =>
    if s.isCounted l then (s.readLine (s.homeDie (l * 64)) l c).readCounted l c else s.readLine d l c) (s.correct a n)

/-- R221: a write to a line by another agent clears the reservations on it. DESIGN CHOICE (assumption 31). -/
def clearResv (glb : Bool) (a n : Nat) (writer : Option Nat) (t : Thread) : Thread :=
  match t.resv with
  | some r => if r.live ∧ r.glb = glb ∧ some t.uid ≠ writer ∧ r.line ∈ linesOf a n then { t with resv := none } else t
  | none => t

/-- R399: a write that replaces all of a word clears its error. -/
def mended (a : Nat) (bs : List (Option Byte)) (w : Nat) : Bool :=
  decide (a ≤ 8 * w ∧ 8 * w + 8 ≤ a + bs.length) && ((bs.drop (8 * w - a)).take 8).all (·.isSome)

/-- R204: the bytes that a write of `bs` at `a` replaces, read by `f`, may still be returned by a read in a race. DESIGN CHOICE (assumption 76). -/
def State.outdate (s : State) (sp : OpSpace) (a : Nat) (bs : List (Option Byte)) (f : Nat → Byte) : State :=
  { s with past := (List.range bs.length).foldl (fun l i =>
      if (bs.getD i none).isNone || bs.getD i none == some (f (a + i)) then l
      else let p : Past := { space := sp, a := a + i, b := f (a + i) }; if p ∈ l then l else p :: l) s.past }

/-- Bytes reach the L2 of die `d`: ownership, then the bytes (R185). -/
def State.l2Put (s : State) (d a : Nat) (bs : List (Option Byte)) (c : Cause) : State :=
  let s := ((linesOf a bs.length).foldl (fun s l => s.writeLine d l c) s).outdate .glb a bs (readByte s.mem)
  { s with mem := writeSome s.mem a bs, counted := s.uncount a bs.length, badWords := s.badWords.filter (fun w => !mended a bs w) }
/-- A write that performs at the L2 of die `d`. DESIGN CHOICE (assumption 31). -/
def State.l2Write (s : State) (d a : Nat) (bs : List (Option Byte)) (c : Cause) : State :=
  (s.l2Put d a bs c).mapThreads (clearResv true a bs.length c.uid)
/-- A write that a device engine makes for a thread: it is another agent than the thread (R221). DESIGN CHOICE (assumption 31). -/
def State.l2Engine (s : State) (d a : Nat) (bs : List (Option Byte)) (c : Cause) : State :=
  (s.l2Put d a bs c).mapThreads (clearResv true a bs.length none)

/-! ### The L1 (R184) -/

def L1Line.byte (l : L1Line) (k : Nat) : Byte := l.data.extractLsb' (8 * k) 8
/-- Put one byte into a line. -/
def L1Line.put (l : L1Line) (k : Nat) (b : Byte) (dirty : Bool) : L1Line :=
  { l with data := (l.data &&& ~~~ ((255#512) <<< (8 * k))) ||| ((b.setWidth 512) <<< (8 * k)),
           valid := l.valid ||| (1#64 <<< k),
           dirty := if dirty then l.dirty ||| (1#64 <<< k) else l.dirty &&& ~~~ (1#64 <<< k) }
def State.l1? (s : State) (core line : Nat) : Option L1Line := (s.core? core).bind (·.l1.find? (·.line = line))
def State.setL1 (s : State) (core : Nat) (l : L1Line) : State :=
  s.mapCore core (fun c => { c with l1 := l :: c.l1.filter (·.line ≠ l.line) })
/-- The word of an L1 is one that `p` picks. -/
def l1Word (core : Nat) (p : Nat → Bool) : Struck → Bool
  | .l1 c w => c == core && p w
  | _ => false
/-- A line leaves an L1, with the errors of its words (R398). -/
def State.dropL1 (s : State) (core line : Nat) : State :=
  { s.mapCore core (fun c => { c with l1 := c.l1.filter (·.line ≠ line) }) with struck := s.struck.filter (fun x => !l1Word core (fun w => w / 8 == line) x) }
/-- R399: a write of the range leaves no error in the words of an L1 that it replaces. -/
def State.l1Mend (s : State) (core a : Nat) (bs : List (Option Byte)) : State := { s with struck := s.struck.filter (fun x => !l1Word core (mended a bs) x) }
def L1Line.fresh (line : Nat) : L1Line := { line := line, data := 0, valid := 0, dirty := 0, parts := 0, rel := false }

/-- The bytes of a line that are dirty, as a store (R184). -/
def L1Line.dirtyBytes (l : L1Line) : List (Option Byte) :=
  (List.range 64).map (fun k => if l.dirty.getLsbD k then some (l.byte k) else none)

/-- The thread's writes of a line that stood in the core's L1 have performed in `interval` (R239). -/
def Thread.noteBack (line interval : Nat) (t : Thread) : Thread :=
  { t with wrote := t.wrote ++ ((t.wrote.filter (·.line = line)).map (fun w => { w with interval := interval })).filter (· ∉ t.wrote) }
/-- Write back a line's dirty bytes (R184), and the errors of words that hold some (R399). The stores that made them dirty have cleared the reservations already, and
perform in the line's interval now (R239). Bytes whose handover fails stay dirty (R238). DESIGN CHOICE (assumption 31). -/
def State.wbLine (s : State) (core line : Nat) (c : Cause) : State :=
  match s.l1? core line with
  | none => s
  | some l =>
    if l.dirty = 0 then s
    else
      let bad := s.struck.filterMap (fun x => match x with
        | .l1 k w => if k = core ∧ w / 8 = line ∧ (List.range 8).any (fun i => l.dirty.getLsbD (8 * (w % 8) + i)) then some w else none
        | _ => none)
      let s := s.l2Put (core / 64) (line * 64) l.dirtyBytes c
      let s := if s.suspect line then s else s.setL1 core { l with dirty := 0, rel := false }
      { s.mapThreads (fun t => if t.core = core then t.noteBack line (s.lineState line).interval else t) with badWords := bad ++ s.badWords }
/-- Write back every dirty line of a core's L1 (R185). -/
def State.wbAll (s : State) (core : Nat) (c : Cause) : State :=
  (((s.core? core).map (·.l1.map (·.line))).getD []).foldl (fun s l => s.wbLine core l c) s
/-- Write back a line and remove it from the L1 (R186, R197, R217). -/
def State.wbInv (s : State) (core line : Nat) (c : Cause) : State :=
  let s := s.wbLine core line c
  if s.suspect line then s else s.dropL1 core line

/-- R184: the line's bytes enter the L1 for partition `p`, which keeps its dirty bytes. -/
def State.refreshL1 (s : State) (core p line : Nat) : State :=
  let l := (s.l1? core line).getD (L1Line.fresh line)
  let bs := lineBytes s.mem line
  let l := (List.range 64).foldl (fun (l : L1Line) k => if l.dirty.getLsbD k then l else l.put k (bs.getD k 0) false) l
  s.setL1 core { l with parts := l.parts ||| (1#4 <<< p) }
/-- R184: fetch a line from the L2 for partition `p`. -/
def State.fillL1 (s : State) (core p line : Nat) (c : Cause) : State :=
  (s.l2Read (core / 64) (line * 64) 64 c).refreshL1 core p line

/-- R184: a byte of a line hits for partition `p`. -/
def L1Line.hits (l : L1Line) (p k : Nat) : Bool :=
  l.dirty.getLsbD k || (l.valid.getLsbD k && l.parts.getLsbD p)

/-- Bytes read through the L1 (R185, relaxed at `.CORE` or narrower): lines that miss are fetched. -/
def State.l1Read (s : State) (core p a n : Nat) (c : Cause) : List Byte × State :=
  let s := (linesOf a n).foldl (fun s line =>
    match s.l1? core line with
    | some l =>
      if (List.range n).all (fun i => decide ((a + i) / 64 ≠ line) || l.hits p ((a + i) % 64)) then s else s.fillL1 core p line c
    | none => if s.isCounted line then s.l2Read (core / 64) (line * 64) 64 c else s.fillL1 core p line c) s
  ((List.range n).map (fun i => match s.l1? core ((a + i) / 64) with
    | some l => l.byte ((a + i) % 64)
    | none => readByte s.mem (a + i)), s)

/-- A byte of memory as a core sees it at the L2: its own dirty byte, or what is there (R184, R186). -/
def State.coreByte (s : State) (core a : Nat) : Byte :=
  match s.l1? core (a / 64) with
  | some l => if l.dirty.getLsbD (a % 64) then l.byte (a % 64) else readByte s.mem a
  | none => readByte s.mem a
/-- Bytes read at the L2 with the core's own dirty bytes over them; the L1 copy is refreshed (R184, R185). -/
def State.l2ReadBytes (s : State) (core p a n : Nat) (c : Cause) : List Byte × State :=
  let s := s.l2Read (core / 64) a n c
  let s := (linesOf a n).foldl (fun s line => if (s.l1? core line).isSome then s.refreshL1 core p line else s) s
  ((List.range n).map (fun i => s.coreByte core (a + i)), s)

/-- A store into the L1: allocate without reading, mark the bytes dirty (R184). -/
def State.l1Write (s : State) (core a : Nat) (bs : List (Option Byte)) (rel : Bool) (writer : Option Nat) : State :=
  let s := (({ s.mapThreads (clearResv true a bs.length writer) with counted := s.uncount a bs.length } : State).l1Mend core a bs).outdate .glb a bs (s.coreByte core)
  (List.range bs.length).foldl (fun s i =>
    match bs.getD i none with
    | none => s
    | some b =>
      let l := (s.l1? core ((a + i) / 64)).getD (L1Line.fresh ((a + i) / 64))
      s.setL1 core { l.put ((a + i) % 64) b true with rel := l.rel || rel }) s

/-- A store at the L2, writing through the L1 (R185). -/
def State.throughWrite (s : State) (core a : Nat) (bs : List (Option Byte)) (c : Cause) : State :=
  let s := (s.l2Write (core / 64) a bs c).l1Mend core a bs
  (List.range bs.length).foldl (fun s i =>
    match bs.getD i none, s.l1? core ((a + i) / 64) with
    | some b, some l => s.setL1 core (l.put ((a + i) % 64) b false)
    | _, _ => s) s

/-- Clear the bit of partition `p` in every line of an L1. -/
def Core.dropPart (c : Core) (p : Nat) : Core := { c with l1 := c.l1.map (fun l => { l with parts := l.parts &&& ~~~ (1#4 <<< p) }) }
/-- R185: an acquire at `.QUAD` or wider clears the partition's bit in every line. The lines of the core's other partitions may then be older than what the
thread has acquired, so a thread of another partition that acquires at `.CORE` afterwards reads its lines anew (R208). DEDUCED (assumption 78). -/
def State.acquireL1 (s : State) (core p reach : Nat) : State :=
  s.mapCore core (fun c =>
    if 3 ≤ reach then { c.dropPart p with behind := ~~~ (1#4 <<< p) }
    else if reach = 2 ∧ c.behind.getLsbD p then { c.dropPart p with behind := c.behind &&& ~~~ (1#4 <<< p) }
    else c)

/-! ### Scratch (R173) -/

def State.pad? (s : State) (gang core : Nat) : Option Pad := s.pads.find? (fun p => p.gang = gang ∧ p.core = core)
def State.mapPad (s : State) (gang core : Nat) (f : Pad → Pad) : State :=
  { s with pads := s.pads.map (fun p => if p.gang = gang ∧ p.core = core then f p else p) }
def State.scrRead (s : State) (gang core a n : Nat) : List Byte :=
  match s.pad? gang core with
  | some p => readBytes p.bytes a n
  | none => List.replicate n unlisted
def State.scrWrite (s : State) (gang core a : Nat) (bs : List (Option Byte)) (writer : Option Nat) : State :=
  let old (x : Nat) : Byte := (s.scrRead gang core x 1).headD 0
  let s := (s.mapThreads (fun t => if t.gang = gang ∧ t.core = core then clearResv false a bs.length writer t else t)).mapPad gang core
    (fun p => { p with bytes := writeSome p.bytes a bs })
  let s := s.outdate (.scr gang core) a bs old
  { s with struck := s.struck.filter (fun x => !(match x with | .scratch g c w => g == gang && c == core && mended a bs w | _ => false)) }

/-! ### The private space (R174) -/

/-- Bytes of a thread's private space. -/
def State.prvRead (s : State) (uid a n : Nat) : List Byte :=
  match s.thread? uid with
  | some t => readBytes t.priv a n
  | none => List.replicate n unlisted
def State.prvWrite (s : State) (uid a : Nat) (bs : List (Option Byte)) : State := s.mapThread uid (fun t => { t with priv := writeSome t.priv a bs })

/-! ### The allowed-reordering table (R213, R222) -/

def MemOp.isRead (o : MemOp) : Bool :=
  match o.kind with | .load _ | .rmw _ => true | _ => false
def MemOp.isWrite (o : MemOp) : Bool :=
  match o.kind with | .store _ => true | .rmw (.link _) => false | .rmw _ => true | _ => false
def MemOp.isRmw (o : MemOp) : Bool :=
  match o.kind with | .rmw _ => true | _ => false
def MemOp.isFence (o : MemOp) : Bool := o.kind == .fence
def MemOp.acquires (o : MemOp) : Bool := (o.isRead || o.isFence) && (o.ord == .acq || o.ord == .ar)
def MemOp.releases (o : MemOp) : Bool := (o.isWrite || o.isFence) && (o.ord == .rel || o.ord == .ar)
/-- Two accesses share a byte. -/
def MemOp.overlaps (x y : MemOp) : Bool :=
  x.space == y.space && x.segs.any (fun a => y.segs.any (fun b => decide (a.1 < b.1 + b.2 ∧ b.1 < a.1 + a.2)))

/-- R213, R222: `e` must perform before `o`, which follows it in program order. A load of a location that an earlier store of the
thread still holds is served by forwarding (R183), so that pair is not ordered here. A fence at `.TH` has no effect. DEDUCED (assumption 9). -/
def MemOp.before (e o : MemOp) : Bool :=
  if (e.isFence && e.scope == .th) || (o.isFence && o.scope == .th) then false
  else if e.isFence then (if e.acquires then true else o.isWrite || o.isFence)
  else if o.isFence then (if o.releases then true else e.isRead)
  else e.acquires || o.releases || (e.isRead && o.isWrite)
    || (e.overlaps o && (e.isRmw || o.isRmw || (e.isRead && o.isRead) || (e.isWrite && o.isWrite)))

/-- The scope at which an access acts: scratch acts as `.CORE` at most (R173), the private space as `.TH` (R202). -/
def MemOp.reach (o : MemOp) : Nat :=
  match o.space with | .glb => o.scope.code | .scr _ _ => Nat.min 2 o.scope.code | .prv _ => 0
/-- A release that writes back its core's dirty lines (R185): at `.QUAD` or wider, and a store with EVICT 7, which performs as at `.QUAD` (R190). DEDUCED (assumption 79). -/
def MemOp.carries (o : MemOp) : Bool := o.releases && (decide (3 ≤ o.reach) || (o.space == .glb && o.evict == 7))
/-- The access performs at the L2 (R185, R190). -/
def MemOp.atL2 (o : MemOp) : Bool := decide (3 ≤ o.scope.code) || decide (o.evict = 7)

def MemOp.touches (o : MemOp) (h : Hold) : Bool :=
  o.space == h.op.space &&
  (o.segs.flatMap (fun x => linesOf x.1 x.2)).any (fun l => (h.op.segs.flatMap (fun x => linesOf x.1 x.2)).contains l)

/-- R230: a held line keeps out every other agent, and the releasing thread's own later writes. R238: a line whose last record fails keeps out all, until that is found. -/
def State.heldBack (s : State) (o : MemOp) : Bool :=
  s.holds.any (fun h => o.touches h && (h.op.uid != o.uid || o.isWrite)) ||
  (o.space == .glb && (o.segs.flatMap (fun x => linesOf x.1 x.2)).any s.suspect)

def MemOp.cause (s : State) (o : MemOp) : Cause :=
  { uid := some o.uid, pc := o.pc, region := BitVec.ofNat 32 (((s.thread? o.uid).map (s.regionNum ·)).getD 0),
    bundle := some { part := 4 * o.core + o.part, pc := o.pc, cycle := o.issued } }

/-- R245, R250: an armed `.EARLY` holds back the writes of the threads that it matches until the release that it waits for, as long as the thread can
still come to it: while it is ready and its gang may issue, and in its next 64 events (R212). DESIGN CHOICE (assumption 15). -/
def State.heldForEarly (s : State) (o : MemOp) : Bool :=
  o.isWrite && ((s.thread? o.uid).map (fun t => t.run == .ready && decide ((t.psn - o.psn).toNat ≤ 64) &&
    !(s.gang? t.gang).any (fun g => match g.res with | .preempting _ full => full | .saved => true | .running => false))).getD false &&
  (((s.core? o.core).bind (·.inject)).map (fun i => i.skip == 0 && i.fires (o.cause s).region)).getD false
/-- R220: an `ATOM.CAS` would fail on what stands at its atomic point now, and release nothing. -/
def State.casFails (s : State) (o : MemOp) : Bool :=
  match o.kind, o.segs with
  | .rmw (.cas _ cmp _), (a, n) :: _ => (match o.space with
    | .glb => bytesNat ((List.range n).map (fun i => s.coreByte o.core (a + i))) != cmp
    | .scr g c => bytesNat (s.scrRead g c a n) != cmp
    | .prv u => bytesNat (s.prvRead u a n) != cmp)
  | _, _ => false
/-- R245: an armed `.EARLY` of the core matches this release, which may be the release marker of a fence (R230). -/
def State.earlyFires (s : State) (o : MemOp) : Option Inject :=
  if (o.releases || o.isFence) && !s.casFails o then
    ((s.core? o.core).bind (·.inject)).filter (fun i => i.fires (o.cause s).region && decide (i.scope ≤ o.reach))
  else none
/-- R245: a release that an armed `.EARLY` presents at once, or has presented, keeps the thread's other events back until Batten's
check. DESIGN CHOICE (assumption 15). -/
def State.heldByInject (s : State) (o : MemOp) : Bool :=
  s.heldForEarly o ||
  s.holds.any (fun h => h.early && h.op.uid == o.uid) ||
  s.ops.any (fun r => r.uid == o.uid && decide (o.id < r.id) && ((s.earlyFires r).map (·.skip == 0)).getD false)

def State.opBefore (s : State) (o : MemOp) : List MemOp :=
  (s.ops.takeWhile (·.id ≠ o.id)).filter (·.uid = o.uid)

/-- R352: a fence that stands for the acquire of a remote atomic waits until the atomic has completed. DEDUCED (assumption 56). -/
def State.awaitsRemote (s : State) (o : MemOp) : Bool := o.isFence && o.acquires && s.remotes.any (fun r => o.tag == some r.id)
/-- R230: a release writes back its core's dirty lines (R185); one of them is held, and a write-back of it waits. -/
def State.wbHeld (s : State) (core : Nat) : Bool :=
  ((s.core? core).map (fun c => c.l1.any (fun l => l.dirty != 0 && s.lineHeld l.line))).getD false
def State.releaseHeld (s : State) (o : MemOp) : Bool := o.carries && s.wbHeld o.core
/-- Nothing keeps the access itself back: no held line that it touches (R230), and no held line that it would write back. -/
def State.unheld (s : State) (o : MemOp) : Bool := !s.heldBack o && !s.releaseHeld o
/-- R217: an atomic of the same bundle in scratch, from a lower home lane, has not applied. -/
def State.laneBefore (s : State) (o : MemOp) : Bool :=
  o.isRmw && o.space != .glb && s.ops.any (fun e => e.isRmw && e.space == o.space && e.core == o.core && e.part == o.part && e.pc == o.pc && e.issued == o.issued &&
    (match s.thread? e.uid, s.thread? o.uid with | some t, some u => decide (t.lane < u.lane) | _, _ => false))
/-- The access may perform now. DESIGN CHOICE (assumption 8). DEDUCED (assumption 9). -/
def State.mayPerform (s : State) (o : MemOp) : Bool :=
  !s.awaitsRemote o && (s.opBefore o).all (fun e => !e.before o) && s.unheld o && !s.laneBefore o && !s.heldByInject o

/-! ### Performing -/

/-- R183: the thread's own earlier stores that have not performed, over the bytes read. DESIGN CHOICE (assumption 8). -/
def State.forward (s : State) (o : MemOp) (a : Nat) (bs : List Byte) : List Byte :=
  (s.opBefore o).foldl (fun bs e =>
    if (e.isWrite && !e.isRmw) && e.space == o.space then
      match e.segs with
      | (b, _) :: _ => (List.range bs.length).map (fun i =>
          if b ≤ a + i then ((e.data[a + i - b]?).join).getD (bs.getD i 0) else bs.getD i 0)
      | [] => bs
    else bs) bs

/-- One byte range read where the access acts. -/
def State.readSeg (s : State) (o : MemOp) (a n : Nat) : List Byte × State :=
  match o.space with
  | .scr g c => (s.forward o a (s.scrRead g c a n), s)
  | .prv u => (s.forward o a (s.prvRead u a n), s)
  | .glb =>
    let (bs, s') := if o.atL2 then s.l2ReadBytes o.core o.part a n (o.cause s) else s.l1Read o.core o.part a n (o.cause s)
    (s.forward o a bs, s')

/-- A register's worth of loaded bytes: up to 4 bytes are extended, longer values fill registers lowest bytes first (R193). -/
def loadWords (sx : Bool) (bs : List Byte) : List Word :=
  if bs.length ≤ 4 then
    let v := bytesNat bs
    let w := 8 * bs.length
    [if sx && v.testBit (w - 1) then BitVec.ofNat 32 (v + 2 ^ 32 - 2 ^ w) else BitVec.ofNat 32 v]
  else bytesWords bs

/-- The access leaves the queue. -/
def State.dropOp (s : State) (o : MemOp) : State := { s with ops := s.ops.filter (·.id ≠ o.id) }

def State.fillProd (s : State) (o : MemOp) (ws : List Word) : State :=
  match o.tag with
  | none => s
  | some tag => s.mapThread o.uid (·.fill tag ws)

/-- R185: the acquire's cache action. DEDUCED (assumption 74). -/
def State.acquireOf (s : State) (o : MemOp) : State := if o.acquires then s.acquireL1 o.core o.part o.reach else s

/-- R185: the release's write-backs, before it performs. DEDUCED (assumption 74). -/
def State.releaseOf (s : State) (o : MemOp) : State :=
  if o.carries then s.wbAll o.core (o.cause s) else s

/-- What a withdrawal has to put back of one byte (R232): what stands at the level where the write performs, and the byte that the core's L1 holds dirty. -/
def State.oldByte (s : State) (o : MemOp) (a : Nat) : OldByte :=
  match o.space with
  | .scr g c => { a := a, was := (s.scrRead g c a 1).headD 0, dirty := none }
  | .prv u => { a := a, was := (s.prvRead u a 1).headD 0, dirty := none }
  | .glb => { a := a, was := readByte s.mem a, dirty := (s.l1? o.core (a / 64)).bind (fun l => if l.dirty.getLsbD (a % 64) then some (l.byte (a % 64)) else none) }
def State.oldBytes (s : State) (o : MemOp) : List OldByte :=
  o.segs.flatMap (fun x => (List.range x.2).map (fun i => s.oldByte o (x.1 + i)))

/-- R333: the parcel holds the address. -/
def Parcel.holds (p : Parcel) (a : Nat) : Bool := p.st != .free && decide (p.base ≤ a ∧ a < p.base + 2 ^ p.lsz)
/-- The words of a parcel that a range of `n` bytes at `a` touches. -/
def Parcel.words (p : Parcel) (a n : Nat) : List Nat := (List.range ((a + n - 1) / 8 + 1 - a / 8)).map (fun i => (a - p.base) / 8 + i)
/-- The map words that an access touches and that are marked, by parcel. -/
def State.oldMarks (s : State) (o : MemOp) : List (Nat × List Nat) :=
  match o.space with
  | .glb => (s.parcels.filter (fun p => o.segs.any (fun x => p.holds x.1))).map
      (fun p => (p.num, p.map.filter (fun w => o.segs.any (fun x => w ∈ p.words x.1 x.2))))
  | _ => []
/-- What a release replaces: bytes and map words. -/
structure Was where
  bytes : List OldByte
  marks : List (Nat × List Nat)
def State.was (s : State) (o : MemOp) : Was := { bytes := s.oldBytes o, marks := s.oldMarks o }

/-- R230: a release that has performed, and the marker of a fence (R222), is held until it is confirmed; at `.TH` the confirmation is immediate (R235). DEDUCED (assumption 74). -/
def State.holdOf (s : State) (o : MemOp) (was : Was) (early : Bool) : State :=
  if (o.releases || o.isFence) && (decide (1 ≤ o.reach) || early) then
    let h : Hold := { op := o, old := was.bytes, marks := was.marks, early := early, since := s.time, interval := match o.space, o.segs with
      | .glb, (a, _) :: _ => (s.lineState (a / 64)).interval
      | .prv _, _ :: _ => (s.lineState (o.back / 64)).interval
      | _, _ => 0 }
    ({ s with holds := s.holds ++ [h] }).countBatten o.core 1
  else s

/-- R394: the auditor captures what an auditable gang stores; the bytes of a record that it emits count as the record, not as stores. DEDUCED (assumption 27). -/
def State.capture (s : State) (uid : Nat) (a : Nat) (bs : List (Option Byte)) (record : Bool := false) : State :=
  match s.thread? uid with
  | none => s
  | some t =>
    let put (m : List (Nat × Byte)) (i : Nat) := match bs.getD i none with
      | some b => (a + i, b) :: m.filter (·.1 ≠ a + i)
      | none => m
    { s with audits := s.audits.map (fun x => if x.gang = t.gang ∧ !x.selected then
        { x with stores := if record then x.stores else (List.range bs.length).foldl put x.stores,
                 lines := x.lines ++ (linesOf a bs.length).map (fun l => (l, (s.lineState l).interval)) } else x) }

/-- R333, R340: the map bits of the parcel words that a write of `n` bytes at physical address `a` touches are cleared, or set by `ST.PREF`. -/
def State.markMap (s : State) (a n : Nat) (ref : Bool) : State :=
  if s.parcels.any (·.holds a) then
    { s with parcels := s.parcels.map (fun p => if p.holds a then
        let rest := p.map.filter (fun w => w ∉ p.words a n)
        { p with map := if ref then p.words a n ++ rest else rest } else p) }
  else s

/-- The part of `bs` that each range takes, in order. -/
def splitSegs : List (Nat × Nat) → List (Option Byte) → List (Nat × List (Option Byte))
  | [], _ => []
  | (a, n) :: segs, bs => (a, bs.take n) :: splitSegs segs (bs.drop n)

/-- The thread has written a line in the interval that it is in, by the access or command `id` (R239). -/
def Thread.noteLine (id line interval : Nat) (t : Thread) : Thread :=
  if t.wrote.any (fun w => w.line == line && w.interval == interval && w.scope == 0) then t
  else { t with wrote := { line := line, interval := interval, scope := 0, id := id } :: t.wrote }
def State.noteLines (s : State) (uid id : Nat) (lines : List Nat) : State :=
  s.mapThread uid (fun t => lines.foldl (fun t l => t.noteLine id l (s.lineState l).interval) t)
/-- What else a write does: the thread has written these lines (R239), parcel maps follow (R333), and the auditor captures it (R394). -/
def State.noteWrote (s : State) (o : MemOp) (bs : List (Option Byte)) : State :=
  match o.space with
  | .glb =>
    let s := s.noteLines o.uid o.id (o.segs.flatMap (fun x => linesOf x.1 x.2))
    (splitSegs o.segs bs).foldl (fun s x =>
      if x.2.all (·.isNone) then s else (s.markMap x.1 x.2.length (o.kind == .store true)).capture o.uid x.1 x.2 (o.tag.isSome && !o.isRmw)) s
  | _ => s

/-- A store's bytes reach the level its scope names (R185, R190). -/
def State.writeSeg (s : State) (o : MemOp) (a : Nat) (bs : List (Option Byte)) : State :=
  match o.space with
  | .scr g c => s.scrWrite g c a bs (some o.uid)
  | .prv u => s.prvWrite u a bs
  | .glb => if o.atL2 then s.throughWrite o.core a bs (o.cause s) else s.l1Write o.core a bs o.releases (some o.uid)

/-! ### The atomic point (R217) -/

/-- R217: take a location to its atomic point: the issuing core's L1 gives the line up, and the atomic unit takes it. Host memory is
held by the issuing die's L2. -/
def State.toAtomicPoint (s : State) (core a n : Nat) (c : Cause) : State :=
  (linesOf a n).foldl (fun s line =>
    let s := s.wbInv core line c
    match s.physKind (line * 64) with
    | .host => s.writeLine (core / 64) line c
    | _ => s.atomicLine line c) s

/-- A write at the atomic point. -/
def State.atomicWrite (s : State) (a : Nat) (bs : List Byte) (writer : Option Nat) : State :=
  { (s.mapThreads (clearResv true a bs.length writer)) with
    mem := writeBytes s.mem a bs, counted := s.uncount a bs.length, past := (s.outdate .glb a (bs.map some) (readByte s.mem)).past,
    badWords := s.badWords.filter (fun w => !mended a (bs.map some) w) }

end Sys2Proof.Machine
end

