-- ==== Sys2Proof/Machine/Walk.lean ====
section
/-! DEFINITION. Translation (R176 to R180): layouts, walks, rights, and what a walk does to the entries it reads (R389). -/
namespace Sys2Proof.Machine

/-! ### Translation (R176 to R180) -/

def ptPB (d : Dword) : Nat := bitsOf d.toNat 5 0
def ptWB (d : Dword) : Nat := bitsOf d.toNat 11 6
def ptUB (d : Dword) : Nat := bitsOf d.toNat 17 12
def ptAB (d : Dword) : Nat := bitsOf d.toNat 23 18
def ptDB (d : Dword) : Nat := bitsOf d.toNat 29 24
def ptNXB (d : Dword) : Nat := bitsOf d.toNat 35 30
def ptPSB (d : Dword) : Nat := bitsOf d.toNat 41 36
def ptCB (d : Dword) : Nat := bitsOf d.toNat 47 42
def ptPALO (d : Dword) : Nat := bitsOf d.toNat 53 48
def ptPAHI (d : Dword) : Nat := bitsOf d.toNat 59 54
def ptLEVELS (d : Dword) : Nat := bitsOf d.toNat 62 60
def ptXPOL (d : Dword) : Bool := bitOf d.toNat 63

/-- R176: the layout descriptor is valid. -/
def ptValid (d : Dword) : Bool :=
  let bits := [ptPB d, ptWB d, ptUB d, ptAB d, ptDB d, ptNXB d, ptPSB d]
  decide (1 ≤ ptLEVELS d ∧ ptLEVELS d ≤ 5) && decide (ptPALO d ≤ ptPAHI d) && decide (ptPAHI d ≤ ptPALO d + 39) &&
  decide bits.Nodup &&
  bits.all (fun b => decide (b < ptPALO d ∨ ptPAHI d < b)) &&
  (ptCB d == ptPB d || decide (ptCB d < ptPALO d ∨ ptPAHI d < ptCB d))

/-- A leaf found by a walk: where its entry is, the entry, the log of the page size, and the frame. -/
structure Leaf where
  addr : Nat
  entry : Nat
  log : Nat
  frame : Nat
  deriving DecidableEq, Repr

/-- How a walk ends. `mchk` is the machine check of an entry that cannot be read (R175, R399), with its DETAIL0. -/
inductive WalkEnd where
  | leaf (l : Leaf)
  | held
  | absent
  | malformed
  | noncanonical
  | mchk (detail : Nat)
  deriving DecidableEq, Repr

def pteFrame (d : Dword) (e : Nat) : Nat := bitsOf e (ptPAHI d) (ptPALO d) * 2 ^ 12

/-- R177: the 16 entries of a 64 KiB page agree in every bit but AB and DB. DESIGN CHOICE (assumption 12). -/
def contigAgree (m : List Host.Cell) (d : Dword) (addr e : Nat) : Bool :=
  let mask := 2 ^ ptAB d ||| 2 ^ ptDB d
  (List.range 16).all (fun i => readNat m (addr / 128 * 128 + 8 * i) 8 ||| mask == e ||| mask)

/-- The entries of the 64 KiB page that the level-0 entry at `addr` belongs to. -/
def pageEntries (addr : Nat) : List Nat := (List.range 16).map (fun i => addr / 128 * 128 + 8 * i)

/-- R177: the leaf of the level-0 entry `e` at `addr`: it stands for 64 KiB where CB says so, and is used for all of them only where the 16 entries can be read
and agree. -/
def leafZero (m : List Host.Cell) (look : Nat → Option WalkEnd) (d va : Dword) (addr e : Nat) : WalkEnd :=
  let frame := pteFrame d e
  if ptCB d ≠ ptPB d ∧ bitOf e (ptCB d) then
    if frame % 2 ^ 16 ≠ 0 then .malformed
    else if (pageEntries addr).all (fun x => (look x).isNone) && contigAgree m d addr e then .leaf ⟨addr, e, 16, frame⟩
    else .leaf ⟨addr, e, 12, frame + va.toNat % 2 ^ 16 / 2 ^ 12 * 2 ^ 12⟩
  else .leaf ⟨addr, e, 12, frame⟩

/-- R177: the levels of a walk, from level `lv` down, in table `t`, with the entries it has read. It ends where `look` says that an entry cannot be read
now (R389), or at all. -/
def walkLevels (m : List Host.Cell) (look : Nat → Option WalkEnd) (d va : Dword) : Nat → Nat → List Nat → WalkEnd × List Nat
  | lv, t, seen =>
    let addr := t + 8 * bitsOf va.toNat (20 + 9 * lv) (12 + 9 * lv)
    let e := readNat m addr 8
    match look addr with
    | some x => (x, seen)
    | none =>
      let seen := seen ++ [addr]
      if !bitOf e (ptPB d) then (.absent, seen)
      else
        let frame := pteFrame d e
        match lv with
        | 0 => (leafZero m look d va addr e, seen)
        | k + 1 =>
          if bitOf e (ptPSB d) then
            if k + 1 ≤ 2 then
              if frame % 2 ^ (12 + 9 * (k + 1)) ≠ 0 then (.malformed, seen) else (.leaf ⟨addr, e, 12 + 9 * (k + 1), frame⟩, seen)
            else (.absent, seen)
          else walkLevels m look d va k frame seen

/-- R177: how a walk ends, and the addresses of the entries that it has read. -/
def walk (m : List Host.Cell) (look : Nat → Option WalkEnd) (root : Nat) (d va : Dword) : WalkEnd × List Nat :=
  let top := 12 + 9 * ptLEVELS d
  let high := va.toNat / 2 ^ (top - 1)
  if high ≠ 0 ∧ high ≠ 2 ^ (65 - top) - 1 then (.noncanonical, [])
  else if ptLEVELS d = 0 then (.absent, [])
  else walkLevels m look d va (ptLEVELS d - 1) root []

/-- R389, R399, R400: what keeps a walk from reading an entry: its line is held, it is not there, or its word has an error. DESIGN CHOICE (assumption 26). -/
def State.tableEntry (s : State) (addr : Nat) : Option WalkEnd :=
  if s.physKind addr = .bad then some (.mchk 3)
  else if s.lineHeld (addr / 64) then some .held
  else if s.inError addr 8 then some (.mchk 2)
  else none
/-- R389: a walk reads an entry: device memory at the home's L2, host memory through the L2 of the die that walks. -/
def State.walkRead (s : State) (die addr : Nat) (c : Cause) : State :=
  s.l2Read (match s.physKind addr with | .host => die | _ => s.homeDie addr) addr 8 c
/-- R178: the walker sets bits of an entry, if they are clear: an atomic OR at the entry's atomic point. DESIGN CHOICE (assumption 11). -/
def State.setEntry (s : State) (die addr old new : Nat) (c : Cause) : State :=
  if old = new then s
  else
    let s := match s.physKind addr with
      | .host => s.writeLine die (addr / 64) c
      | _ => s.atomicLine (addr / 64) c
    s.atomicWrite addr (natBytes 8 new) none

/-- The kinds of access that translate. -/
inductive Acc where
  | read | write | exec
  deriving DecidableEq, Repr

/-- How a translation ends: an address, a table line that is held (R389), a page request, a fault with bits [5:3] of DETAIL0, or the machine check of
a table that cannot be read. -/
inductive Tr where
  | ok (pa : Nat)
  | held
  | park
  | fault (bits : Nat)
  | mchk (detail : Nat)
  deriving DecidableEq, Repr

/-- R178: a leaf permits execution. -/
def pteExec (d : Dword) (e : Nat) : Bool := bitOf e (ptNXB d) == ptXPOL d

/-- R178, R180: the rights check: a user or execute failure is never sent to the host and comes first. -/
def rights (user w u x : Bool) (acc : Acc) : Option Tr :=
  if (user && !u) || (acc == .exec && !x) then some (.fault 0)
  else if acc == .write && !w then some .park
  else none

def Tlb.hits (asid : Word) (va : Dword) (e : Tlb) : Bool := e.asid == asid && e.va == va.toNat / 2 ^ e.log
def Tlb.pa1 (e : Tlb) (va : Dword) : Nat := e.pa + va.toNat % 2 ^ e.log

/-- The root table of an address space: the region's PTROOT (R301). -/
def State.ptroot (s : State) (t : Thread) : Nat := ((s.regionOf t).map (·.ptroot)).getD 0

/-- Install a translation in the TLBs of a core and its die (R179). DESIGN CHOICE (assumption 10). -/
def State.cacheTlb (s : State) (core : Nat) (e : Tlb) : State :=
  let put (l : List Tlb) := e :: l.filter (fun x => !(x.asid == e.asid && x.va == e.va && x.log == e.log))
  (s.mapCore core (fun c => { c with tlb := put c.tlb })).mapDie (core / 64) (fun d => { d with tlb := put d.tlb })

/-- A cached translation usable for the access: a store needs an entry that records the dirty bit (R178). -/
def State.cached (s : State) (core : Nat) (asid : Word) (va : Dword) (acc : Acc) : Option Tlb :=
  let ok (e : Tlb) := e.hits asid va && (acc != .write || e.db)
  ((s.core? core).bind (·.tlb.find? ok)).or ((s.die? (core / 64)).bind (·.tlb.find? ok))

/-- R177 to R180: translate for an address space `(asid, ptel, root)` on a die with a cached entry, if any. A walk reads its entries, sets the accessed and dirty
bits, and `put` stores the translation. DESIGN CHOICE (assumption 11). -/
def State.translateWith (s : State) (die : Nat) (c : Cause) (cached : Option Tlb) (put : Tlb → State → State) (asid : Word) (ptel : Dword) (root : Nat)
    (user : Bool) (va : Dword) (acc : Acc) : Tr × State :=
  match cached with
  | some e =>
    match rights user e.w e.u e.x acc with
    | some r => (r, s)
    | none => (.ok (e.pa1 va), s)
  | none =>
    let (x, seen) := walk s.mem s.tableEntry root ptel va
    let seen := match x with | .leaf l => if l.log = 16 then seen ++ pageEntries l.addr else seen | _ => seen
    let s := seen.foldl (fun s a => s.walkRead die a c) s
    match x with
    | .held => (.held, s)
    | .absent => (.park, s)
    | .malformed => (.fault 4, s)
    | .noncanonical => (.fault 1, s)
    | .mchk d => (.mchk d, s)
    | .leaf l =>
      let w := bitOf l.entry (ptWB ptel)
      let u := bitOf l.entry (ptUB ptel)
      let x := pteExec ptel l.entry
      match rights user w u x acc with
      | some r => (r, s)
      | none =>
        let e' := l.entry ||| 2 ^ ptAB ptel ||| (if acc == .write then 2 ^ ptDB ptel else 0)
        let t : Tlb := { asid := asid, va := va.toNat / 2 ^ l.log, log := l.log, pa := l.frame, w := w, u := u, x := x,
                         db := bitOf e' (ptDB ptel) }
        (.ok (l.frame + va.toNat % 2 ^ l.log), put t (s.setEntry die l.addr l.entry e' c))

/-- R398: the cached entry, of the TLB `l` of a core or else of its die, is one that holds an uncorrectable error. DESIGN CHOICE (assumption 26). -/
def State.tlbStruck (s : State) (core : Nat) (l : Core → List Tlb) (e : Tlb) : Bool :=
  let own : Bool := ((s.core? core).map (fun c => (l c).contains e)).getD false
  s.struck.any (fun x => match x with
    | .tlb c asid page => c == core && asid == e.asid && page == e.va && own
    | .dieTlb d asid page => d == core / 64 && asid == e.asid && page == e.va && !own
    | _ => false)
/-- Translation through the TLBs of a core and its die. -/
def State.translateIn (s : State) (core : Nat) (c : Cause) (asid : Word) (ptel : Dword) (root : Nat) (user : Bool) (va : Dword) (acc : Acc) : Tr × State :=
  if (s.cached core asid va acc).any (s.tlbStruck core (·.tlb)) then (.mchk 2, s)
  else s.translateWith (core / 64) c (s.cached core asid va acc) (fun e s => s.cacheTlb core e) asid ptel root user va acc

/-- The cause of an access of the issuing thread. -/
def State.myCause (s : State) : Cause := { uid := some s.me.uid, pc := s.me.pc, region := BitVec.ofNat 32 (s.regionNum s.me) }
/-- Translation for the issuing thread. -/
def State.translate (s : State) (va : Dword) (acc : Acc) : Tr × State :=
  s.translateIn s.me.core s.myCause s.me.asid s.me.ptel (s.ptroot s.me) (!s.isSys s.me) va acc
/-- R83, R174: the address of the memory that backs offset `a` of a thread's private space. DESIGN CHOICE (assumption 8). -/
def Thread.privVa (t : Thread) (a : Nat) : Dword := BitVec.ofNat 64 (t.privBase + a)

end Sys2Proof.Machine
end

