-- ==== Sys2Proof/Machine/Work.lean ====
section
/-! DEFINITION. Regions' allotments and pools (R302, R308, R310), the fate of records that never run (R320), job-card completion (R318), what
the device writes back (R301, R309), and events to the host (R404, R405). -/
namespace Sys2Proof.Machine

/-! ### Allotments (R302) -/

/-- R302: the region whose allotment of budget group `bit` region `r` draws on: the first one up the tree with its own. -/
def State.allotFrom (s : State) (bit : Nat) : Nat → Nat → Nat
  | 0, r => r
  | k + 1, r =>
    match s.region? r with
    | some x => if x.parent = 0 ∨ x.ovr.getLsbD bit then r else s.allotFrom bit k x.parent
    | none => r
def State.allot (s : State) (bit r : Nat) : Nat := s.allotFrom bit s.regions.length r
/-- The regions that reserve their own allotment out of `r`'s. -/
def State.reserving (s : State) (bit r : Nat) : List Region :=
  s.regions.filter (fun x => x.parent ≠ 0 && x.ovr.getLsbD bit && s.allot bit x.parent == r)
/-- The regions that draw on the allotment of `r`. -/
def State.drawing (s : State) (bit r : Nat) : List Region := s.regions.filter (fun x => s.allot bit x.num == r)

/-- R302: region `x` draws on `r`: `r` lies on the way from `x` up to the first region with its own allotment. -/
def State.drawsFrom (s : State) (bit r : Nat) : Nat → Nat → Bool
  | 0, x => x == r
  | k + 1, x => x == r || (match s.region? x with
    | some y => !(decide (y.parent = 0) || y.ovr.getLsbD bit) && s.drawsFrom bit r k y.parent
    | none => false)
def State.drawsOn (s : State) (bit r x : Nat) : Bool := s.drawsFrom bit r s.regions.length x
/-- Bytes of the pool that `r`, and the regions that draw on its allotment through it, have in use (R301, R302, R308, R331). DESIGN CHOICE (assumption 35). -/
def State.poolUse (s : State) (r : Nat) : Nat :=
  ((s.blocks.filter (fun b => s.drawsOn 2 r b.region)).map (·.size)).sum
  + ((s.parcels.filter (fun p => p.st ≠ .free ∧ s.allot 2 r = p.charge ∧ (p.charge = r ∨ s.drawsOn 2 r p.region))).map (fun p => 2 ^ p.lsz)).sum
  + ((s.regions.filter (fun x => x.parent ≠ 0 && x.ovr.getLsbD 2 && s.drawsOn 2 r x.parent)).map (·.poolb)).sum
/-- DESIGN CHOICE (assumption 35). -/
def State.poolFree (s : State) (r : Nat) : Nat := ((s.region? r).map (·.poolb)).getD 0 - s.poolUse r

/-- The ranges of `r`'s pool that are taken: blocks, node rings, and the pools reserved out of it. -/
def State.poolTaken (s : State) (r : Nat) : List (Nat × Nat) :=
  (s.blocks.filter (fun b => s.allot 2 b.region = r)).map (fun b => (b.base, b.size))
  ++ (s.drawing 2 r).flatMap (fun x => x.nodes.map (fun n => (n.qbase.toNat, 16 * 2 ^ n.qlog2)))
  ++ (s.reserving 2 r).map (fun x => (x.pool, x.poolb))
/-- The lowest free place of `n` bytes, aligned to 64, in the pool allotment that region `r` draws on. DESIGN CHOICE (assumption 35). -/
def State.poolPlace (s : State) (r n : Nat) : Option Nat :=
  let o := s.allot 2 r
  match s.region? o with
  | none => none
  | some x =>
    let taken := s.poolTaken o
    if s.poolFree o < n then none
    else
      let fits (a : Nat) : Bool := decide (x.pool ≤ a ∧ a + n ≤ x.pool + x.poolb) && taken.all (fun b => decide (a + n ≤ b.1 ∨ b.1 + b.2 ≤ a))
      ((x.pool :: taken.map (fun b => roundUp (b.1 + b.2) 64)).filter fits).min?
/-- Take `n` bytes for the work numbered `id`. DESIGN CHOICE (assumption 35). -/
def State.poolTake (s : State) (r id n : Nat) : Option (Nat × State) :=
  (s.poolPlace r n).map (fun a => (a, { s with blocks := s.blocks ++ [{ id := id, region := r, base := a, size := n }] }))
def State.poolGive (s : State) (id : Nat) : State := { s with blocks := s.blocks.filter (·.id ≠ id) }

/-! ### Page requests (R180) -/

/-- A request for the page of `va`; one for the same page of the same die is shared. DEDUCED (assumption 66). -/
def State.request (s : State) (die : Nat) (asid : Word) (va : Dword) (write : Bool) (exec : Bool := false) : Nat × State :=
  match s.pageReqs.find? (fun r => r.die = die ∧ r.asid = asid ∧ r.va.toNat / 4096 = va.toNat / 4096 ∧ r.write = write ∧ r.exec = exec) with
  | some r => (r.id, s)
  | none =>
    let r : PageReq := { id := s.fresh, die := die, asid := asid, va := va, write := write, exec := exec }
    (r.id, { s.bump with pageReqs := s.pageReqs ++ [r] })
/-- R180: the request is outstanding at the host: one of the first 1,024 of its die. The others wait their turn. -/
def State.outstanding (s : State) (r : PageReq) : Bool :=
  decide ((((s.pageReqs.filter (·.die = r.die)).map (·.id)).idxOf r.id) < 1024)

/-! ### Reaching memory for the device -/

/-- Translate in a region's address space for the device itself. -/
def State.regionTranslate (s : State) (core : Nat) (r : Region) (va : Dword) (acc : Acc) : Tr × State :=
  s.translateIn core { region := BitVec.ofNat 32 r.num } r.asid r.ptel r.ptroot (!r.sys) va acc

/-- How a write of the device ends: it is done, or waits. -/
inductive DevEnd where
  | done (s : State)
  | wait (w : DevWrite) (s : State)

def DevKind.size : DevKind → Nat
  | .bytes bs => bs.length
  | .add _ => 8
  | .word bs => bs.length
  | .mark _ => 1
/-- The region that a device write is for. -/
def DevWrite.cause (w : DevWrite) : Cause := { uid := w.uid, pc := w.pc, region := BitVec.ofNat 32 (w.space.getD 0) }
/-- The write performs at a physical address. A held line is waited for (R230), and so is a held line that the release would write back (R185); what is not
populated takes nothing, and a word in error is not added to. DESIGN CHOICE (assumption 26). DESIGN CHOICE (assumption 32). -/
def State.deviceAt (s : State) (w : DevWrite) (pa : Nat) : Option State :=
  if s.physKind pa = .bad then some s
  else if (linesOf pa w.kind.size).any s.lineHeld then none
  else match w.kind with
    | .bytes bs => some (s.l2Write (w.core / 64) pa (bs.map some) w.cause)
    | .word bs => some ((s.toAtomicPoint w.core pa bs.length w.cause).atomicWrite pa bs none)
    | .mark bits => some (s.l2Write (w.core / 64) pa [some (BitVec.ofNat 8 ((readByte s.mem pa).toNat ||| bits))] w.cause)
    | .add scope =>
      if 3 ≤ scope ∧ s.cores.any (fun c => s.wbHeld c.id) then none
      else
        let s := if 3 ≤ scope then s.cores.foldl (fun s c => s.wbAll c.id w.cause) s else s
        let s := s.toAtomicPoint w.core pa 8 w.cause
        some (if s.inError pa 8 then s else s.atomicWrite pa (natBytes 8 (readNat s.mem pa 8 + 1)) none)
/-- Try a write of the device: a page that the host can supply is asked for (R180). DESIGN CHOICE (assumption 32). -/
def State.deviceDo (s : State) (w : DevWrite) : DevEnd :=
  let at_ (s : State) (pa : Nat) : DevEnd := match s.deviceAt w pa with
    | some s => .done s
    | none => .wait w s
  match w.space with
  | none => at_ s w.va.toNat
  | some n => match s.region? n with
    | none => .done s
    | some r => match s.regionTranslate w.core r w.va .write with
      | (.ok pa, s) => at_ s pa
      | (.held, s) => .wait w s
      | (.park, s) => let (id, s) := s.request (w.core / 64) r.asid w.va true; .wait { w with parked := some id } s
      | (_, s) => .done s
/-- A write of the device performs now, or joins those that wait; writes to one space perform in order. DESIGN CHOICE (assumption 32). -/
def State.deviceSend (s : State) (w : DevWrite) : State :=
  if s.devWrites.any (·.space == w.space) then { s with devWrites := s.devWrites ++ [w] }
  else match s.deviceDo w with
    | .done s => s
    | .wait w s => { s with devWrites := s.devWrites ++ [w] }
/-- The `k`-th waiting write of the device looks again. DESIGN CHOICE (assumption 32). -/
def State.deviceNext (s : State) (k : Nat) : State :=
  match s.devWrites[k]? with
  | none => s
  | some w =>
    if (s.devWrites.take k).any (·.space == w.space) ∨ w.parked.any (fun r => s.pageReqs.any (·.id = r)) then s
    else match s.deviceDo { w with parked := none } with
      | .done s => { s with devWrites := s.devWrites.eraseIdx k }
      | .wait w s => { s with devWrites := s.devWrites.set k w }
/-- Write at most a page's worth of bytes in a region's space, which may lie on two pages. DESIGN CHOICE (assumption 32). -/
def State.deviceWrite (s : State) (core : Nat) (r : Region) (va : Dword) (bs : List Byte) : State :=
  let n := 4096 - va.toNat % 4096
  let s := s.deviceSend { space := some r.num, core := core, va := va, kind := .bytes (bs.take n), parked := none }
  if n < bs.length then s.deviceSend { space := some r.num, core := core, va := va + BitVec.ofNat 64 n, kind := .bytes (bs.drop n), parked := none } else s

def RState.code : RState → Nat
  | .active => 0 | .quiescing => 1 | .cancelling => 2 | .halted => 3 | .dead => 4

/-- R309: the device's fields of a region's nodes go back to the node table, which lies in the address space of `p`. DEDUCED (assumption 33). -/
def State.writeNodes (s : State) (core : Nat) (p r : Region) : State :=
  (List.range r.nodes.length).foldl (fun s i => match r.nodes[i]? with
    | some n => s.deviceWrite core p (r.nodetab + BitVec.ofNat 64 (64 * i + 32)) (natBytes 8 n.nrec ++ natBytes 8 n.ngang ++ natBytes 8 n.ntimer)
    | none => s) s
/-- R301, R309: the device's fields of a region and its nodes go back to the image and the node table, which lie in the parent's address
space; a root has its node table in its own, and no image. DESIGN CHOICE (assumption 32). DEDUCED (assumption 33). -/
def State.writeBack (s : State) (core num : Nat) : State :=
  match s.region? num with
  | none => s
  | some r =>
    match s.region? r.parent with
    | none => s.writeNodes core r r
    | some p =>
      let tdw := (List.range 4).flatMap (fun d => natBytes 4 (((r.tdwoff[d]?).join).getD 0xFFFFFFFF))
      let s := s.deviceWrite core p (r.image + 8) (natBytes 1 r.state.code)
      let s := s.deviceWrite core p (r.image + 12) (natBytes 4 num)
      let s := s.deviceWrite core p (r.image + 0x84) (natBytes 4 (r.logdrop % 2 ^ 32))
      let s := s.deviceWrite core p (r.image + 0x90)
        (natBytes 8 r.accepted ++ natBytes 8 r.consumed ++ natBytes 8 r.dropped ++ natBytes 8 (s.poolUse num) ++ tdw)
      s.writeNodes core p r

/-! ### Region states (R303) -/

/-- The completion of a job card (R318). -/
def DevWrite.adds (w : DevWrite) : Bool := match w.kind with | .add _ => true | _ => false
/-- R303: nothing of the region runs, is open or is queued, and no card of it is still to complete (R318). DESIGN CHOICE (assumption 32). -/
def State.idleRegion (s : State) (r : Nat) : Bool :=
  s.gangs.all (·.region != r) && s.batches.all (fun b => b.region != r || b.st == .gang) && s.ready.all (·.region != r) && s.cards.all (·.region != r)
  && !s.devWrites.any (fun w => w.space == some r && w.adds)
/-- R303: a quiescing or cancelling region with nothing left passes to `HALTED`. -/
def State.settleRegion (s : State) (r : Nat) : State :=
  match s.region? r with
  | some x =>
    let s := if (x.state = .quiescing ∨ x.state = .cancelling) ∧ s.idleRegion r then s.mapRegion r (fun x => { x with state := .halted }) else s
    s.writeBack s.me.core r
  | none => s
/-- R303, R318: completions of cards that waited in `old` have performed, or are dropped, and their regions may pass to `HALTED`. -/
def State.settleAdds (s old : State) : State :=
  (((old.devWrites.filter (fun w => w.adds && !s.devWrites.any (fun x => x.adds && x.space == w.space))).filterMap (·.space)).dedup).foldl State.settleRegion s
/-- The `k`-th waiting write of the device looks again, and a region that waited for it goes on (R318). DESIGN CHOICE (assumption 32). -/
def State.deviceRun (s : State) (k : Nat) : State := (s.deviceNext k).settleAdds s

/-! ### Log records (R127, R128) -/

/-- R120: the trap enables, one bit per flag. -/
def ten (fcr : Word) : BitVec 6 := fcr.extractLsb' 4 6
/-- R128: the region uses the logged mode. -/
def logged (fcr : Word) : Bool := fcr.getLsbD 22

/-- R128: a log record of the enabled flags `en` of a thread, naming the instruction at `pc`. -/
def Thread.logRecord (t : Thread) (pc : Dword) (en : BitVec 6) : Nat :=
  pc.toNat + 2 ^ 64 * t.tid + 2 ^ 96 * (t.core % 64) + 2 ^ 102 * t.die + 2 ^ 104 * en.toNat
/-- R128: append a record to the region's ring; a full ring, and one of no entries, drops and counts it. The device writes the entry in memory. DESIGN CHOICE (assumption 18).
DESIGN CHOICE (assumption 32). -/
def State.recordLog (s : State) (t : Thread) (pc : Dword) (en : BitVec 6) : State :=
  match s.regionOf t with
  | none => s
  | some r =>
    if r.log.length < r.logn then
      let va := r.logring + BitVec.ofNat 64 (16 * (r.logTail % r.logn))
      (s.mapRegion r.num (fun r => { r with log := r.log ++ [t.logRecord pc en], logTail := (r.logTail + 1) % r.logn })).deviceWrite t.core r va
        (natBytes 16 (t.logRecord pc en))
    else s.mapRegion r.num (fun r => { r with logdrop := r.logdrop + 1 })
/-- The PC that a waiting record names, once the thread has come to it; with `last`, no further start will come. DESIGN CHOICE (assumption 18). -/
def LogWait.names (x : LogWait) (last : Bool) : Option Dword :=
  if x.n = 0 then some x.pc
  else match x.starts[x.n - 1]? with
    | some pc => some pc
    | none => if last then some (x.starts.getLast?.getD x.pc) else none
/-- The engine command that a record waits for may still raise its flags. -/
def State.mayRaise (s : State) (t : Thread) (id : Nat) (pc : Dword) : Bool :=
  s.streams.any (fun c => c.id == id && (match c.st with | .queued | .parked _ => true | _ => false)) || s.matrix.any (fun c => c.id == id) || s.shadows.any (fun x => x.g == t.gkey && x.pc == pc)
/-- R128: the records of a thread that are complete enter the ring, in program order: one waits for those before it. DESIGN CHOICE (assumption 18). -/
def State.flushFrom (s : State) (uid : Nat) (last : Bool) : List LogWait → State
  | [] => s.mapThread uid (fun t => { t with logs := [] })
  | x :: l =>
    match s.thread? uid with
    | none => s
    | some t =>
      match x.flags with
      | some en => (match x.names last with
        | some pc => (s.recordLog t pc en).flushFrom uid last l
        | none => s.mapThread uid (fun t => { t with logs := x :: l }))
      | none =>
        if !last && x.cmd.any (fun id => s.mayRaise t id x.pc) then s.mapThread uid (fun t => { t with logs := x :: l })
        else s.flushFrom uid last l
def State.flushLogs (s : State) (uid : Nat) (last : Bool) : State :=
  match s.thread? uid with
  | some t => if t.logs.isEmpty then s else s.flushFrom uid last t.logs
  | none => s
/-- R128: a thread whose region logs waits for what an engine command of it raises. DESIGN CHOICE (assumption 18). -/
def Thread.logsCommand (id : Nat) (pc : Dword) (n : Nat) (t : Thread) : Thread :=
  if logged t.fcr ∧ ten t.fcr ≠ 0 then { t with logs := t.logs ++ [{ pc := pc, cmd := some id, flags := none, n := n, starts := [] }] } else t

/-! ### Events to the host (R404, R405) -/

/-- R404: an event entry. -/
def State.eventEntry (s : State) (kind : Nat) (term : Bool) (region fdom : Nat) (payload : Nat) : List Byte :=
  natBytes 128 (kind + (if term then 256 else 0) + 2 ^ 32 * region + 2 ^ 64 * fdom + 2 ^ 128 * (s.time % 2 ^ 64) + 2 ^ 512 * payload)
/-- R405: write an entry to a ring, or drop it and count it when the ring is full or no memory that the device may reach (R400). DESIGN CHOICE (assumption 36). -/
def State.postEvent (s : State) (vif : Nat) (entry : List Byte) : State :=
  match s.vifs.find? (·.id = vif) with
  | none => s
  | some v =>
    let a := v.ring + 128 * (v.written % v.slots)
    if v.written - v.taken < v.slots ∧ s.physKind a ≠ .bad then
      ({ s with vifs := s.vifs.map (fun x => if x.id = vif then { v with written := v.written + 1 } else x) } : State).deviceSend
        { space := none, core := 0, va := BitVec.ofNat 64 a, kind := .bytes entry, parked := none }
    else { s with vifs := s.vifs.map (fun x => if x.id = vif then { v with dropped := v.dropped + 1 } else x) }
def State.postAll (s : State) (entry : List Byte) : State := s.vifs.foldl (fun s v => s.postEvent v.id entry) s
/-- An event about a region: to the virtual interface of its root (R405). DEDUCED (assumption 33). -/
def State.postRegion (s : State) (kind : Nat) (term : Bool) (r : Region) (record : List Byte) : State :=
  s.postEvent r.vif (s.eventEntry kind term r.num r.fdom (bytesNat record))

/-- R405: the containment record that a thread's handler has been given. -/
def Thread.handling (t : Thread) : List (List Byte) := (t.handler.toList.map (·.record)).filter (!·.isEmpty)
/-- R405: the containment records of the traps that wait for the thread. -/
def Thread.contained (t : Thread) : List (List Byte) := (((t.entering.toList ++ t.held).filter (·.cause = 21)).map (·.record))
/-- R405: containment violations of a thread are reported to the host. DEDUCED (assumption 33). -/
def State.report (s : State) (term : Bool) (t : Thread) (records : List (List Byte)) : State :=
  match s.regionOf t with
  | some r => records.foldl (fun s x => s.postRegion 1 term r x) s
  | none => s

/-! ### Records that never run (R320), job cards (R318) -/

def State.drops (s : State) (r n : Nat) : State := s.mapRegion r (fun x => { x with dropped := (x.dropped + n) % 2 ^ 64 })

/-- R311: a write of the device that zero-fills padding of the batch. -/
def Batch.padding (b : Batch) (w : DevWrite) : Bool :=
  w.space == some b.region && !w.adds && decide (b.base < w.va.toNat + w.kind.size ∧ w.va.toNat < b.base + b.size)
/-- R320: a batch that never became a gang is discarded. -/
def State.discardBatch (s : State) (b : Batch) : State :=
  let s : State := { s.drops b.region b.slots with
    batches := s.batches.filter (·.id ≠ b.id), ready := s.ready.filter (fun x => x.src ≠ .batch b.id), devWrites := s.devWrites.filter (!b.padding ·) }
  s.poolGive b.id

/-- R318: the card is complete once every chunk has ended: an atomic add of 1 to its DONE word, if it has one, as a release RMW at its DSCOPE that covers what
its gangs wrote. DEDUCED (assumption 37). -/
def State.finishCard (s : State) (id : Nat) : State :=
  match s.cards.find? (·.id = id) with
  | none => s
  | some c =>
    if c.dealt < c.n ∨ 0 < c.live then s
    else
      let s := { s with cards := s.cards.filter (·.id ≠ id) }
      match s.region? c.region with
      | none => s
      | some r =>
        if c.done = 0 then s
        else s.deviceSend { space := some r.num, core := r.vdt.headD 0 * 64, va := c.done, kind := .add c.dscope, parked := none }

/-- A chunk of a card has ended. DEDUCED (assumption 37). -/
def State.endChunk (s : State) (card : Nat) : State :=
  let s : State := { s with cards := s.cards.map (fun c => if c.id = card then { c with live := c.live - 1 } else c) }
  s.finishCard card

/-- R320: the chunks of a region's cards that have not started, and what was not dealt, are discarded. -/
def State.discardCards (s : State) (region : Nat) : State :=
  let mine := s.ready.filter (fun x => x.region = region)
  let s := mine.foldl (fun s x => match x.src with
    | .chunk card _ n =>
      { s.drops region n with cards := s.cards.map (fun c => if c.id = card then { c with live := c.live - 1 } else c) }
    | _ => s) s
  let s := { s with ready := s.ready.filter (fun x => !(x.region == region && (match x.src with | .chunk _ _ _ => true | _ => false))) }
  (s.cards.filter (·.region = region)).foldl (fun s c =>
    let s := s.drops region (c.n - c.dealt)
    let s : State := { s with cards := s.cards.map (fun x => if x.id = c.id then { x with dealt := x.n } else x) }
    s.finishCard c.id) s

/-- Every record of a region that has not started as a gang is discarded (R242, R320). -/
def State.discardWork (s : State) (region : Nat) : State :=
  let bs := s.batches.filter (fun b => b.region = region ∧ b.st ≠ .gang)
  (bs.foldl State.discardBatch s).discardCards region

/-! ### Retiring a gang (R242, R297, R319) -/

/-- The engine commands of a gang are gone. DEDUCED (assumption 54). -/
def State.dropCommands (s : State) (gang : Nat) : State :=
  let uids := (s.threads.filter (·.gang = gang)).map (·.uid)
  { s with copies := s.copies.filter (fun c => c.uid ∉ uids), streams := s.streams.filter (fun c => c.uid ∉ uids),
           matrix := s.matrix.filter (·.g.gang ≠ gang), shadows := s.shadows.filter (·.g.gang ≠ gang), lates := s.lates.filter (·.g.gang ≠ gang),
           colls := s.colls.filter (fun c => c.uid ∉ uids) }
/-- R319: the gang's threads stop at once, its commands are discarded, and its records will count as dropped when it ends; log records that wait enter the ring (R128). DEDUCED (assumption 54). -/
def State.retire (s : State) (gang : Nat) : State :=
  let s := (s.threads.filter (fun t => t.gang = gang)).foldl (fun s t => (s.flushLogs t.uid true).report false t (if t.run = .exited then [] else t.handling ++ t.contained)) s
  let s := s.mapThreads (fun t => if t.gang = gang then
    { t with run := .exited, prods := [], entering := none, held := [], handler := none, resv := none, trig := none, halted := false } else t)
  (s.dropCommands gang).mapGang gang (fun g => { g with forced := true, res := if g.res = .saved then .saved else .running })

end Sys2Proof.Machine
end

