-- ==== Sys2Proof/Machine/Trap.lean ====
section
/-! DEFINITION. Instruction lines and target checks (R35 to R41), page requests (R180), and taking a trap (R362 to R365, R242). -/
namespace Sys2Proof.Machine

/-! ### Instruction lines (R35 to R40) -/

/-- Syllable `i` of a line (R35). -/
def syllable (l : BitVec 512) (i : Nat) : Word := l.extractLsb' (32 * i) 32
/-- The number of one bits of a number below 2^w is odd. -/
def oddOnes (w n : Nat) : Bool := (List.range w).foldl (fun b i => b ^^ n.testBit i) false
/-- R35, R40: both parities of a line hold. -/
def parityOk (l : BitVec 512) : Bool :=
  let n := l.toNat
  !(oddOnes 256 (n % 2 ^ 256) ^^ n.testBit 510) && !(oddOnes 254 (n / 2 ^ 256 % 2 ^ 254) ^^ n.testBit 511)
/-- R35: TGT. -/
def targetBit (l : BitVec 512) (i : Nat) : Bool := (syllable l 15).getLsbD i
/-- R36: the instruction starts of a line, from syllable `i` on. -/
def startsFrom (l : BitVec 512) : Nat → Nat → List Nat
  | 0, _ => []
  | fuel + 1, i => if i ≥ 15 then [] else i :: startsFrom l fuel (i + lenSyllables (syllable l i).toNat)
def isStart (l : BitVec 512) (i : Nat) : Bool := (startsFrom l 15 0).contains i

/-- How fetching a line ends. -/
inductive FetchEnd where
  | line (l : BitVec 512)
  | held
  | park
  | fault (bits : Nat)
  | mchk (detail : Nat)
  deriving DecidableEq, Repr

/-- The bits of a line as the issuing thread's core fetches it: the dirty bytes of the core's L1 are those of memory for it, so that a release at `.CORE` is enough (R41, R185). DESIGN CHOICE (assumption 77). -/
def State.lineWord (s : State) (line : Nat) : BitVec 512 :=
  match s.l1? s.me.core line with
  | none => BitVec.ofNat 512 (readNat s.mem (line * 64) 64)
  | some _ => BitVec.ofNat 512 (bytesNat ((List.range 64).map (fun i => s.coreByte s.me.core (line * 64 + i))))
/-- R40: read a line for the instruction cache, and once more where its parity does not hold. -/
def State.refetch (s : State) (line : Nat) (c : Cause) : Option (BitVec 512) × State :=
  let s := s.l2Read s.me.die (line * 64) 64 c
  if parityOk (s.lineWord line) then (some (s.lineWord line), s)
  else
    let s := s.l2Read s.me.die (line * 64) 64 c
    (if parityOk (s.lineWord line) then some (s.lineWord line) else none, s)
/-- R40: the line in the core's instruction cache, if its parity holds; one whose parity does not is fetched again. -/
def State.cachedLine (s : State) (line : Nat) : Option (BitVec 512) :=
  (((s.core? s.me.core).bind (·.icache.find? (·.1 = line))).map (·.2)).filter parityOk
/-- R40, R41, R399: the line at a physical address through the instruction cache. DESIGN CHOICE (assumption 26). DESIGN CHOICE (assumption 77). -/
def State.fetchPhys (s : State) (pa : Nat) (c : Cause) : FetchEnd × State :=
  let line := pa / 64
  match s.cachedLine line with
  | some l => (.line l, s)
  | none =>
    if s.physKind pa = .bad then (.mchk 3, s)
    else if s.lineHeld line then (.held, s)
    else if s.inError (line * 64) 64 || s.l1Struck s.me.core (line * 64) 64 then (.mchk 2, s)
    else match s.refetch line c with
      | (some l, s) => (.line l, s.mapCore s.me.core (fun k => { k with icache := (line, l) :: k.icache.filter (·.1 ≠ line) }))
      | (none, s) => (.mchk 1, s)

/-- Fetch the line that holds a virtual address. DESIGN CHOICE (assumption 77). -/
def State.fetch (s : State) (va : Dword) : FetchEnd × State :=
  match s.translate va .exec with
  | (.held, s) => (.held, s)
  | (.park, s) => (.park, s)
  | (.fault b, s) => (.fault b, s)
  | (.mchk d, s) => (.mchk d, s)
  | (.ok pa, s) => s.fetchPhys pa s.myCause

/-- How a target check ends (R38). -/
inductive TargetEnd where
  | ok | bad | held | park | fault (bits : Nat) | mchk (detail : Nat)
  deriving DecidableEq, Repr

/-- R38: check a target; `tgt` says whether its TGT bit is consulted. -/
def State.checkTarget (s : State) (a : Dword) (tgt : Bool) : TargetEnd × State :=
  let i := a.toNat % 64 / 4
  if a.toNat % 4 ≠ 0 ∨ i = 15 then (.bad, s)
  else match s.fetch a with
    | (.line l, s) => (if isStart l i && (!tgt || targetBit l i) then .ok else .bad, s)
    | (.held, s) => (.held, s)
    | (.park, s) => (.park, s)
    | (.fault b, s) => (.fault b, s)
    | (.mchk d, s) => (.mchk d, s)

/-! ### Page requests (R180) -/

/-- R77, R180: the issuing thread parks on a page request. -/
def State.park (s : State) (va : Dword) (write : Bool) (exec : Bool := false) : State :=
  let (id, s) := s.request s.me.die s.me.asid va write exec
  s.upd (fun t => { t with run := .parked id, resv := none })

/-- R362: DETAIL0 of a page fault. DESIGN CHOICE (assumption 12). -/
def State.pageDetail (s : State) (t : Thread) (acc : Acc) (bits : Nat) : Dword :=
  BitVec.ofNat 64 ((if acc = .write then 1 else 0) + (if acc = .exec then 2 else 0) + (if s.isSys t then 0 else 4) + 8 * bits)

/-! ### Trap entry (R363 to R365) -/

/-- R363: the frame, as a number of 512 bits. -/
def State.frame (s : State) (t : Trap) : Nat :=
  t.pc.toNat + 2 ^ 64 * t.faddr.toNat + 2 ^ 128 * t.d0.toNat + 2 ^ 192 * t.d1.toNat + 2 ^ 256 * (t.cause % 256)
  + (if t.record.isEmpty then 0 else 2 ^ 264) + (if t.eng then 2 ^ 266 else 0)
  + 2 ^ 288 * s.me.tid + 2 ^ 320 * s.me.ord.toNat + 2 ^ 336 * s.me.predByte.toNat + 2 ^ 352 * s.regionNum s.me
  + 2 ^ 384 * (s.time % 2 ^ 64)

/-- Break bytes into runs of 64. -/
def chunks64 : Nat → List Byte → List (List Byte)
  | 0, _ => []
  | k + 1, bs => if bs.isEmpty then [] else bs.take 64 :: chunks64 k (bs.drop 64)

/-- Translate the lines a trap writes; the first that does not translate decides. -/
def State.translateLines (s : State) (va : Dword) : Nat → List Nat → (Tr × Dword) × List Nat × State
  | 0, acc => ((.ok 0, va), acc.reverse, s)
  | k + 1, acc =>
    match s.translate va .write with
    | (.ok pa, s) => s.translateLines (va + 64) k (pa :: acc)
    | (r, s) => ((r, va), acc.reverse, s)

/-- Append an access of the issuing thread to the pending accesses (R201). DESIGN CHOICE (assumption 8). -/
def State.push (s : State) (o : MemOp) : State := { s with ops := s.ops ++ [o] }.bump

/-- A store of whole bytes at `.TH` by the issuing thread. DEDUCED (assumption 13). -/
def State.pushStore (s : State) (pa : Nat) (bs : List Byte) : State :=
  s.push { id := s.fresh, uid := s.me.uid, core := s.me.core, part := s.me.part, pc := s.me.pc, psn := s.me.psn, kind := .store false,
           space := .glb, segs := [(pa, bs.length)], data := bs.map some, scope := .th, ord := .rlx, evict := 0, tag := none, issued := s.cycle }

/-- The handler entry: the launch block's, or the region's (R364). -/
def State.handlerEntry (s : State) : Dword :=
  match s.gang? s.me.gang with
  | some g => if g.lb.handler ≠ 0 then g.lb.handler else ((s.regionOf s.me).map (·.handler)).getD 0
  | none => 0

/-- R386, R405: the die's machine-check summary counts the trap, and the host is told. DEDUCED (assumption 33). -/
def State.countMchk (s : State) (t : Trap) : State :=
  if t.cause = 5 then
    let s := s.mapDie s.me.die (fun d => { d with mchkCount := Nat.min 65535 (d.mchkCount + 1), mchkKind := t.d0.toNat % 16, mchkCore := s.me.core % 64 })
    match s.die? s.me.die with
    | some d => s.postAll (s.eventEntry 4 false 0 0 (d.mchkCount + 2 ^ 16 * d.mchkKind + 2 ^ 20 * d.mchkCore))
    | none => s
  else s

/-- R248: a release has stopped being held: Batten's counter 2 takes its core cycles, at 2.5 GHz. -/
def State.unhold (s : State) (h : Hold) : State :=
  ({ s with holds := s.holds.filter (·.op.id ≠ h.op.id) } : State).mapCore h.op.core
    (fun c => { c with batten := c.batten.set 2 ((c.batten[2] + (s.time - h.since) * 5 / 2) % 2 ^ 64) })
/-- R232: one byte that a release of `o` replaced is put back where it performed, and in the L1 of its core. A byte that the L1 has written back since (as a save does, R371) is put
back in memory. -/
def State.putBack (o : MemOp) (s : State) (x : OldByte) : State :=
  let k := x.a % 64
  match o.space with
  | .scr g c => s.mapPad g c (fun p => { p with bytes := writeByte p.bytes x.a x.was })
  | .prv u => s.prvWrite u x.a [some x.was]
  | .glb =>
    let back := !(o.atL2 || o.isRmw) && !((s.l1? o.core (x.a / 64)).map (·.dirty.getLsbD k)).getD false
    let s := if back then { s with mem := writeByte s.mem x.a (x.dirty.getD x.was) }
      else if o.atL2 || o.isRmw then { s with mem := writeByte s.mem x.a x.was } else s
    match s.l1? o.core (x.a / 64) with
    | none => s
    | some l => s.setL1 o.core (
      if back then l.put k (x.dirty.getD x.was) false
      else match x.dirty with
      | some b => l.put k b true
      | none =>
        if o.atL2 || o.isRmw then l.put k x.was false
        else { l with valid := l.valid &&& ~~~ (1#64 <<< k), dirty := l.dirty &&& ~~~ (1#64 <<< k) })
/-- R333: the map words that a release touched are marked as they were. -/
def State.remark (h : Hold) (s : State) (x : Nat × List Nat) : State :=
  { s with parcels := s.parcels.map (fun p => if p.num = x.1 then
      { p with map := x.2 ++ p.map.filter (fun w => !h.op.segs.any (fun y => w ∈ p.words y.1 y.2)) } else p) }
/-- Undo a held release (R232): its bytes, and the map bits of its words, return to what they were, and the hold is lifted. -/
def State.withdraw (s : State) (h : Hold) : State :=
  (h.marks.foldl (State.remark h) (h.old.foldl (State.putBack h.op) (s.unhold h))).countBatten h.op.core 4

/-- A thread of a fault domain. -/
def State.inDomain (s : State) (fdom : Nat) (t : Thread) : Bool := ((s.regionOf t).map (fun r => r.fdom == fdom)).getD false
/-- R242: a fault domain is terminated: its threads stop, its held releases are withdrawn, and its regions are `DEAD`, which their images show (R301). -/
def State.terminate (s : State) (fdom : Nat) : State :=
  let gone := s.holds.filter (fun h => (s.threads.any (fun t => t.uid = h.op.uid ∧ s.inDomain fdom t)))
  let s' := gone.reverse.foldl State.withdraw s
  let nums := (s.regions.filter (·.fdom = fdom)).map (·.num)
  let s' := (s.gangs.filter (fun g => nums.contains g.region)).foldl (fun s g => s.retire g.id) s'
  let s' := nums.foldl State.discardWork s'
  let s' := { s' with regions := s'.regions.map (fun r => if r.fdom = fdom then { r with state := .dead } else r) }
  nums.foldl (fun s n => s.writeBack (((s.region? n).map (·.vdt.headD 0)).getD 0 * 64) n) s'

/-- R242, R365: the handler of the issuing thread fails; the violation that it was given caused the end of the domain (R405). -/
def State.failHandler (s : State) : State :=
  match s.regionOf s.me with
  | some r => ((s.upd (fun t => { t with handler := none, entering := none })).terminate r.fdom).report true s.me s.me.handling
  | none => s.upd (fun t => { t with run := .exited })

/-- R242, R405: a trap of the issuing thread makes the handler fail, and a violation that it reports caused the end of the domain too. DEDUCED (assumption 33). -/
def State.failAt (s : State) (t : Trap) : State := s.failHandler.report true s.me (if t.cause = 21 then [t.record] else [])
/-- R242, R386: the trap cannot be entered. DEDUCED (assumption 33). -/
def State.failEntry (s : State) (t : Trap) : State := (s.countMchk t).failAt t

/-- R364: entry, once the lines the trap writes have translated and the handler's line has been read. DEDUCED (assumption 13). -/
def State.enterAt (s : State) (t : Trap) (pas : List Nat) (h : TargetEnd) : State :=
  let lines := chunks64 (pas.length) (natBytes 64 (s.frame t) ++ t.record)
  let s' := (pas.zip lines).foldl (fun s x => s.pushStore x.1 x.2) (s.countMchk t)
  if h = .ok then
    let h : Handler := { cause := t.cause, since := s.time, record := if t.cause = 21 then t.record else [] }
    s'.upd (fun m =>
      { m with pc := s.handlerEntry, run := .ready, entering := none, resv := none, light := false, asks := none, handler := some h })
  else s'.failAt t

/-- R364: a trap enters its handler. A page that the host can supply parks the thread before entry (R180). DEDUCED (assumption 13). -/
def State.enterTrap (s : State) (t : Trap) : State :=
  match s.translateLines s.me.trapf (1 + (t.record.length + 63) / 64) [] with
  | ((.held, _), _, s) => (s.await .order).upd (fun m => { m with entering := some t })
  | ((.park, va), _, s) => (s.park va true).upd (fun m => { m with entering := some t })
  | ((.fault _, _), _, s) => s.failEntry t
  | ((.mchk _, _), _, s) => s.failEntry t
  | ((.ok _, _), pas, s) =>
    if pas.any (fun p => s.physKind p = .bad) then s.failEntry t
    else if s.handlerEntry = 0 then s.enterAt t pas .bad
    else match s.checkTarget s.handlerEntry true with
      | (.held, s) => (s.await .order).upd (fun m => { m with entering := some t })
      | (.park, s) => (s.park s.handlerEntry false true).upd (fun m => { m with entering := some t })
      | (h, s) => s.enterAt t pas h

/-- Take a trap: in handler state the handler fails (R365), otherwise the trap is entered. -/
def State.takeTrap (s : State) (t : Trap) : State :=
  if s.me.handler.isSome then s.failEntry t else s.enterTrap t

/-- A trap of the instruction at the thread's PC (R362: "this"). -/
def State.trap (s : State) (cause : Nat) (faddr d0 : Dword) : State :=
  s.takeTrap { cause := cause, pc := s.me.pc, faddr := faddr, d0 := d0 }

/-- A trap that will be delivered at a boundary of thread `uid` (R365). DEDUCED (assumption 20). -/
def State.holdTrap (s : State) (uid : Nat) (t : Trap) : State := s.mapThread uid (fun m => { m with held := m.held ++ [t] })

/-- What becomes of an access that does not translate (R180). -/
def State.untranslated (s : State) (va : Dword) (acc : Acc) : Tr → State
  | .held => s.await .order
  | .park => s.park va (acc == .write)
  | .fault b => s.trap 14 va (s.pageDetail s.me acc b)
  | .mchk d => s.trap 5 va (BitVec.ofNat 64 d)
  | .ok _ => s

/-- R38: transfer control to `a` after the target check, with `k` the effect on success. -/
def State.transferTo (s : State) (a : Dword) (tgt : Bool) (k : State → State) : State :=
  match s.checkTarget a tgt with
  | (.ok, s) => k s
  | (.bad, s) => s.trap 3 a 0
  | (.held, s) => s.await .order
  | (.park, s) => s.park a false true
  | (.fault b, s) => s.trap 14 a (s.pageDetail s.me .exec b)
  | (.mchk d, s) => s.trap 5 a (BitVec.ofNat 64 d)

/-! ### The common part of every instruction (R61, R70, R78) -/

/-- What the sources of an instruction say (R70). DESIGN CHOICE (assumption 14). -/
inductive SourceEnd where
  | full
  | empty (r : Reg)
  | block
  deriving DecidableEq, Repr

/-- R70: a register that nothing can fill traps; then an empty blocking source blocks; then an empty trapping source traps. DESIGN CHOICE (assumption 14). -/
def Thread.sources (t : Thread) (l : List Source) : SourceEnd :=
  let all := l.flatMap (fun x => (regGroup x.r x.n).map (fun r => (r, x.trap)))
  match all.find? (fun x => !t.full x.1 && !t.pending x.1) with
  | some x => .empty x.1
  | none =>
    if all.any (fun x => !x.2 && !t.full x.1) then .block
    else match all.find? (fun x => x.2 && !t.full x.1) with
      | some x => .empty x.1
      | none => .full

/-- R170: a register that a stopped stream instruction of the thread would fill: reading it delivers the pending fault, and nothing fills the
register any more. -/
def State.regFault (s : State) (l : List Source) : Option State :=
  let empty := (l.flatMap (fun x => regGroup x.r x.n)).filter (fun r => !s.me.full r)
  let waits (c : StreamCmd) : Bool := c.uid == s.me.uid && (match c.st, c.tag with
    | .faulted _, some tag => s.me.prods.any (fun p => p.tag == tag && empty.any p.covers)
    | _, _ => false)
  match s.streams.find? waits with
  | some c => (match c.st with
    | .faulted p =>
      let s : State := { s with streams := s.streams.filter (·.id ≠ c.id) }
      let s := s.upd (fun t => { t with prods := t.prods.filter (fun x => some x.tag ≠ c.tag) })
      some (s.takeTrap { cause := p.cause, pc := s.me.pc, faddr := p.faddr, d0 := BitVec.ofNat 64 (p.code + 2 ^ 32 * p.elem), d1 := c.pc, eng := true })
    | _ => none)
  | none => none

/-- R398: a source lies in a register pair that holds an uncorrectable error. -/
def Thread.readsStruck (t : Thread) (l : List Source) : Bool :=
  !t.struck.isEmpty && l.any (fun x => (regGroup x.r x.n).any (fun r => r != 0 && t.struck.contains (r.toNat / 2)))
/-- R61: the checks of the encoding, the privilege, the guard and the sources, in order, and that no source is in error (R398); then the effect `act`. A trapping source that is the destination
of a stopped stream instruction takes the empty-register trap (R70), and the fault stays pending (R170). DESIGN CHOICE (assumption 88). -/
def issue (c : Checks) (act : State → State) (s : State) : State :=
  let bank := s.bank s.me
  if !(c.legal bank && c.fits bank s.me.budget) then s.trap 1 0 0
  else if c.sys && !s.isSys s.me then s.trap 4 0 0
  else if !s.me.passes c.g then s.advanceBy c.syl
  else match s.me.sources (c.sources bank) with
    | .empty r => s.trap 6 0 (r.setWidth 64)
    | .block => (s.regFault (c.sources bank)).getD (s.await .source)
    | .full => if s.me.readsStruck (c.sources bank) then s.trap 5 0 2 else act s

/-- An instruction that completes: its effect, then the next start. -/
def completes (i : Checks) (act : State → State) (s : State) : State := issue i (fun s => (act s).advance i) s

end Sys2Proof.Machine
end

