-- ==== Sys2Proof/Machine/Perform.lean ====
section
/-! DEFINITION. How a pending access performs (R185, R217 to R221), how a release is confirmed or withdrawn (R230 to R232, R239 to R241),
and how Purlin's records are verified (R238). -/
namespace Sys2Proof.Machine

/-! ### The arithmetic of the atomic units -/

/-- A number as a two's complement integer of `n` bytes. -/
def asInt (n v : Nat) : Int := if v.testBit (8 * n - 1) then (v : Int) - 2 ^ (8 * n) else v

/-- R218: the integer atomics on values of `n` bytes. -/
def atomInt (op : Nat) (sg : Bool) (n old v : Nat) : Nat :=
  let less (x y : Nat) : Bool := if sg then decide (asInt n x < asInt n y) else decide (x < y)
  match op with
  | 0 => v
  | 1 => (old + v) % 2 ^ (8 * n)
  | 2 => (old + 2 ^ (8 * n) - v) % 2 ^ (8 * n)
  | 3 => old &&& v
  | 4 => old ||| v
  | 5 => old ^^^ v
  | 6 => if less v old then v else old
  | _ => if less old v then v else old

/-- No programmable format takes part where a bank is not named. -/
def noBank : FBank := Vector.replicate 8 0

/-- R219: one float element: FADD rounds by `.RN` with SAT 0 and FTZ 0; FMIN and FMAX are R133's. -/
def atomFloat1 (op : Nat) (f : Fmt) (old v : Nat) : Nat :=
  match op with
  | 0 => (f.round noBank { mode := .rn } ((f.value noBank old).add false (f.value noBank v)).1).1
  | 1 => (minMaxBits noBank f false old v).1
  | _ => (minMaxBits noBank f true old v).1
/-- R219: a float atomic; `.BF16X2` acts on its halves. -/
def atomFloat (op : Nat) (ty : DType) (old v : Nat) : Nat :=
  match ty with
  | .f64 => atomFloat1 op .f64 old v
  | .bf16x2 => atomFloat1 op .bf16 (old % 2 ^ 16) (v % 2 ^ 16) + 2 ^ 16 * atomFloat1 op .bf16 (old / 2 ^ 16 % 2 ^ 16) (v / 2 ^ 16 % 2 ^ 16)
  | _ => atomFloat1 op .f32 old v

/-- The size of the access in bytes. -/
def RmwFn.bytes : RmwFn → Nat
  | .int _ ty _ | .flt _ ty _ | .cas ty _ _ | .link ty => ty.bytes
/-- What the atomic writes over an old value; `none` where it writes nothing (R218 to R221). -/
def RmwFn.apply (f : RmwFn) (old : Nat) : Option Nat :=
  match f with
  | .int op ty v => some (atomInt op ty.signed ty.bytes old v)
  | .flt op ty v => some (atomFloat op ty old v)
  | .cas _ cmp new => if old = cmp then some new else none
  | .link _ => none

/-- The number at an atomic location, once it is at its atomic point. -/
def State.pointRead (s : State) (sp : OpSpace) (a n : Nat) : Nat :=
  match sp with
  | .glb => readNat s.mem a n
  | .scr g c => bytesNat (s.scrRead g c a n)
  | .prv u => bytesNat (s.prvRead u a n)
def State.pointWrite (s : State) (sp : OpSpace) (a n v : Nat) (writer : Option Nat) : State :=
  match sp with
  | .glb => s.atomicWrite a (natBytes n v) writer
  | .scr g c => s.scrWrite g c a ((natBytes n v).map some) writer
  | .prv u => s.prvWrite u a ((natBytes n v).map some)
def State.toPoint (s : State) (sp : OpSpace) (core a n : Nat) (c : Cause) : State :=
  match sp with
  | .glb => s.toAtomicPoint core a n c
  | _ => s

/-! ### Performing one access -/

/-- An earlier access of the thread that must precede this one has not performed. -/
def State.tooEarly (s : State) (o : MemOp) : Bool := (s.opBefore o).any (fun e => e.before o)

/-- A read-modify-write at its atomic point: the old value, and the state after it; `f` gives what is written, if anything (R209, R217). -/
def State.rmwNow (s : State) (o : MemOp) (f : Nat → Option Nat) : Nat × State :=
  match o.segs with
  | [] => (0, s)
  | (a, n) :: _ =>
    let early := s.tooEarly o
    let s := ((s.releaseOf o).countBatten o.core 0).toPoint o.space o.core a n (o.cause s)
    let old := s.pointRead o.space a n
    let was := s.was o
    match f old with
    | some v => (old, (((s.pointWrite o.space a n v (some o.uid)).noteWrote o ((natBytes n v).map some)).acquireOf o).holdOf o was early)
    | none => (old, s.acquireOf o)

/-- The access is an `LD.LINK`'s. -/
def MemOp.isLink (o : MemOp) : Bool := match o.kind with | .rmw (.link _) => true | _ => false
/-- The thread's latest `LD.LINK` has not performed yet. -/
def State.linkPending (s : State) (uid : Nat) : Bool := s.ops.any (fun e => e.uid == uid && e.isLink)
/-- R221: the thread's link has performed: its reservation stands from now on. -/
def Thread.linked (line : Nat) (t : Thread) : Thread := { t with resv := t.resv.map (fun r => if r.line = line then { r with live := true } else r) }

/-- The bytes that a load returns: those that it has read in parts (R192), else those read now. -/
def MemOp.gathered (o : MemOp) (bs : List Byte) : List Byte := (List.range bs.length).map (fun i => ((o.data[i]?).join).getD (bs.getD i 0))
/-- A load has its bytes. -/
def State.loaded (s : State) (o : MemOp) (sx : Bool) (bs : List Byte) : State :=
  ((s.fillProd o (loadWords sx (o.gathered bs))).acquireOf o).dropOp o
/-- The bytes of all ranges of a load. -/
def State.readSegs (s : State) (o : MemOp) : List Byte × State :=
  o.segs.foldl (fun (x : List Byte × State) seg => let (b, s) := x.2.readSeg o seg.1 seg.2; (x.1 ++ b, s)) ([], s)

/-- R399: a word that the access reads has got an error since it issued. -/
def State.lateError (s : State) (o : MemOp) : Bool := o.isRead && o.space == .glb && o.segs.any (fun x => s.inError x.1 x.2)
/-- R399: the thread takes the machine check at its next boundary. DESIGN CHOICE (assumption 26). -/
def State.lateCheck (s : State) (o : MemOp) : State := s.holdTrap o.uid { cause := 5, pc := o.pc, faddr := o.va, d0 := 2 }
/-- R233: the intervals of the lines of an access. -/
def State.intervalsOf (s : State) (o : MemOp) : List Nat := (o.segs.flatMap (fun x => linesOf x.1 x.2)).map (fun l => (s.lineState l).interval)
/-- R233: a load that only earlier acquires of its thread keep back performs ahead of them; its destination stays empty. DESIGN CHOICE (assumption 75). -/
def State.performAhead (s : State) (o : MemOp) : State :=
  match o.kind with
  | .load _ =>
    if o.space ≠ .glb ∨ o.ahead.isSome ∨ !s.unheld o ∨ s.heldByInject o ∨ (o.segs.any (fun x => (linesOf x.1 x.2).any s.isCounted)) ∨ s.lateError o
      ∨ (s.opBefore o).all (fun e => !e.acquires) ∨ (s.opBefore o).any (fun e => e.before o && !e.acquires) then s
    else
      let s := (s.readSegs o).2
      { s with ops := s.ops.map (fun x => if x.id = o.id then { x with ahead := some (s.intervalsOf o) } else x) }
  | _ => s
/-- R233: the load performs again, as a line of it has begun another interval since it performed. DEDUCED (assumption 25). -/
def State.reloads (s : State) (o : MemOp) : State := if o.ahead.any (· ≠ s.intervalsOf o) then s.countBatten o.core 3 else s
/-- The access performs: its value is read or its bytes reach memory, with the cache actions of R185, and a release is held (R230). DESIGN CHOICE (assumption 8). -/
def State.performNow (s : State) (o : MemOp) : State :=
  match o.kind with
  | .load sx =>
    let (bs, s) := ((s.reloads o).countBatten o.core 0).readSegs o
    s.loaded o sx bs
  | .store _ =>
    let early := s.tooEarly o
    let s := (s.releaseOf o).countBatten o.core 0
    let was := s.was o
    let s := (splitSegs o.segs o.data).foldl (fun s x => if x.2.all (·.isNone) then s else s.writeSeg o x.1 x.2) s
    ((s.noteWrote o o.data).holdOf o was early).dropOp o
  | .rmw f =>
    let (old, s) := s.rmwNow o (if s.lateError o then fun _ => none else f.apply)
    let s := match f, o.segs with
      | .link _, (a, _) :: _ => if (s.dropOp o).linkPending o.uid then s else s.mapThread o.uid (Thread.linked (a / 64))
      | _, _ => s
    (s.fillProd o (natWords (Nat.max 1 (f.bytes / 4)) old)).dropOp o
  | .fence =>
    let early := s.tooEarly o
    let s := (s.releaseOf o).countBatten o.core 0
    ((s.acquireOf o).holdOf o { bytes := [], marks := [] } early).dropOp o

/-- The access performs; one that reads a word in error writes nothing, and its thread takes the machine check (R399). DESIGN CHOICE (assumption 8). -/
def State.perform (s : State) (o : MemOp) : State := if s.lateError o then (s.performNow o).lateCheck o else s.performNow o

/-- An armed `.EARLY` sees a release: it fires, or counts one event off (R245). DESIGN CHOICE (assumption 15). -/
def State.earlyEvent (s : State) (o : MemOp) : Bool × State :=
  match s.earlyFires o with
  | some i =>
    if i.skip = 0 then (true, (s.mapCore o.core (fun c => { c with inject := none })).countBatten o.core 6)
    else (false, s.mapCore o.core (fun c => { c with inject := some { i with skip := i.skip - 1 } }))
  | none => (false, s)

/-- The access may perform (R213, R230), or an armed fault presents it early (R245); the state is what the armed fault becomes. DESIGN CHOICE (assumption 15). -/
def State.admits (s : State) (o : MemOp) : Option State :=
  if ((s.earlyFires o).map (·.skip == 0)).getD false && s.unheld o then some (s.earlyEvent o).2
  else if s.mayPerform o then some (s.earlyEvent o).2
  else none
/-- An access performs if it may; otherwise nothing happens. -/
def State.tryPerform (s : State) (o : MemOp) : State :=
  match s.admits o with
  | some s => s.perform o
  | none => s

/-! ### Parts of an access, and races (R192, R204) -/

/-- Where byte `i` of the access lies. -/
def segAt : List (Nat × Nat) → Nat → Option Nat
  | [], _ => none
  | (a, n) :: l, i => if i < n then some (a + i) else segAt l (i - n)
def MemOp.size (o : MemOp) : Nat := (o.segs.map (·.2)).sum
/-- R192: part `part` of an access that is single-copy atomic in its parts only, as the offset of its first byte, its address and its length: an aligned 8 bytes,
or one byte of an `LDU`. -/
def MemOp.piece (o : MemOp) (part : Nat) : Option (Nat × Nat × Nat) :=
  let n := if o.split then 1 else 8
  if o.size ≤ n ∨ o.isRmw ∨ o.releases then none else (segAt o.segs (n * part)).map (fun a => (n * part, a, n))
/-- Replace entries of a list from `i` on. -/
def putRange (l : List (Option Byte)) (i n : Nat) (f : Nat → Option Byte) : List (Option Byte) :=
  (List.range (Nat.max l.length (i + n))).map (fun k => if i ≤ k ∧ k < i + n then f (k - i) else (l[k]?).join)
/-- The queued access, changed. -/
def State.setOp (s : State) (o : MemOp) : State := { s with ops := s.ops.map (fun x => if x.id = o.id then o else x) }
/-- R192: one part of an access performs before the rest; a line under a read count (R196) is read in one request. DESIGN CHOICE (assumption 8). -/
def State.performPart (s : State) (o : MemOp) (part : Nat) : State :=
  match o.piece part with
  | none => s
  | some (i, a, n) =>
    if !s.mayPerform o || (o.segs.any (fun x => (linesOf x.1 x.2).any s.isCounted)) then s
    else match o.kind with
      | .load _ =>
        if ((List.range n).any (fun k => ((o.data[i + k]?).join).isSome)) then s
        else
          let (bs, s) := s.readSeg o a n
          s.setOp { o with data := putRange o.data i n (fun k => bs[k]?) }
      | .store _ =>
        let bs := (o.data.drop i).take n
        if bs.all (·.isNone) then s
        else ((s.writeSeg o a bs).noteWrote { o with segs := [(a, n)] } bs).setOp { o with data := putRange o.data i n (fun _ => none) }
      | _ => s

/-- R20, R202: the instance of scope `n` that contains thread `t` contains thread `u`. -/
def Thread.shares (n : Nat) (t u : Thread) : Bool :=
  match n with
  | 0 => t.uid == u.uid
  | 1 => t.gkey == u.gkey
  | 2 => t.core == u.core
  | 3 => t.core / 4 == u.core / 4
  | 4 => t.die == u.die
  | _ => true
/-- R202: two accesses are mutually in scope. -/
def State.mutual (s : State) (x y : MemOp) : Bool :=
  match s.thread? x.uid, s.thread? y.uid with
  | some t, some u => t.shares x.reach u && t.shares y.reach u
  | _, _ => false
/-- R202, R213: an event of one thread covers the thread of the observer `o`. -/
def State.coversObserver (s : State) (e o : MemOp) : Bool :=
  match s.thread? e.uid, s.thread? o.uid with
  | some t, some u => t.shares e.reach u
  | _, _ => false
/-- R213: `o` may not see the pending write `w` take effect before `e`, which comes before it in its thread. To an observer that an ordering event does not cover it orders no
more than the relaxed rows do; a store never becomes visible before an earlier load has returned its value (R210). DEDUCED (assumption 9). -/
def State.ordersFor (s : State) (o e w : MemOp) : Bool :=
  e.isRead || (e.isWrite && e.overlaps w) || (e.isFence && e.acquires && s.awaitsRemote e) ||
  (e.before w && ((e.isFence && s.coversObserver e o) || (w.releases && s.coversObserver w o)))
/-- A pending write that the observer `o` may see before it performs: nothing that orders it for `o` is still to come, and no hold keeps it back. No later event can then make it happen
after the read (R204, R208). DEDUCED (assumption 9). DESIGN CHOICE (assumption 76). -/
def State.visibleTo (s : State) (o w : MemOp) : Bool := (s.opBefore w).all (fun e => !s.ordersFor o e w) && s.unheld w && !s.heldByInject w
/-- R204: the values of writes that have not performed yet and race with the read `o` of address `a`, and of bytes that the L1s of other cores hold dirty. DESIGN CHOICE (assumption 76). -/
def State.racing (s : State) (o : MemOp) (a : Nat) : List Byte :=
  (s.ops.filter (fun e => e.uid ≠ o.uid ∧ e.isWrite ∧ !e.isRmw ∧ e.space = o.space ∧ (o.split ∨ !s.mutual o e) ∧ s.visibleTo o e)).flatMap (fun e =>
    (splitSegs e.segs e.data).flatMap (fun x => if x.1 ≤ a then ((x.2[a - x.1]?).join).toList else []))
  ++ (match o.space with
    | .glb => s.cores.flatMap (fun c => if c.id = o.core then [] else
        (c.l1.filter (fun l => l.line = a / 64 ∧ l.dirty.getLsbD (a % 64))).map (·.byte (a % 64)))
    | _ => [])
/-- R204: the values that a racing read of address `a` may return beside the present one: where some write races with it, that of any write to the byte, those that others have
replaced among them. DESIGN CHOICE (assumption 76). -/
def State.raceBytes (s : State) (o : MemOp) (a : Nat) : List Byte :=
  let l := s.racing o a
  if l.isEmpty then [] else l ++ (s.past.filter (fun p => p.space = o.space ∧ p.a = a)).map (·.b)
/-- R204: a load in a race returns `bs`, each byte of it the present one or that of a racing write. DESIGN CHOICE (assumption 76). -/
def State.performRace (s : State) (o : MemOp) (bs : List Byte) : State :=
  match o.kind, s.admits o with
  | .load sx, some s =>
    let (now, s) := (s.countBatten o.core 0).readSegs o
    let ok := bs.length == now.length && (List.range now.length).all (fun i => bs[i]? == now[i]? || (match segAt o.segs i, bs[i]? with
      | some a, some b => (s.raceBytes o a).contains b
      | _, _ => false))
    s.loaded o sx (if ok then bs else now)
  | _, _ => s

/-! ### Containment records (R240) -/

/-- What a checker found (R231, R238). -/
structure Violation where
  rule : Nat
  kind : Nat
  unit : Nat
  scope : Nat
  interval : Nat
  line : Nat
  pc : Dword
  tid : Word
  region : Word
  expected : Word
  observed : Word
  deriving DecidableEq, Repr, Inhabited

/-- R240: the containment record. -/
def Violation.record (v : Violation) : List Byte :=
  natBytes 64 (v.line % 2 ^ 64 + 2 ^ 64 * (v.interval % 2 ^ 40) + 2 ^ 104 * v.scope + 2 ^ 107 * v.kind + 2 ^ 112 * v.unit + 2 ^ 128 * v.pc.toNat
    + 2 ^ 192 * v.tid.toNat + 2 ^ 224 * v.region.toNat + 2 ^ 256 * v.expected.toNat + 2 ^ 288 * v.observed.toNat + 2 ^ 320 * v.rule)

/-- R241: the containment trap of a thread, to be taken at its next boundary. -/
def State.contain (s : State) (uid : Nat) (v : Violation) : State :=
  s.holdTrap uid { cause := 21, pc := 0, record := v.record }

/-- R240: LINE of an access. -/
def MemOp.lineField (o : MemOp) : Nat :=
  match o.space, o.segs with
  | .glb, (a, _) :: _ => a / 64 * 64
  | .scr _ _, (a, _) :: _ => 2 ^ 63 + a / 64 * 64
  | .prv _, _ :: _ => o.back / 64 * 64
  | _, [] => 0

/-! ### Confirming a release (R230 to R232, R239) -/

/-- The line was written by the thread since its last completed release at `scope` or wider (R239). -/
def Wrote.within (scope : Nat) (w : Wrote) : Bool := decide (w.scope ≤ scope)
/-- A release of the thread has completed at `scope`: what it wrote is released at that scope and those within it. -/
def Thread.released (scope : Nat) (t : Thread) : Thread :=
  { t with wrote := (t.wrote.map (fun w => { w with scope := Nat.max w.scope (scope + 1) })).filter (·.scope < 8) }
/-- R239: records that a release of the thread at `scope` waits for are on their way. -/
def State.unacked (s : State) (uid scope : Nat) : Bool :=
  match s.thread? uid with
  | some t => s.handovers.any (fun r => t.wrote.any (fun w => w.line == r.line && w.within scope))
  | none => false

/-- R232: held releases are withdrawn, the last one first, and the threads' later writes that wait on their lines are discarded. -/
def State.withdrawAll (s : State) (hs : List Hold) : State :=
  let s := hs.reverse.foldl State.withdraw s
  { s with ops := s.ops.filter (fun o => !(o.isWrite && hs.any (fun h => o.uid == h.op.uid && o.touches h && decide (h.op.id < o.id)))) }
/-- R232: the held releases of a thread from the one with number `id` on. -/
def State.holdsFrom (s : State) (uid id : Nat) : List Hold := (s.holds.filter (·.op.uid = uid)).dropWhile (fun x => x.op.id ≠ id)

/-- R231, R232, R241: a held release that Batten's check fails: it and the thread's later held releases are withdrawn, and the thread gets the
containment trap. DESIGN CHOICE (assumption 15). -/
def State.failRelease (s : State) (h : Hold) (e : MemOp) : State :=
  let t := s.thread? h.op.uid
  let v : Violation :=
    { rule := 6, kind := 0, unit := unitBatten h.op.core, scope := h.op.reach, interval := h.interval, line := h.op.lineField, pc := h.op.pc,
      tid := BitVec.ofNat 32 ((t.map (·.tid)).getD 0), region := (h.op.cause s).region, expected := e.psn, observed := h.op.psn }
  ((s.withdrawAll (s.holdsFrom h.op.uid h.op.id)).countBatten h.op.core 5).contain h.op.uid v

/-- R230: Batten confirms a held release, or finds that an event it must follow has not performed. -/
def State.confirm (s : State) (h : Hold) : State :=
  match if h.early then (s.ops.filter (fun e => e.uid = h.op.uid ∧ e.id < h.op.id ∧ e.before h.op)).head? else none with
  | some e => s.failRelease h e
  | none => if s.unacked h.op.uid h.op.reach then s else (s.mapThread h.op.uid (Thread.released h.op.reach)).unhold h

/-! ### Purlin's verification (R238) -/

/-- R240: EXPECTED and OBSERVED. DESIGN CHOICE (assumption 15). -/
def Handover.sides (r : Handover) (rule : Nat) : Word × Word :=
  match rule with
  | 35 => (BitVec.ofNat 32 r.expect, BitVec.ofNat 32 r.interval)
  | 34 => (r.hout, r.hin)
  | _ => (r.who, BitVec.ofNat 32 (whoL2 ((r.who.toNat / 2 ^ 14 + 1) % 4) r.line))
/-- The clean bytes of a line leave the L1s of a die. -/
def State.forgetClean (s : State) (die line : Nat) : State :=
  { s with cores := s.cores.map (fun c => if c.id / 64 = die then { c with l1 := c.l1.map (fun l => if l.line = line then { l with valid := l.dirty } else l) } else c) }
/-- R238: under RULE 34 and 35 the granting copy is kept, and what the receiver did with the faulty copy has not happened: accesses have waited since (`State.suspect`). Under RULE 32
the copy of the recorded owner is kept and the other one is discarded. DESIGN CHOICE (assumption 15). -/
def State.keepCopy (s : State) (r : Handover) (rule : Nat) : State :=
  if rule = 32 then s.countPurlin r.dst 4
  else
    { ((s.setLine { line := r.line, interval := r.expect, owner := r.from_ }).forgetClean (r.dst / 2 ^ 14) r.line) with
      mem := writeBytes s.mem (r.line * 64) r.bytes, handovers := s.handovers.filter (·.line ≠ r.line) }
/-- The thread of a held release wrote the line of a record, before the release or by it, in the interval that the record begins, and the release covers it (R241). -/
def State.coversWrite (s : State) (r : Handover) (h : Hold) : Bool :=
  ((s.thread? h.op.uid).map (fun t => t.wrote.any (fun w => w.line == r.line && w.interval == r.expect && w.within h.op.reach && decide (w.id ≤ h.op.id)))).getD false
/-- R238, R241: the receiving checker acknowledges a record, or finds a coherence violation: the thread whose access caused the handover
and those whose held releases cover a write to the line in that interval get the containment trap; a host request gets an abort. DESIGN CHOICE (assumption 15). -/
def State.verify (s : State) (r : Handover) : State :=
  let s := ({ s with handovers := s.handovers.erase r } : State).countPurlin r.dst 0
  match r.fails with
  | none => s.countPurlin r.src 1
  | some rule =>
    let v (t : Thread) : Violation :=
      { rule := rule, kind := 1, unit := r.dst, scope := 7, interval := r.interval, line := r.line * 64, pc := r.pc,
        tid := BitVec.ofNat 32 t.tid, region := BitVec.ofNat 32 (s.regionNum t), expected := (r.sides rule).1, observed := (r.sides rule).2 }
    let uids := ((s.holds.filter (s.coversWrite r)).map (·.op.uid)).dedup
    let gone := uids.flatMap (fun u => (s.holds.filter (·.op.uid = u)).dropWhile (fun h => !s.coversWrite r h))
    let s := ((s.withdrawAll gone).keepCopy r rule).countPurlin r.dst 5
    let s := if rule = 34 then s.countPurlin r.dst 2 else s
    let s := s.mapThreads (fun t => { t with wrote := t.wrote.filter (fun w => w.line ≠ r.line ∨ w.interval ≠ r.expect) })
    let s := if r.host then { s with answer := [] } else s
    (r.uid.toList ++ uids).dedup.foldl (fun s u => match s.thread? u with | some t => s.contain u (v t) | none => s) s
/-- What waits for no other agent finds the failing records of a line verified first (R238). DESIGN CHOICE (assumption 15). -/
def State.settled (s : State) (line : Nat) : State := (s.handovers.filter (fun r => r.line = line ∧ r.fails.isSome)).foldl State.verify s

end Sys2Proof.Machine
end

