-- ==== Sys2Proof/Machine/Engine.lean ====
section
/-! DEFINITION. What the engines share: tiles (R279 to R282), guard slots of commands (R79), flags and faults that reach threads from commands
(R170, R260, R287), and what becomes of a command that a false slot or the end of its group discards. -/
namespace Sys2Proof.Machine

/-- Put thread `uid` in the place of the issuing thread, and the issuing thread in its place. -/
def State.swapIn (s : State) (uid : Nat) : State :=
  match s.others.find? (·.uid = uid) with
  | none => s
  | some t => { s with me := t, others := s.others.map (fun x => if x.uid = uid then s.me else x) }

/-- Do something in the place of thread `uid`. -/
def State.asThread (s : State) (uid : Nat) (f : State → State) : State :=
  if uid = s.me.uid then f s else (f (s.swapIn uid)).swapIn s.me.uid

/-! ### Log records (R127, R128) -/

/-- R128: the issuing thread's records that are complete enter the ring. -/
def State.pushLog (s : State) (x : LogWait) : State := (s.bump.upd (fun t => { t with logs := t.logs ++ [x] })).flushLogs s.me.uid false
/-- R128: the record of the instruction at the thread's PC names it, or the `n`-th of the next 15 instruction starts, to which it waits. DESIGN CHOICE (assumption 18). -/
def State.appendLog (s : State) (fl : Flags) : State :=
  s.pushLog { pc := s.me.pc, cmd := none, flags := some (fl &&& ten s.me.fcr), n := Config.logPcSlip s.fresh % 16, starts := [] }
/-- R128: the thread comes to the instruction start at its PC, which records of it may name; at its last one, all that wait do. DESIGN CHOICE (assumption 18). -/
def State.logStart (s : State) (last : Bool) : State :=
  (s.upd (fun t => { t with logs := t.logs.map (fun x => if x.starts.length < 15 then { x with starts := x.starts ++ [t.pc] } else x) })).flushLogs s.me.uid last
/-- R128: the first record of the thread that waits for a command at `pc` learns the flags that it has raised. -/
def LogWait.learn (pc : Dword) (en : Flags) : List LogWait → List LogWait
  | [] => []
  | x :: l => if x.flags.isNone ∧ x.pc = pc then (if en = 0 then l else { x with flags := some en } :: l) else x :: LogWait.learn pc en l
/-- R128: a command at `pc` that goes on has raised the enabled flags `en`: their record stands before what it may still raise. -/
def LogWait.note (pc : Dword) (en : Flags) : List LogWait → List LogWait
  | [] => []
  | x :: l => if x.flags.isNone ∧ x.pc = pc then { x with flags := some en } :: x :: l else x :: LogWait.note pc en l
/-- R128: a command at `pc` has raised the enabled flags `en` in thread `uid`. -/
def State.commandLog (s : State) (uid : Nat) (pc : Dword) (en : Flags) : State :=
  (s.mapThread uid (fun t => { t with logs := LogWait.learn pc en t.logs })).flushLogs uid false

/-! ### Tiles (R279 to R282) -/

/-- A gang that is not resident holds nothing of a core (R371). -/
def State.away (s : State) (gang : Nat) : Bool := ((s.gang? gang).map (fun g => g.res == .saved)).getD false
def State.tile? (s : State) (core id : Nat) : Option Tile :=
  s.tiles.find? (fun t => t.core = core ∧ t.id = id ∧ !s.away t.gang)
def State.mapTile (s : State) (core id : Nat) (f : Tile → Tile) : State :=
  { s with tiles := s.tiles.map (fun t => if t.core = core ∧ t.id = id ∧ !s.away t.gang then f t else t) }
def State.setTileSt (s : State) (core id : Nat) (st : TState) : State := s.mapTile core id (fun t => { t with st := st })
/-- A wait on a tile or at a matrix instruction learns that a tile was freed (R282). -/
def Thread.tileGone (id : Nat) (t : Thread) : Thread :=
  match t.run with
  | .waiting w => if w.kind = .tile ∨ w.kind = .matrix then { t with run := .waiting { w with freed := id :: w.freed } } else t
  | _ => t
/-- R282: an entry becomes free; the threads of its gang that wait on it learn so. -/
def State.dropTile (s : State) (core id : Nat) : State :=
  let s' : State := { s with tiles := s.tiles.filter (fun t => !(t.core = core ∧ t.id = id ∧ !s.away t.gang)), struck := s.struck.filter (· ≠ .tile core id) }
  match s.tile? core id with
  | some t => s'.mapThreads (fun u => if u.gang = t.gang ∧ u.core = core then u.tileGone id else u)
  | none => s'
/-- R398: the entry of a tile has an uncorrectable error; with `data`, also a word of its bytes. -/
def State.tileStruck (s : State) (core id : Nat) (data : Option (Tile → Nat) := none) : Bool :=
  s.struck.contains (.tile core id) || (match s.tile? core id, data with
    | some t, some n => s.scratchStruck t.gang core t.base (n t)
    | _, _ => false)
/-- R251: the tile is pinned by a claimed slate. -/
def State.pinned (s : State) (core id : Nat) : Bool :=
  s.slates.any (fun x => x.core == core && x.claim.isSome && x.pins.contains id)

/-- A bank whose every descriptor is the tile's (R118). -/
def descBank (d : BitVec 16) : FBank := Vector.replicate 8 d
def Tile.bank (t : Tile) : FBank := descBank t.desc
/-- Storage width of the tile's elements in bits. -/
def Tile.width (t : Tile) : Nat := t.fmt.bits t.bank
/-- R280: the row pitch in bytes. -/
def pitch (width cols : Nat) : Nat := roundUp (cols * width) 32 / 8
def Tile.pitch (t : Tile) : Nat := Sys2Proof.Machine.pitch t.width t.cols

/-- The bytes of the scratchpad that the tile takes. -/
def Tile.bytes (t : Tile) : Nat := t.rows * t.pitch
/-- A source tile of a command holds an error (R398). -/
def State.srcStruck (s : State) (core id : Nat) : Bool := !s.struck.isEmpty && s.tileStruck core id (some Tile.bytes)
/-- Element (r, c) of the tile, as storage bits (R280). -/
def State.getElem (s : State) (t : Tile) (r c : Nat) : Nat :=
  let bit := t.width * c
  let bs := s.scrRead t.gang t.core (t.base + r * t.pitch + bit / 8) ((t.width + 7) / 8)
  bytesNat bs / 2 ^ (bit % 8) % 2 ^ t.width
/-- Write element (r, c), which Batten receives (R229, R234); after the last of a row the rest of the pitch is zero (R280). DESIGN CHOICE (assumption 92). -/
def State.putElem (s : State) (t : Tile) (r c v : Nat) (writer : Option Nat) : State :=
  let bit := t.width * c
  let a := t.base + r * t.pitch + bit / 8
  let n := (t.width + 7) / 8
  let old := bytesNat (s.scrRead t.gang t.core a n)
  let sh := bit % 8
  let new := old - old / 2 ^ sh % 2 ^ t.width * 2 ^ sh + v % 2 ^ t.width * 2 ^ sh
  let s := (s.scrWrite t.gang t.core a ((natBytes n new).map some) writer).countBatten t.core 0
  if c + 1 = t.cols ∧ t.width * t.cols < 8 * t.pitch then
    let used := t.width * t.cols
    let b := t.base + r * t.pitch + used / 8
    let keep := if used % 8 = 0 then 0 else bytesNat (s.scrRead t.gang t.core b 1) % 2 ^ (used % 8)
    s.scrWrite t.gang t.core b ((natBytes (t.pitch - used / 8) keep).map some) writer
  else s

/-- R282: the tile was freed while the thread waited on it, at the instruction that it executes again. -/
def Thread.lostTile (t : Thread) (id : Nat) : Bool :=
  match t.run with
  | .waiting w => w.freed.contains id
  | _ => false
/-- R282: what is wrong with a tile that an instruction names, as a protection reason. -/
def State.ownTile (s : State) (id : Nat) : Except Nat Tile :=
  if s.me.lostTile id then .error 4
  else match s.tile? s.me.core id with
  | none => .error 2
  | some t => if t.gang = s.me.gang then .ok t else .error 1
/-- R282: the protection trap. -/
def State.protect (s : State) (id reason : Nat) : State := s.trap 15 0 (BitVec.ofNat 64 (256 * id + reason))

/-! ### Commands that name a tile -/

def CmdSt.live : CmdSt → Bool
  | .queued | .parked _ => true
  | _ => false
def CmdSt.isFaulted : CmdSt → Bool
  | .faulted _ => true
  | _ => false
def CopyCmd.readsTile (c : CopyCmd) (id : Nat) : Bool :=
  c.st.live && (match c.op with | .store _ => c.tile == id | .move src _ => src == id | _ => false)
/-- The tiles a matrix command reads: its operands and scale, and for a load those it is loaded from. -/
def MatCmd.sources (c : MatCmd) : List Nat :=
  match c.op with
  | .mma _ | .joint _ => c.t1 :: c.scale.toList
  | .f64 _ => [c.t1, c.t2]
  | .load => c.t1 :: c.scale.toList
  | .sparse => c.t1 :: c.t2 :: c.scale.toList
  | .accWr => [c.t1]
  | .epi => if c.done = 0 then [] else [c.t1, c.t2]
  | _ => []
/-- A command of the thread belongs to a gang that is not resident. -/
def State.cmdAway (s : State) (uid : Nat) : Bool := ((s.thread? uid).map (fun t => s.away t.gang)).getD false
/-- R262, R168, R281: a queued command reads the tile, so it may not leave `READY`. Commands of a gang that is not resident name other tiles (R371). -/
def State.tileRead (s : State) (core id : Nat) : Bool :=
  s.copies.any (fun c => c.core == core && c.readsTile id && !s.cmdAway c.uid) ||
  s.streams.any (fun c => c.core == core && c.st.live && c.srcs.contains id && !s.cmdAway c.uid) ||
  s.matrix.any (fun c => c.core == core && c.sources.contains id && !s.away c.g.gang)

def State.gkeyOf (s : State) (uid : Nat) : GKey := ((s.thread? uid).map Thread.gkey).getD default
/-- A command of the thread that names the tile is queued, parked or executing (R292); a matrix command is one of every member of its group. -/
def State.namesTile (s : State) (uid id : Nat) : Bool :=
  s.copies.any (fun c => c.uid == uid && c.st.live && (c.tile == id || c.readsTile id)) ||
  s.streams.any (fun c => c.uid == uid && c.st.live && (c.tile == some id || c.srcs.contains id)) ||
  s.matrix.any (fun c => c.g == s.gkeyOf uid && (c.sources.contains id || c.out == some id))
/-- R292: what `TWAIT`, or `TWAIT.IDLE`, waits for. DEDUCED (assumption 72). -/
def State.tileCame (s : State) (t : Tile) (uid : Nat) (idle : Bool) : Bool :=
  if idle then (t.st == .empty || t.st == .ready) && !s.namesTile uid t.id else t.st == .ready
/-- R292: a wait at `TWAIT` keeps which form it is and the length of the instruction, and the tile. DEDUCED (assumption 72). -/
def twait (idle : Bool) (syl id : Nat) : Wait :=
  { kind := .tile, data := [if idle then 1 else 0, BitVec.ofNat 64 syl], obj := BitVec.ofNat 64 id }
/-- R214, R288: a thread observes that the tile is `READY` or `EMPTY`: it acquires what the copy command that brought it there wrote, at the scope of the command if it issued it, else at
`.CORE`. DEDUCED (assumption 72). -/
def State.seesTile (s : State) (u : Thread) (t : Tile) : State :=
  match t.copied with
  | some (by_, sc) => if t.st = .ready ∨ t.st = .empty then s.acquireL1 t.core u.part (if u.uid = by_ then sc.code else 2) else s
  | none => s
/-- R287: the thread a command's fault is for: the issuing thread, or the lowest member of its group that is still running; with none the fault is discarded. -/
def State.heir (s : State) (uid : Nat) : Option Nat :=
  match s.thread? uid with
  | none => none
  | some t => if t.run ≠ .exited then some uid else
      (((s.threads.filter (fun u => u.gkey = t.gkey ∧ u.run ≠ .exited)).insertionSort (fun a b => a.member ≤ b.member)).head?).map (·.uid)
/-- R287, R293: a fault is pending for a copy or stream command on the tile, for a thread that `p` picks. -/
def State.pends (s : State) (core id : Nat) (p : Nat → Bool) : Bool :=
  s.copies.any (fun c => c.core == core && c.tile == id && c.st.isFaulted && (s.heir c.uid).any p) ||
  s.streams.any (fun c => c.core == core && c.tile == some id && c.st.isFaulted && (s.heir c.uid).any p)
/-- The form and length of the `TWAIT` on the tile at which the thread waits. -/
def Thread.twaits (id : Nat) (t : Thread) : Option (Bool × Nat) :=
  match t.run with
  | .waiting w => (match w.kind, w.data with
    | .tile, [form, syl] => if w.obj.toNat = id then some (form == 1, syl.toNat) else none
    | _, _ => none)
  | _ => none
/-- R281, R292: the tile has changed, and the waits that lasted until then end; one whose tile was freed meanwhile (R282), or that a pending fault is for (R287), executes its instruction
again. DEDUCED (assumption 72). -/
def State.wakeTile (s : State) (core id : Nat) : State :=
  match s.tile? core id with
  | none => s
  | some t => (s.threads.filter (fun u => u.gang = t.gang ∧ u.core = core)).foldl (fun s u => match u.twaits id with
    | some (idle, syl) =>
      if s.tileCame t u.uid idle ∧ !u.lostTile id ∧ !s.pends core id (· == u.uid) then (s.seesTile u t).mapThread u.uid (·.advanceBy syl) else s
    | none => s) s

/-! ### Guard slots of commands (R79) -/

def State.groupAt? (s : State) (g : GKey) : Option Group :=
  s.groups.find? (fun x => x.gang = g.gang ∧ x.role = g.role ∧ x.gid = g.gid)
/-- The value of slot `k` of a group: `none` while it is unresolved. -/
def State.slotVal (s : State) (g : GKey) (k : BitVec 4) : Option Bool :=
  match s.groupAt? g with
  | some x => x.guards[k.toNat]
  | none => some false
/-- The value under which a command stands: true where it names no slot. DEDUCED (assumption 73). -/
def State.cmdSlot (s : State) (g : GKey) (gs : Option (BitVec 4)) : Option Bool :=
  match gs with
  | some k => s.slotVal g k
  | none => some true

/-- R286: a copy command that a false slot discards; its tile returns to its earlier state. -/
def State.discardCopy (s : State) (c : CopyCmd) : State :=
  ({ s.setTileSt c.core c.tile c.prior with copies := s.copies.filter (·.id ≠ c.id) : State }).wakeTile c.core c.tile
/-- R169: a stream instruction that a false slot discards, without any effect: a tile has its earlier state and check vector; a register destination turns full with the value it held, or
that an earlier producer gives it (R71). -/
def State.discardStream (s : State) (c : StreamCmd) : State :=
  let s : State := { s with streams := s.streams.filter (·.id ≠ c.id) }
  let s := match c.tile with | some id => (s.mapTile c.core id (fun t => { t with st := c.prior, chk := c.chk })).wakeTile c.core id | none => s
  match c.tag with
  | some tag => s.mapThread c.uid (fun t =>
      match t.prods.find? (·.tag = tag) with
      | some p => t.forgo p
      | none => t)
  | none => s

def State.slate? (s : State) (core n : Nat) : Option Slate := s.slates.find? (fun x => x.core = core ∧ x.n = n)
def State.mapSlate (s : State) (core n : Nat) (f : Slate → Slate) : State :=
  { s with slates := s.slates.map (fun x => if x.core = core ∧ x.n = n then f x else x) }
/-- DEDUCED (assumption 41). -/
def SlateDesc.tiles (d : SlateDesc) : List Nat := d.tile :: (d.idx.toList ++ d.scale.toList)
/-- R261, R264: a matrix command that is discarded; a load leaves the slate's content, and the descriptor is that of the last load that is
left. DEDUCED (assumption 41). -/
def State.discardMat (s : State) (c : MatCmd) : State :=
  let s : State := { s with matrix := s.matrix.filter (·.id ≠ c.id) }
  let s := match c.out with | some id => (s.setTileSt c.core id c.prior).wakeTile c.core id | none => s
  if c.op = .load ∨ c.op = .sparse then
    let left := s.matrix.filter (fun x => x.core = c.core ∧ x.slate = c.slate ∧ x.g.gang = c.g.gang ∧ (x.op = .load ∨ x.op = .sparse))
    s.mapSlate c.core c.slate (fun x =>
      let w := match left.getLast? with | some y => y.desc | none => x.got
      { x with want := w, pins := (w.map SlateDesc.tiles).getD [] })
  else s

/-! ### Flags and faults reach threads (R260) -/

/-- The started members of a group, in member order. -/
def State.membersOf (s : State) (g : GKey) : List Thread :=
  (s.threads.filter (fun t => t.gkey = g)).insertionSort (fun a b => a.member ≤ b.member)
/-- The trap of a command, to be taken at a boundary (R260). -/
def cmdTrap (cause : Nat) (code elem : Nat) (pc : Dword) : Trap :=
  { cause := cause, pc := pc, d0 := BitVec.ofNat 64 (code + 2 ^ 32 * elem), d1 := pc, eng := true }
/-- R260, R128: flags of a command reach one thread. -/
def State.giveFlags (s : State) (uid : Nat) (fl : Flags) (pc : Dword) : State :=
  let s := s.mapThread uid (fun t => { t with fsr := t.fsr ||| fl.setWidth 32 })
  match s.thread? uid with
  | none => s
  | some t =>
    if t.run = .exited then s
    else if logged t.fcr then s.commandLog uid pc (fl &&& ten t.fcr)
    else if fl &&& ten t.fcr = 0 then s
    else s.holdTrap uid (cmdTrap 11 fl.toNat 0 pc)
def State.giveGroup (s : State) (g : GKey) (fl : Flags) (pc : Dword) : State :=
  if fl = 0 ∧ (s.membersOf g).all (·.logs.isEmpty) then s else (s.membersOf g).foldl (fun s t => s.giveFlags t.uid fl pc) s
/-- R260: a fault of a matrix command reaches every member. -/
def State.faultGroup (s : State) (g : GKey) (t : Trap) : State :=
  (s.membersOf g).foldl (fun s m => if m.run = .exited then s else s.holdTrap m.uid t) s

/-- The trap of a pending fault, at the issuing thread's instruction. DEDUCED (assumption 28). -/
def State.pendTrap (s : State) (p : Pend) (pc : Dword) : State :=
  s.takeTrap { cause := p.cause, pc := s.me.pc, faddr := p.faddr, d0 := BitVec.ofNat 64 (p.code + 2 ^ 32 * p.elem), d1 := pc, eng := true }
/-- R287: the pending fault of a copy or stream command on a tile that the issuing thread must take. DEDUCED (assumption 28). -/
def State.tileFault (s : State) (id : Nat) : Option (State → State) :=
  match s.copies.find? (fun c => c.core = s.me.core ∧ c.tile = id ∧ c.st.isFaulted ∧ s.heir c.uid = some s.me.uid) with
  | some c => (match c.st with
    | .faulted p => some (fun s =>
        { s with copies := s.copies.map (fun x => if x.id = c.id then { x with st := .dead } else x) : State }.pendTrap p c.pc)
    | _ => none)
  | none =>
    match s.streams.find? (fun c => c.core = s.me.core ∧ c.tile = some id ∧ c.st.isFaulted ∧ s.heir c.uid = some s.me.uid) with
    | some c => (match c.st with
      | .faulted p => some (fun s =>
          { s with streams := s.streams.map (fun x => if x.id = c.id then { x with st := .dead } else x) : State }.pendTrap p c.pc)
      | _ => none)
    | none => none

/-! ### Accumulators and shadows (R256, R261) -/

def State.acc? (s : State) (core id : Nat) : Option Entry := s.accs.find? (fun x => x.core = core ∧ x.id = id)
def State.setAcc (s : State) (e : Entry) : State := { s with struck := s.struck.filter (· ≠ .acc e.core e.id), accs := e :: s.accs.filter (fun x => ¬(x.core = e.core ∧ x.id = e.id)) }
def State.dropAcc (s : State) (core id : Nat) : State := { s with accs := s.accs.filter (fun x => ¬(x.core = core ∧ x.id = id)) }
/-- The binding under which instructions that issue now see a handle: it stays bound until an `ACC.ZERO.FREE` of it has executed (R256, R273). -/
def State.bound? (s : State) (g : GKey) (h : Nat) : Option Binding := (s.binds.filter (fun b => b.g = g ∧ b.h = h)).getLast?
/-- The binding that the oldest queued commands on a handle stand under. -/
def State.firstBound? (s : State) (g : GKey) (h : Nat) : Option Binding := s.binds.find? (fun b => b.g = g ∧ b.h = h)
/-- The binding under which command `id` was issued: the last one made before it. -/
def State.boundAt? (s : State) (g : GKey) (h id : Nat) : Option Binding :=
  (s.binds.filter (fun b => b.g = g ∧ b.h = h ∧ b.id ≤ id)).getLast?

/-- The bindings to the entry of binding `b` move to another entry. -/
def State.rebind (s : State) (b : Binding) (acc : Nat) : State :=
  { s with binds := s.binds.map (fun (y : Binding) => if y.core = b.core ∧ y.acc = b.acc then { y with acc := acc } else y) }

/-- R261: a shadow commits: its handle moves to the shadow's entry, and its flags are raised. -/
def State.commitShadow (s : State) (x : Shadow) : State :=
  let s : State := { s with shadows := s.shadows.filter (fun y => ¬(y.g = x.g ∧ y.h = x.h)) }
  let s := match s.firstBound? x.g x.h with
    | some b => (s.rebind b x.acc).dropAcc x.core b.acc
    | none => s
  s.giveGroup x.g x.flags x.pc
def State.discardShadow (s : State) (x : Shadow) : State :=
  { s.dropAcc x.core x.acc with shadows := s.shadows.filter (fun y => ¬(y.g = x.g ∧ y.h = x.h)) }
/-- R261: a slot resolves: the shadows under it commit or go. -/
def State.resolveSlot (s : State) (g : GKey) (k : BitVec 4) (v : Bool) : State :=
  (s.shadows.filter (fun x => x.g = g ∧ x.slot = k)).foldl (fun s x => if v then s.commitShadow x else s.discardShadow x) s

/-! ### The end of a group (R79, R261). DEDUCED (assumption 73). -/

def State.groupEnded (s : State) (g : GKey) : Bool := (s.threads.filter (fun u => u.gkey = g)).all (fun u => u.run == .exited)
def State.groupOver (s : State) (t : Thread) : Bool := s.groupEnded t.gkey
/-- A binding goes, and its entry returns to the pool (R256). What the entry holds stays until it is taken anew. -/
def State.unbind (s : State) (b : Binding) : State := { s with binds := s.binds.filter (·.id ≠ b.id) }
/-- The entry is bound or held by a shadow. -/
def State.entryHeld (s : State) (e : Entry) : Bool :=
  s.binds.any (fun b => b.core == e.core && b.acc == e.id) || s.shadows.any (fun x => x.core == e.core && x.acc == e.id)
/-- R256: one of the 32 entries of a core's pool is taken anew: what the longest returned one held is lost. -/
def State.clearEntry (s : State) (core : Nat) : State :=
  if (s.accs.filter (fun e => e.core = core ∧ !s.away e.of.gang)).length < 32 then s
  else match (s.accs.filter (fun e => e.core = core ∧ !s.entryHeld e)).getLast? with
    | some e => s.dropAcc core e.id
    | none => s
/-- R256, R278: once a group has ended and its last command has executed, its entries return to the pool. -/
def State.reapGroup (s : State) (g : GKey) : State :=
  if s.groupEnded g && s.matrix.all (·.g != g) then (s.binds.filter (·.g = g)).foldl State.unbind s else s
/-- R287: no thread of the group is left to take the faults that are pending for its commands. -/
def State.dropFaults (s : State) (g : GKey) : State :=
  { s with copies := s.copies.map (fun c => if s.gkeyOf c.uid == g && c.st.isFaulted && (s.heir c.uid).isNone then { c with st := .dead } else c),
           streams := s.streams.map (fun c => if s.gkeyOf c.uid == g && c.st.isFaulted && (s.heir c.uid).isNone then { c with st := .dead } else c) }
/-- R79: commands under slots that are still unresolved are discarded, as are shadows. -/
def State.endGroup (s : State) (g : GKey) : State :=
  let open_ (gs : Option (BitVec 4)) : Bool := s.cmdSlot g gs == none
  let s1 := (s.copies.filter (fun c => !c.started && s.gkeyOf c.uid == g && open_ c.gs)).foldl State.discardCopy s
  let s2 := (s.streams.filter (fun c => s.gkeyOf c.uid == g && open_ c.o.gs && c.done == 0)).foldl State.discardStream s1
  let s3 := (s.matrix.filter (fun c => c.g == g && open_ c.gs)).foldl State.discardMat s2
  (((s.shadows.filter (·.g = g)).foldl State.discardShadow s3).dropFaults g).reapGroup g

end Sys2Proof.Machine
end

