-- ==== Sys2Proof/Machine/Collective.lean ====
section
/-! DEFINITION. Collectives: member masks and ordinals (R72 to R76), completion for every participant, cancellation points (R319), and what
an exit does to the members that wait (R76, R84). -/
namespace Sys2Proof.Machine

def Thread.sameGroup (t u : Thread) : Bool := t.gang == u.gang && t.role == u.role && t.gid == u.gid
/-- The threads of the issuing thread's group. -/
def State.members (s : State) : List Thread := s.threads.filter (·.sameGroup s.me)

/-- The wait of a thread that has arrived at a collective. -/
def Thread.arrival (t : Thread) : Option Wait :=
  match t.run with
  | .waiting w => match w.kind with
    | .conv | .barGrp | .coll | .matrix | .chain => some w
    | _ => none
  | _ => none

/-- Bit 63 of a mask names no member of a group of width 32 or less (R72). -/
def memberMask (width : Nat) (m : BitVec 64) : BitVec 64 := if width ≤ 32 then m &&& ~~~ (1#64 <<< 63) else m

/-- R72: the mask is legal for the issuing thread. -/
def maskOk (g : Group) (member : Nat) (m : BitVec 64) : Bool :=
  m.getLsbD member && m &&& ~~~ g.started == 0 && decide (m.toNat < 2 ^ g.width)

/-- R73: `a` is behind `b`. -/
def behind (a b : BitVec 16) : Bool := decide (1 ≤ (b - a).toNat ∧ (b - a).toNat ≤ 32768)

/-- R319: a cancellation point. -/
def State.cancelPoint (s : State) (k : State → State) : State :=
  match s.regionOf s.me with
  | some r =>
    if r.state = .cancelling ∧ !s.me.cancelTaken ∧ s.me.handler.isNone then
      (s.upd (fun t => { t with cancelTaken := true })).trap 23 0 0
    else k s
  | none => k s

/-- A participant has completed: its ordinal rises by 1 (R73) and it goes on at the next start. -/
def Thread.passed (n : Nat) (t : Thread) : Thread := ({ t with ord := t.ord + 1 } : Thread).advanceBy n
def State.passed (n : Nat) (s : State) : State := s.upd (Thread.passed n)

/-- Members of the group that stand at an instance with the issuing thread (R73). DEDUCED (assumption 19). -/
def State.instance_ (s : State) (mask : BitVec 64) : List Thread :=
  s.members.filter (fun t => t.uid != s.me.uid && t.ord == s.me.ord &&
    match t.arrival with
    | some w => mask.getLsbD t.member || w.mask.getLsbD s.me.member
    | none => false)

/-- The trap of a collective in every arriving member. -/
def State.trapAll (s : State) (cause : Nat) (uids : List Nat) : State :=
  uids.foldl (fun s u => s.asThread u (fun s => s.trap cause 0 0)) s

/-- The members that a mask names and that have arrived at the instance, with what they presented, in ascending member order; `none` when
a member is absent. Exited members count as arrived without a value where `exitOk` says so (R76). DEDUCED (assumption 19). -/
def State.participants (s : State) (kind : WaitKind) (mask : BitVec 64) (exitOk : Bool) (data : List Dword) :
    Option (List (Nat × Nat × List Dword)) :=
  ((List.range 64).filter (fun i => mask.getLsbD i)).foldlM (fun acc i =>
    if i = s.me.member then some (acc ++ [(s.me.uid, i, data)])
    else match s.members.find? (·.member = i) with
      | none => none
      | some t =>
        if t.run = .exited then (if exitOk then some acc else none)
        else match t.arrival with
          | some w => if w.kind = kind ∧ t.ord = s.me.ord ∧ t.pc = s.me.pc ∧ w.mask = mask then some (acc ++ [(t.uid, i, w.data)]) else none
          | none => none) []

/-- A collective (R72, R73, R76): the issuing thread arrives with `data`; when every named member has arrived, `finish` acts in the place
of each participant, in ascending member order. DEDUCED (assumption 19). -/
def State.collective (s : State) (kind : WaitKind) (mask0 : BitVec 64) (exitOk : Bool) (data : List Dword)
    (finish : List (Nat × Nat × List Dword) → State → State) : State :=
  match s.group? s.me with
  | none => s.trap 7 0 0
  | some g =>
    let mask := memberMask g.width mask0
    if !maskOk g s.me.member mask then s.trap 7 0 0
    else
      let here := s.instance_ mask
      let named := s.members.filter (fun t => mask.getLsbD t.member && t.uid != s.me.uid)
      let clash := here.any (fun t => t.pc != s.me.pc || (t.arrival.map (·.mask)) != some mask)
      let ahead := named.any (fun t => t.run != .exited && behind s.me.ord t.ord)
      let gone := !exitOk && named.any (fun t => t.run == .exited)
      if clash || ahead || gone then s.trapAll 8 (s.me.uid :: here.map (·.uid))
      else match s.participants kind mask exitOk data with
        | some ps => ps.foldl (fun s p => s.asThread p.1 (finish ps)) s
        | none => s.awaitWith { kind := kind, mask := mask, data := data }

/-- `CONV` and `BAR.GRP` present the length of their instruction, so that an exit can complete them (R76). DEDUCED (assumption 19). -/
def State.rendezvous (s : State) (kind : WaitKind) (mask : BitVec 64) (n : Nat) : State :=
  s.collective kind mask true [BitVec.ofNat 64 n] (fun _ => State.passed n)

/-- R76: an exit of the issuing thread completes the `CONV`s and `BAR.GRP`s that waited for it alone, and ends with a trap those other
collectives that name it. -/
def State.afterExit (s : State) : State :=
  let uids := (s.members.filter (fun t => t.uid != s.me.uid)).map (·.uid)
  uids.foldl (fun s' u =>
    match s'.thread? u with
    | none => s'
    | some t =>
      match t.arrival with
      | none => s'
      | some w =>
        if !w.mask.getLsbD s.me.member then s'
        else match w.kind with
          | .conv | .barGrp => s'.asThread u (fun s => s.rendezvous w.kind w.mask ((w.data.headD 0).toNat))
          | .matrix => s'.asThread u (fun s => s.trap 7 0 0)
          | _ => s'.asThread u (fun s => s.trap 8 0 0)) s

/-- R84: the thread ends. Its pending register values are discarded; its accesses perform normally. The last thread of a
group ends the group (R79). -/
def State.endThread (s : State) : State :=
  let s := (s.report false s.me (s.me.handling ++ s.me.contained)).upd (fun t => { t with run := .exited, prods := [], resv := none, handler := none, entering := none, trig := none })
  (if s.groupOver s.me then s.endGroup s.me.gkey else s).afterExit

/-- The mask of a collective (R146): LIT32, the pair B, or the started membership where B is 0. -/
def State.collMask (s : State) (o : LOps) : BitVec 64 :=
  match o.lit with
  | some l => l.setWidth 64
  | none => if o.b = 0 then ((s.group? s.me).map (·.started)).getD 0 else s.me.rd2 o.b

/-! ### Pavane time (R358) and clocks that stop (R74, R77, R366) -/

def Region.debugOn (r : Region) (die : Nat) : Debug :=
  (r.dbg.find? (·.die = die)).getD { die := die, halted := false, armed := false, brk := none }
/-- R373: a die is halted for the thread's region. -/
def State.anyHalted (s : State) (t : Thread) : Bool := ((s.regionOf t).map (·.dbg.any (·.halted))).getD false
def Thread.isParked (t : Thread) : Bool := match t.run with | .parked _ => true | _ => false
/-- R251, R256: a gang that holds a slate or an entry of a core's matrix unit. -/
def State.holdsUnit (s : State) (core gang : Nat) : Bool :=
  s.slates.any (fun x => x.core == core && x.claim == some gang) || s.binds.any (fun b => b.core == core && b.g.gang == gang)
/-- R77, R366: a thread that the wait needs is parked: a member that a collective names, or one of those that may have to arrive, fill, release or return: for a tile or a
barrier object in scratch another thread of the gang, for an object in memory one of the address space, for a claim or a binding one of a gang that holds some of the unit.
DEDUCED (assumption 91). -/
def State.needsParked (s : State) (t : Thread) : Bool :=
  let unit (u : Thread) : Bool := u.gang == t.gang || s.holdsUnit t.core u.gang
  match t.run with
  | .waiting w => s.threads.any (fun u => u.isParked && (match w.kind with
    | .conv | .barGrp | .coll | .chain => u.sameGroup t && w.mask.getLsbD u.member
    | .matrix => if w.obj = 0 then u.sameGroup t && w.mask.getLsbD u.member else unit u
    | .barObj => u.gang == t.gang || (!w.scr && u.asid == t.asid)
    | .tile => u.gang == t.gang
    | .claim => unit u
    | _ => false))
  | _ => false
/-- R77, R277: a thread of the gang, or of one that holds a slate for which the gang waits, is parked. DEDUCED (assumption 91). -/
def State.slatesParked (s : State) (g : Gang) : Bool :=
  s.threads.any (fun u => u.isParked && (u.gang == g.id || s.slates.any (fun y => y.claim == some u.gang && g.kept.any (fun x => x.core == y.core && x.n == y.n))))

/-- Pavane time passes: clocks of waits and handlers that are frozen meanwhile record it, and that of a gang that waits for its slates (R277) begins later. DESIGN CHOICE (assumption 30). -/
def State.elapse (s : State) (n : Nat) : State :=
  let hold (t : Thread) : Thread :=
    let halt := s.anyHalted t
    let t := if halt || s.needsParked t then
        (match t.run with | .waiting w => { t with run := .waiting { w with frozen := w.frozen + n } } | _ => t) else t
    if halt || t.isParked then { t with handler := t.handler.map (fun h => { h with frozen := h.frozen + n }) } else t
  let stopped (uid : Nat) : Bool := ((s.thread? uid).map s.anyHalted).getD false
  let still (g : Gang) : Bool := ((s.region? g.region).map (·.dbg.any (·.halted))).getD false || s.slatesParked g
  { s.mapThreads hold with
    time := s.time + n, gangs := s.gangs.map (fun g => if g.wait.isSome && still g then { g with wait := g.wait.map (· + n) } else g), colls := s.colls.map (fun c => if stopped c.uid then { c with frozen := c.frozen + n } else c) }

/-- R358: read the count; how far it has moved since the last reading is a free value. DESIGN CHOICE (assumption 30). -/
def State.readClock (s : State) : Dword × State :=
  let s := (s.elapse (Config.clockAdvance s.fresh)).bump
  (BitVec.ofNat 64 s.time, s)

end Sys2Proof.Machine
end

