-- ==== Sys2Proof/Machine/Control.lean ====
section
/-! DEFINITION. The control instructions (R59, R80 to R96). -/
namespace Sys2Proof.Machine

/-- What a meaning answers: these never stop the machine. -/
abbrev Out := Host.Outcome State Fault Refusal

/-- R44: a target is the address of the instruction's first syllable plus LIT32. -/
def litTarget (s : State) (o : LOps) : Dword := s.me.pc + (o.lit.getD 0).signExtend 64

/-! ### Branches and calls (R82, R83, R89) -/

def nopOp (i : Checks) : State → State := completes i id
def braOp (i : Checks) (o : LOps) : State → State := issue i (fun s => s.transferTo (litTarget s o) true (State.goto (litTarget s o)))
def jmpOp (i : Checks) (o : LOps) : State → State := issue i (fun s => s.transferTo (s.me.rd2 o.a) true (State.goto (s.me.rd2 o.a)))

/-- A relaxed access of the issuing thread at `.TH` to 8 bytes of its call stack, which the memory at `pa` backs. -/
def State.stackOp (s : State) (a : Nat) (data : List (Option Byte)) (pa : Nat) : MemOp :=
  { id := s.fresh, uid := s.me.uid, core := s.me.core, part := s.me.part, pc := s.me.pc, psn := s.me.psn, kind := .store false, space := .prv s.me.uid,
    segs := [(a, 8)], data := data, scope := .th, ord := .rlx, evict := 0, tag := none, back := pa, issued := s.cycle }
/-- R83: push the return address, after the target check. A push below 0 or past the private size raises the bounds trap (R174). -/
def State.pushCall (i : Checks) (a : Dword) (s : State) : State :=
  let sp := s.me.stk - 8
  if s.me.stk.toNat < 8 ∨ s.me.privSize < sp.toNat + 8 then s.trap 13 (sp.setWidth 64) 0
  else match s.translate (s.me.privVa sp.toNat) .write with
    | (.ok pa, s) =>
      ((s.push (s.stackOp sp.toNat ((natBytes 8 (nextStart s.me.pc i.syl).toNat).map some) pa)).upd (fun t => { t with stk := sp })).goto a
    | (r, s) => s.untranslated (s.me.privVa sp.toNat) .write r
def callOp (i : Checks) (o : LOps) : State → State := issue i (fun s => s.transferTo (litTarget s o) true (State.pushCall i (litTarget s o)))
def calliOp (i : Checks) (o : LOps) : State → State := issue i (fun s => s.transferTo (s.me.rd2 o.a) true (State.pushCall i (s.me.rd2 o.a)))

/-- R83: pop. The target must be an instruction start; its TGT bit is not consulted. -/
def retOp (i : Checks) : State → State :=
  issue i (fun s =>
    let sp := s.me.stk
    if s.me.privSize < sp.toNat + 8 then s.trap 13 (sp.setWidth 64) 0
    else match s.translate (s.me.privVa sp.toNat) .read with
      | (.ok pa, s) =>
        let a : Dword := BitVec.ofNat 64 (bytesNat (s.forward (s.stackOp sp.toNat [] pa) sp.toNat (s.prvRead s.me.uid sp.toNat 8)))
        s.transferTo a false (fun s => (s.upd (fun t => { t with stk := sp + 8 })).goto a)
      | (r, s) => s.untranslated (s.me.privVa sp.toNat) .read r)

/-- R89. -/
def brdecOp (i : Checks) (o : LOps) : State → State :=
  issue i (fun s =>
    let v := s.me.rd o.a - 1
    let t := litTarget s o
    if v = 0 then (s.wr o.d v).advance i
    else s.transferTo t true (fun s => (s.wr o.d v).goto t))

/-! ### Ending, yielding, napping (R84, R85) -/

def exitOp (i : Checks) : State → State := issue i State.endThread
/-- R85: the thread stands aside at the next instruction; a reservation is cleared (R221). -/
def State.standAside (i : Checks) (k : WaitKind) (limit : Option Nat) (s : State) : State :=
  (s.advance i).upd (fun t => { t with run := .waiting { kind := k, since := s.time, limit := limit }, resv := none })
def yieldOp (i : Checks) : State → State := issue i (fun s => s.cancelPoint (State.standAside i .yielded none))
/-- R85: the count of `NAP`, from LIT32 or register B, limited to 65,535. -/
def napOp (i : Checks) (o : LOps) : State → State :=
  issue i (fun s =>
    let c := Nat.min 65535 (o.lit.getD (s.me.rd o.b)).toNat
    if c = 0 then s.advance i else s.standAside i .nap (some c))

/-! ### Collectives without data (R86 to R88) -/

/-- R86. -/
def convOp (i : Checks) (o : LOps) : State → State :=
  issue i (fun s => s.cancelPoint (fun s =>
    s.rendezvous .conv (match o.lit with | some l => l.setWidth 64 | none => s.me.rd2 o.a) i.syl))

/-- The thread has accesses that have not performed or releases that are held. -/
def State.busy (s : State) : Bool := s.ops.any (·.uid == s.me.uid) || s.holds.any (·.op.uid == s.me.uid)

/-- R87: a release by each member at `.GRP`, so a member arrives once its own accesses have performed. -/
def barGrpOp (i : Checks) : State → State :=
  issue i (fun s => s.cancelPoint (fun s =>
    if s.ops.any (·.uid == s.me.uid) then s.await .order
    else s.rendezvous .barGrp (((s.group? s.me).map (·.started)).getD 0) i.syl))

/-- The bit that a participant presented. -/
def bitsOn (ps : List (Nat × Nat × List Dword)) : List Bool := ps.map (fun p => p.2.2.headD 0 != 0)

/-- R88, R38: a participant takes the branch: its ordinal rises, also where the target check fails; while the line of the target is waited for, nothing happens. -/
def State.branchTo (s : State) (t : Dword) : State :=
  let up := s.upd (fun x => { x with ord := x.ord + 1 })
  match (s.checkTarget t true).1 with
  | .held | .park => s.transferTo t true id
  | _ => up.transferTo t true (State.goto t)
/-- R88: every participant's ordinal rises, and all take the same direction. -/
def brvOp (i : Checks) (o : LOps) (m : CtlMod) : State → State :=
  issue i (fun s => s.cancelPoint (fun s =>
    let mask := if o.b = 0 then ((s.group? s.me).map (·.started)).getD 0 else s.me.rd2 o.b
    let t := litTarget s o
    s.collective .coll mask false [if s.me.pred (o.a.setWidth 3) then 1 else 0] (fun ps s =>
      let c := if m.sub = 0 then (bitsOn ps).any id else if m.sub = 1 then (bitsOn ps).all id else !(bitsOn ps).any id
      if c then s.branchTo t else s.passed i.syl)))

/-! ### Guard slots (R79, R90) -/

def slotOf (r : Reg) : Fin 16 := ⟨r.toNat % 16, Nat.mod_lt _ (by decide)⟩
def State.setSlot (s : State) (k : Fin 16) (v : Option Bool) : State :=
  s.mapGroup s.me (fun g => { g with guards := g.guards.set k v })
def State.slot (s : State) (k : Fin 16) : Option Bool := ((s.group? s.me).map (fun g => g.guards[k])).join

/-- R90. -/
def guardSetOp (i : Checks) (o : LOps) : State → State :=
  issue i (fun s =>
    let k := slotOf o.d
    let v := s.me.pred (o.a.setWidth 3)
    match s.slot k with
    | none => ((s.setSlot k (some v)).resolveSlot s.me.gkey (BitVec.ofNat 4 k) v).advance i
    | some u => if u = v then s.advance i else s.trap 9 0 (BitVec.ofNat 64 k))

/-- R90, R79: a command queued under the slot has not taken its value: it stands in a copy or stream queue, or its matrix work is not
committed. -/
def State.slotBusy (s : State) (g : GKey) (k : BitVec 4) : Bool :=
  s.copies.any (fun c => !c.started && c.st.live && s.gkeyOf c.uid == g && c.gs == some k) ||
  s.streams.any (fun c => c.done == 0 && c.st == .queued && s.gkeyOf c.uid == g && c.o.gs == some k) ||
  s.matrix.any (fun c => c.g == g && c.gs == some k) || s.shadows.any (fun x => x.g == g && x.slot == k)
def guardClrOp (i : Checks) (o : LOps) : State → State :=
  issue i (fun s =>
    let k := slotOf o.d
    if s.slotBusy s.me.gkey (BitVec.ofNat 4 k) then s.await .guardSlot else (s.setSlot k none).advance i)

/-! ### Predicates (R91) -/

def plogFn (sub : BitVec 4) (a b : Bool) : Bool :=
  match sub.toNat with
  | 0 => a && b
  | 1 => a || b
  | 2 => a ^^ b
  | _ => a && !b
def plogOp (i : Checks) (o : LOps) (m : CtlMod) : State → State :=
  completes i (fun s => s.setPred (o.d.setWidth 3) (plogFn m.sub (s.me.pred (o.a.setWidth 3)) (s.me.pred (o.b.setWidth 3))))
def pmovRdOp (i : Checks) (o : LOps) : State → State := completes i (fun s => s.wr o.d (s.me.predByte.setWidth 32))
/-- R91: the predicates named by the mask take the bits of A; p0 takes none. -/
def pmovWrOp (i : Checks) (o : LOps) : State → State :=
  completes i (fun s =>
    let mask : BitVec 8 := (o.lit.getD (s.me.rd o.b)).setWidth 8 &&& 0xFE
    let v : BitVec 8 := (s.me.rd o.a).setWidth 8
    s.upd (fun t => { t with preds := (t.preds &&& ~~~ mask) ||| (v &&& mask) }))

/-! ### Special registers (R92, R93) -/

def CoreClass.code : CoreClass → Nat
  | .a => 0 | .b => 1 | .c => 2 | .d => 3
def Thread.width (s : State) (t : Thread) : Nat := ((s.group? t).map (·.width)).getD 8
/-- R65: `sr.msk`: the started membership, with bit 63 set where a group of width 32 or less holds padding. -/
def Group.mskReg (g : Group) : Dword := if g.pad ∧ g.width ≤ 32 then g.started ||| (1#64 <<< 63) else g.started

/-- R92: the value of a special register; `sr.time` is read as `TIME.RD` does (R358). -/
def State.sread (s : State) (r : SReg) : Dword × State :=
  let t := s.me
  let w (n : Nat) : Dword × State := (BitVec.ofNat 64 n, s)
  let g := s.gang? t.gang
  match r with
  | .tid => w t.tid
  | .gid => w t.gid
  | .gw => w (t.width s)
  | .lane => w t.lane
  | .part => w t.part
  | .core => w (t.core % 64)
  | .vdie => w ((g.map (·.vdie)).getD 0)
  | .cls => w (((s.core? t.core).bind (·.cls)).map CoreClass.code |>.getD 0)
  | .ord => (t.ord.setWidth 64, s)
  | .recAddr => ((g.map (·.recAddr)).getD 0, s)
  | .nrec => w ((g.map (·.nrec)).getD 0)
  | .depth => w ((g.map (·.depth)).getD 0)
  | .time => s.readClock
  | .region => w (s.regionNum t)
  | .fcr => (t.fcr.setWidth 64, s)
  | .fsr => (t.fsr.setWidth 64, s)
  | .stk => (t.stk.setWidth 64, s)
  | .qturn => w (((s.group? t).map (·.qturn)).getD 0)
  | .trapf => (t.trapf, s)
  | .msk => (((s.group? t).map Group.mskReg).getD 0, s)
  | .asid => (t.asid.setWidth 64, s)
  | .ptel => (t.ptel, s)
  | .audit => ((((s.regionOf t).map Region.audit).getD 0).setWidth 64, s)
  | .wdog => ((((s.regionOf t).map Region.wdog).getD 0).setWidth 64, s)

/-- R93: an SFU or conversion result of the thread has not arrived. DEDUCED (assumption 71). -/
def Thread.queued (t : Thread) : Bool := t.prods.any (·.queue)

/-- DEDUCED (assumption 71). -/
def sreadOp (i : Checks) (o : LOps) (m : CtlMod) : State → State :=
  issue i (fun s =>
    match SReg.ofCode m.sel with
    | none => s.trap 1 0 0
    | some r =>
      if (r = .fcr ∨ r = .fsr) ∧ s.me.queued then s.await .order
      else
        let (v, s) := s.sread r
        ((if r.wide then s.wr2 o.d v else s.wr o.d (v.setWidth 32))).advance i)

/-- R120, R121, R92: what a write leaves of the read-only and reserved bits. -/
def fcrWrite (old v : Word) : Word := (v &&& 0x003FFFF7) ||| (old &&& 0x00400000)

/-- R92, R93, R176: a write of a special register; an invalid layout descriptor is an illegal instruction. -/
def State.swrite (s : State) (r : SReg) (v : Dword) : Option State :=
  let w : Word := v.setWidth 32
  match r with
  | .fcr => some (s.upd (fun t => { t with fcr := fcrWrite t.fcr w }))
  | .fsr => some (s.upd (fun t => { t with fsr := w &&& 0x3F }))
  | .stk => some (s.upd (fun t => { t with stk := w &&& 0xFFFFFFF8 }))
  | .trapf => some (s.upd (fun t => { t with trapf := v &&& 0xFFFFFFFFFFFFFFC0 }))
  | .asid => some (s.upd (fun t => { t with asid := w }))
  | .ptel => if ptValid v then some (s.upd (fun t => { t with ptel := v })) else none
  | .audit => some (s.mapRegion (s.regionNum s.me) (fun r => { r with audit := w }))
  | .wdog => some (s.mapRegion (s.regionNum s.me) (fun r => { r with wdog := w }))
  | _ => none
/-- DEDUCED (assumption 71). -/
def swriteOp (i : Checks) (o : LOps) (m : CtlMod) : State → State :=
  issue i (fun s =>
    match SReg.ofCode m.sel with
    | none => s.trap 1 0 0
    | some r =>
      if (r = .fcr ∨ r = .fsr) ∧ s.me.queued then s.await .order
      else match s.swrite r (if r.wide then s.me.rd2 o.a else (s.me.rd o.a).setWidth 64) with
        | some s => s.advance i
        | none => s.trap 1 0 0)

/-! ### Instruction prefetch, full and empty bits (R94, R95) -/

/-- R94: fill instruction lines; a request that would fault is dropped. No architectural state changes. DESIGN CHOICE (assumption 77). -/
def State.prefetchLines (s : State) (a : Dword) : Nat → State
  | 0 => s
  | k + 1 =>
    match s.fetch a with
    | (.line _, s) => s.prefetchLines (a + 64) k
    | _ => s
/-- DESIGN CHOICE (assumption 77). -/
def ipref (i : Checks) (o : LOps) (m : CtlMod) : State → State :=
  issue i (fun s =>
    let a := match o.lit with | some _ => litTarget s o | none => s.me.rd2 o.a
    ((if a.toNat % 4 = 0 then s.prefetchLines a (m.sub.toNat + 1) else s)).advance i)

/-- R95. -/
def feSetOp (i : Checks) (o : LOps) (m : CtlMod) : State → State :=
  issue i (fun s =>
    let rs := regGroup o.d (if m.sub.getLsbD 1 then 2 else 1)
    if m.sub.getLsbD 0 then
      match rs.find? s.me.pending with
      | some r => s.trap 6 0 (r.setWidth 64)
      | none => (s.upd (fun t => rs.foldl (fun t r => if r = 0 then t else { t with fe := t.fe.set r.toNat false }) t)).advance i
    else (s.upd (fun t => rs.foldl Thread.refill t)).advance i)
def feTestOp (i : Checks) (o : LOps) (m : CtlMod) : State → State :=
  completes i (fun s => s.setPred (o.d.setWidth 3) ((regGroup o.a (if m.sub = 0 then 1 else 2)).all s.me.full))

/-! ### The meanings that `exec` calls -/

def execNop (o : LOps) (m : CtlMod) (s : State) : Out := .next (nopOp (Instr.nop o m).checks s)
def execBra (o : LOps) (m : CtlMod) (s : State) : Out := .next (braOp (Instr.bra o m).checks o s)
def execJmp (o : LOps) (m : CtlMod) (s : State) : Out := .next (jmpOp (Instr.jmp o m).checks o s)
def execCall (o : LOps) (m : CtlMod) (s : State) : Out := .next (callOp (Instr.call o m).checks o s)
def execCalli (o : LOps) (m : CtlMod) (s : State) : Out := .next (calliOp (Instr.calli o m).checks o s)
def execRet (o : LOps) (m : CtlMod) (s : State) : Out := .next (retOp (Instr.ret o m).checks s)
def execExit (o : LOps) (m : CtlMod) (s : State) : Out := .next (exitOp (Instr.exit o m).checks s)
def execYield (o : LOps) (m : CtlMod) (s : State) : Out := .next (yieldOp (Instr.yield o m).checks s)
def execConv (o : LOps) (m : CtlMod) (s : State) : Out := .next (convOp (Instr.conv o m).checks o s)
def execBarGrp (o : LOps) (m : CtlMod) (s : State) : Out := .next (barGrpOp (Instr.barGrp o m).checks s)
def execGuardSet (o : LOps) (m : CtlMod) (s : State) : Out := .next (guardSetOp (Instr.guardSet o m).checks o s)
def execGuardClr (o : LOps) (m : CtlMod) (s : State) : Out := .next (guardClrOp (Instr.guardClr o m).checks o s)
def execPlog (o : LOps) (m : CtlMod) (s : State) : Out := .next (plogOp (Instr.plog o m).checks o m s)
def execPmovRd (o : LOps) (m : CtlMod) (s : State) : Out := .next (pmovRdOp (Instr.pmovRd o m).checks o s)
def execPmovWr (o : LOps) (m : CtlMod) (s : State) : Out := .next (pmovWrOp (Instr.pmovWr o m).checks o s)
def execSread (o : LOps) (m : CtlMod) (s : State) : Out := .next (sreadOp (Instr.sread o m).checks o m s)
def execSwrite (o : LOps) (m : CtlMod) (s : State) : Out := .next (swriteOp (Instr.swrite o m).checks o m s)
def execBrdec (o : LOps) (m : CtlMod) (s : State) : Out := .next (brdecOp (Instr.brdec o m).checks o s)
def execBrv (o : LOps) (m : CtlMod) (s : State) : Out := .next (brvOp (Instr.brv o m).checks o m s)
def execNap (o : LOps) (m : CtlMod) (s : State) : Out := .next (napOp (Instr.nap o m).checks o s)
def execIpref (o : LOps) (m : CtlMod) (s : State) : Out := .next (ipref (Instr.ipref o m).checks o m s)
def execFeSet (o : LOps) (m : CtlMod) (s : State) : Out := .next (feSetOp (Instr.feSet o m).checks o m s)
def execFeTest (o : LOps) (m : CtlMod) (s : State) : Out := .next (feTestOp (Instr.feTest o m).checks o m s)
def execNopS32 (o : SOps) (s : State) : Out := .next (nopOp (Instr.nop o.long (.s 0)).checks.short s)
def execExitS32 (o : SOps) (s : State) : Out := .next (exitOp (Instr.exit o.long (.s 0)).checks.short s)
def execYieldS32 (o : SOps) (s : State) : Out := .next (yieldOp (Instr.yield o.long (.s 0)).checks.short s)
def execConvS32 (o : SOps) (s : State) : Out := .next (convOp (Instr.conv o.long (.s 0)).checks.short o.long s)
def execRetS32 (o : SOps) (s : State) : Out := .next (retOp (Instr.ret o.long (.s 0)).checks.short s)
def execBarGrpS32 (o : SOps) (s : State) : Out := .next (barGrpOp (Instr.barGrp o.long (.s 0)).checks.short s)
def execGuardSetS32 (o : SOps) (s : State) : Out := .next (guardSetOp (Instr.guardSet o.long (.s 0)).checks.short o.long s)
def execGuardClrS32 (o : SOps) (s : State) : Out := .next (guardClrOp (Instr.guardClr o.long (.s 0)).checks.short o.long s)
def execPlogAndS32 (o : SOps) (s : State) : Out := .next (plogOp (Instr.plog o.long (.s 0)).checks.short o.long (.s 0) s)
def execPlogOrS32 (o : SOps) (s : State) : Out := .next (plogOp (Instr.plog o.long (.s 1)).checks.short o.long (.s 1) s)
def execPlogXorS32 (o : SOps) (s : State) : Out := .next (plogOp (Instr.plog o.long (.s 2)).checks.short o.long (.s 2) s)
def execPlogAndnS32 (o : SOps) (s : State) : Out := .next (plogOp (Instr.plog o.long (.s 3)).checks.short o.long (.s 3) s)

end Sys2Proof.Machine
end

