-- ==== Sys2Proof/Machine/Mem.lean ====
section
/-! DEFINITION. The memory instructions (R171 to R200), and how an instruction of any memory row finds its place: effective address,
alignment, bounds, parcel, translation, physical map (R172, R192, R335). -/
namespace Sys2Proof.Machine

/-! ### The region tree and parcels (R302, R331 to R335) -/

/-- Region `r` is `anc` or a descendant of it (R321). -/
def State.within (s : State) (anc : Nat) : Nat → Nat → Bool
  | 0, r => r == anc
  | k + 1, r => r == anc || (match s.region? r with | some x => x.parent ≠ 0 ∧ s.within anc k x.parent | none => false)
def State.reaches (s : State) (anc r : Nat) : Bool := s.within anc s.regions.length r

/-- R332: the parts of a handle. -/
def handleChip (h : Dword) : BitVec 16 := h.extractLsb' 48 16
def handleNum (h : Dword) : Nat := (h.extractLsb' 24 24).toNat
def handleGen (h : Dword) : Nat := (h.extractLsb' 0 24).toNat

/-- The entry of a number (R332). -/
def State.parcel (s : State) (num : Nat) : Parcel :=
  (s.parcels.find? (·.num = num)).getD
    { num := num, gen := 0, st := .free, lsz := 0, region := 0, base := 0, map := [], schip := 0, dchip := 0, dwin := 0, key := 0,
      sealing := none, charge := 0, dropped := false }
def State.setParcel (s : State) (p : Parcel) : State := { s with parcels := p :: s.parcels.filter (·.num ≠ p.num) }

/-- R331: where the reference map begins. -/
def Parcel.mapOff (p : Parcel) : Nat := 2 ^ p.lsz - 2 ^ p.lsz / 64

/-- The first four checks of R335; a failure is a detail of the parcel-handle trap. -/
def State.ownParcel (s : State) (h : Dword) : Except Nat Parcel :=
  let p := s.parcel (handleNum h)
  if handleChip h ≠ s.chip then .error 1
  else if p.st = .free ∨ p.num = 0 then .error 2
  else if p.gen ≠ handleGen h then .error 3
  else if !s.reaches p.region (s.regionNum s.me) then .error 4
  else .ok p

/-- R335: the checks of an access of `n` bytes at offset `o`: a trap's cause and detail, or the physical address, which no page table maps (R331). DESIGN CHOICE (assumption 89). -/
def State.parcelAddr (s : State) (h : Dword) (o : Int) (n : Nat) (write : Bool) : Except (Nat × Nat) Nat :=
  match s.ownParcel h with
  | .error d => .error (26, d)
  | .ok p =>
    if p.st ≠ .opened ∧ p.st ≠ .sealed then .error (27, 0)
    else if (2 ^ p.lsz : Nat) < o + n then .error (28, 1)
    else if o < 64 ∨ p.mapOff < o + n then .error (13, 0)
    else if write ∧ p.st ≠ .opened then .error (26, 5)
    else .ok (p.base + o.toNat)

/-! ### Finding the place of an access (R172, R192) -/

/-- R172: the offset of a parcel access, which does not wrap (R6). -/
def State.parcelOff (s : State) (o : LOps) : Int := (if o.b = 0 then 0 else (s.me.rd2 o.b).toNat : Int) + (o.lit.getD 0).toInt
/-- R172: the address a memory operand names: a virtual address, or an offset in the other spaces; of a parcel offset, its low 64 bits. -/
def State.effAddr (s : State) (sp : Space) (o : LOps) : Dword :=
  let off : Dword := (o.lit.getD 0).signExtend 64
  match sp with
  | .glb => s.me.rd2 o.a + off
  | .scr | .prv => (s.me.rd o.a + o.lit.getD 0).setWidth 64
  | .par => BitVec.ofInt 64 (s.parcelOff o)
/-- R172, R6: the same as an exact number. -/
def State.exactAddr (s : State) (sp : Space) (o : LOps) : Int := if sp = .par then s.parcelOff o else (s.effAddr sp o).toNat

/-- Where an access goes: byte ranges of a space, in order, and the physical address that backs those of the private space (R174). -/
structure Spot where
  space : OpSpace
  segs : List (Nat × Nat)
  back : Nat := 0
  deriving DecidableEq, Repr

/-- R175, R398: physical ranges that an access reaches: unpopulated addresses, and words in error that it would read, take the machine check. DESIGN CHOICE (assumption 26). -/
def State.physCheck (s : State) (va : Dword) (segs : List (Nat × Nat)) (reads : Bool) (p : Spot) : Except State (Spot × State) :=
  if segs.any (fun x => s.physKind x.1 = .bad) then .error (s.trap 5 va 3)
  else if reads && segs.any (fun x => s.inError x.1 x.2 || s.l1Struck s.me.core x.1 x.2) then .error (s.trap 5 va 2)
  else .ok (p, s)
/-- R192 steps 5 and 6: translate `n` bytes at virtual address `a`, which may lie on two pages, and look at the physical ranges; `spot` is the place that they give. -/
def State.mapRange (s : State) (a : Dword) (n : Nat) (acc : Acc) (reads : Bool) (spot : List (Nat × Nat) → Spot) : Except State (Spot × State) :=
  match s.translate a acc with
  | (.ok pa, s) =>
    let n1 := Nat.min n (4096 - a.toNat % 4096)
    if n1 = n then s.physCheck a [(pa, n)] reads (spot [(pa, n)])
    else
      let a2 := a + BitVec.ofNat 64 n1
      match s.translate a2 acc with
      | (.ok pb, s) => s.physCheck a [(pa, n1), (pb, n - n1)] reads (spot [(pa, n1), (pb, n - n1)])
      | (r, s) => .error (s.untranslated a2 acc r)
  | (r, s) => .error (s.untranslated a acc r)

/-- R192 steps 3 to 6 for an access of `n` bytes at `a`, in a parcel at the exact offset `off`. `reads` says that the access returns memory's bytes. -/
def State.locate (s : State) (sp : Space) (h a : Dword) (n : Nat) (aligned : Bool) (acc : Acc) (reads : Bool) (off : Int := a.toNat) :
    Except State (Spot × State) :=
  if aligned && a.toNat % n != 0 then .error (s.trap 12 a 0)
  else match sp with
  | .scr =>
    if ((s.pad? s.me.gang s.me.core).map (·.size)).getD 0 < a.toNat + n then .error (s.trap 13 a 0)
    else if reads && s.scratchStruck s.me.gang s.me.core a.toNat n then .error (s.trap 5 a 2)
    else .ok ({ space := .scr s.me.gang s.me.core, segs := [(a.toNat, n)] }, s)
  | .prv =>
    if s.me.privSize < a.toNat + n then .error (s.trap 13 a 0)
    else s.mapRange (s.me.privVa a.toNat) n acc reads (fun x => { space := .prv s.me.uid, segs := [(a.toNat, n)], back := (x.headD (0, 0)).1 })
  | .par =>
    match s.parcelAddr h off n (acc == .write) with
    | .error (c, d) => .error (s.trap c a (BitVec.ofNat 64 d))
    | .ok pa => s.physCheck a [(pa, n)] reads { space := .glb, segs := [(pa, n)] }
  | .glb => s.mapRange a n acc reads (fun x => { space := .glb, segs := x })

/-- R229: the thread's program sequence number rises for an instruction. DEDUCED (assumption 21). -/
def State.tally (s : State) : State := s.upd (fun t => { t with psn := t.psn + 1 })
/-- An instruction of the thread accesses memory: a reservation of the thread has seen another access (R221). -/
def Resv.crossed (r : Resv) : Resv := { r with other := true }
/-- DEDUCED (assumption 21). -/
def State.event (s : State) : State := s.upd (fun t => { t with psn := t.psn + 1, resv := t.resv.map Resv.crossed })

/-- A pending access of the issuing thread. DESIGN CHOICE (assumption 8). -/
def State.newOp (s : State) (kind : OpKind) (sp : OpSpace) (segs : List (Nat × Nat)) (data : List (Option Byte)) (scope : Scope) (ord : Ord)
    (evict : Nat) (tag : Option Nat) : MemOp :=
  { id := s.fresh, uid := s.me.uid, core := s.me.core, part := s.me.part, pc := s.me.pc, psn := s.me.psn, kind := kind, space := sp,
    segs := segs, data := data, scope := scope, ord := ord, evict := evict, tag := tag, issued := s.cycle }

/-! ### Loads (R193) -/

/-- Registers an access of `n` bytes takes (R191). -/
def regsOf (n : Nat) : Nat := if n ≤ 4 then 1 else n / 4

/-- DESIGN CHOICE (assumption 8). -/
def loadOp (i : Checks) (o : LOps) (m : MemMod) (sx aligned : Bool) : State → State :=
  issue i (fun s =>
    let n := 2 ^ m.size.toNat
    match s.locate m.space (s.me.rd2 o.a) (s.effAddr m.space o) n aligned .read true (s.exactAddr m.space o) with
    | .error s => s
    | .ok (p, s) =>
      let x := s.newOp (.load sx) p.space p.segs [] m.scope m.ord m.evict.toNat (some s.fresh)
      (((s.produce o.d (regsOf n) none).push { x with id := x.id + 1, va := s.effAddr m.space o, back := p.back, split := !aligned }).event).advance i)
def ldOp (i : Checks) (o : LOps) (m : MemMod) : State → State := loadOp i o m false true
def ldSxOp (i : Checks) (o : LOps) (m : MemMod) : State → State := loadOp i o m true true
def lduOp (i : Checks) (o : LOps) (m : MemMod) : State → State := loadOp i o m false false

/-! ### Stores (R194) -/

/-- A store of the bytes `data` gives; the bytes it does not give stay. DESIGN CHOICE (assumption 8). -/
def storeOp (i : Checks) (o : LOps) (m : MemMod) (data : State → List (Option Byte)) : State → State :=
  issue i (fun s =>
    let bs := data s
    match s.locate m.space (s.me.rd2 o.a) (s.effAddr m.space o) bs.length true .write false (s.exactAddr m.space o) with
    | .error s => s
    | .ok (p, s) => ((s.push { s.newOp (.store false) p.space p.segs bs m.scope m.ord m.evict.toNat none with back := p.back }).event).advance i)
/-- The bytes of the data registers of a store of `n` bytes. -/
def Thread.dataBytes (t : Thread) (r : Reg) (n : Nat) : List Byte := (wordsBytes (t.rds r (regsOf n))).take n
def stOp (i : Checks) (o : LOps) (m : MemMod) : State → State :=
  storeOp i o m (fun s => (s.me.dataBytes o.c (2 ^ m.size.toNat)).map some)
def stzOp (i : Checks) (o : LOps) (m : MemMod) : State → State :=
  storeOp i o m (fun _ => List.replicate (2 ^ m.size.toNat) (some 0))
/-- R194: byte k is written where mask bit k is set; the mask is a pair for 64 bytes. -/
def maskedBytes (mask : Nat) (bs : List Byte) : List (Option Byte) :=
  (List.range bs.length).map (fun k => if mask.testBit k then some (bs.getD k 0) else none)
def stmOp (i : Checks) (o : LOps) (m : MemMod) : State → State :=
  storeOp i o m (fun s =>
    let n := 2 ^ m.size.toNat
    maskedBytes (if n = 64 then (s.me.rd2 o.b).toNat else (s.me.rd o.b).toNat) (s.me.dataBytes o.c n))

/-! ### Prefetch, cache control (R195 to R198) -/

/-- R195: fill a line; what would fault, park or trap is dropped, with all that its translation did. -/
def State.prefetch (s : State) (a : Dword) (scope : Scope) (evict : Nat) : State :=
  match s.translate a .read with
  | (.ok pa, s') =>
    if s'.physKind pa = .bad ∨ s'.inError (pa / 64 * 64) 64 ∨ s'.lineHeld (pa / 64) then s
    else if scope.code ≤ 2 ∧ evict ≠ 7 ∧ !s'.isCounted (pa / 64) then s'.fillL1 s.me.core s.me.part (pa / 64) s.myCause
    else s'.l2Read s.me.die (pa / 64 * 64) 64 s.myCause
  | _ => s
def prefOp (i : Checks) (o : LOps) (m : MemMod) : State → State :=
  completes i (fun s => (s.prefetch (s.effAddr .glb o) m.scope m.evict.toNat).event)

/-- Some L1 or L2 holds the line dirty (R196, R249). DESIGN CHOICE (assumption 24). -/
def State.dirtyAnywhere (s : State) (line : Nat) : Bool :=
  s.cores.any (fun c => c.l1.any (fun l => l.line == line && l.dirty != 0)) ||
  (match (s.lineState line).owner with | .writer _ m => m | .readers _ _ o => o | _ => false)
/-- R196: a line that takes a read count is held at its home die alone. -/
def State.holdAtHome (s : State) (line : Nat) (c : Cause) : State :=
  let d := s.homeDie (line * 64)
  let s := match (s.lineState line).owner with
    | .writer d' _ => if d' = d then s else s.grant line (.writer d false) c
    | _ => s.grant line (.writer d false) c
  { s with cores := s.cores.map (fun k => if k.id / 64 = d then k else { k with l1 := k.l1.filter (·.line ≠ line) }) }
/-- R196: the line takes a read count at its home die; one that is dirty is prefetched at `.DIE` scope, and Thatch-direct storage takes none. A line of host memory has no
home die, and nothing happens. DESIGN CHOICE (assumption 24). -/
def State.countLine (s : State) (line n : Nat) : State :=
  match s.physKind (line * 64) with
  | .dram _ =>
    if s.dirtyAnywhere line then s.l2Read s.me.die (line * 64) 64 s.myCause
    else
      let s := s.holdAtHome line s.myCause
      { s with counted := { line := line, left := n, last := none } :: s.counted.filter (·.line ≠ line) }
  | _ => s
/-- A held line is waited for (R230); faults are dropped as R195 has it. DESIGN CHOICE (assumption 24). -/
def prefCntOp (i : Checks) (o : LOps) : State → State :=
  issue i (fun s =>
    if o.d = 0 then s.trap 1 0 0
    else match s.translate (s.effAddr .glb o) .read with
      | (.ok pa, s') =>
        if s'.physKind pa = .bad ∨ s'.inError (pa / 64 * 64) 64 then s.event.advance i
        else if s'.lineHeld (pa / 64) then s.await .order
        else ((s'.countLine (pa / 64) o.d.toNat).event).advance i
      | (.held, _) => s.await .order
      | _ => s.event.advance i)

/-- The thread has stores to the line that have not performed. -/
def State.storesTo (s : State) (line : Nat) : Bool :=
  s.ops.any (fun x => x.uid == s.me.uid && x.isWrite && x.space == .glb && x.segs.any (fun y => (linesOf y.1 y.2).contains line))
/-- DESIGN CHOICE (assumption 24). -/
def State.stores (s : State) : Bool := s.ops.any (fun x => x.uid == s.me.uid && x.isWrite)

/-- R41: the invalidation of the instruction cache follows the thread's earlier acquires. DESIGN CHOICE (assumption 24). -/
def State.acquiring (s : State) : Bool := s.ops.any (fun x => x.uid == s.me.uid && x.acquires)

/-- A cache operation on the line that holds an address: it translates, and waits for the thread's own stores to the line; one that acts on data (`data`) also waits
while a release holds the line (R230). -/
def lineOp (i : Checks) (o : LOps) (data : Bool) (act : Nat → State → State) : State → State :=
  issue i (fun s =>
    let a := s.effAddr .glb o
    match s.translate a .read with
    | (.ok pa, s) =>
      if s.physKind pa = .bad then s.trap 5 a 3
      else if s.storesTo (pa / 64) || (data && s.lineHeld (pa / 64)) then s.await .order
      else ((act (pa / 64) s).event).advance i
    | (r, s) => s.untranslated a .read r)
/-- An operation on the whole L1: it waits for the thread's own stores, and while a release holds a line that it would write back (R230). -/
def wholeOp (i : Checks) (act : State → State) : State → State :=
  issue i (fun s => if s.stores || s.wbHeld s.me.core then s.await .order else ((act s).event).advance i)

/-- R197. DESIGN CHOICE (assumption 24). -/
def cctlOp (i : Checks) (o : LOps) : State → State :=
  match o.d.toNat with
  | 0 => lineOp i o true (fun l s => s.wbLine s.me.core l s.myCause)
  | 1 => lineOp i o true (fun l s => s.wbInv s.me.core l s.myCause)
  | 2 => wholeOp i (fun s => s.wbAll s.me.core s.myCause)
  | 3 => wholeOp i (fun s => (((s.core? s.me.core).map (·.l1.map (·.line))).getD []).foldl (fun s l => s.wbInv s.me.core l s.myCause) s)
  | 4 => fun s =>
      if s.acquiring then issue i (fun s => s.await .order) s
      else lineOp i o false (fun l s => s.mapCore s.me.core (fun c => { c with icache := c.icache.filter (·.1 ≠ l) })) s
  | _ => issue i (fun s =>
      if s.acquiring then s.await .order
      else ((s.mapCore s.me.core (fun c => { c with icache := [] })).event).advance i)

/-- R198: the line leaves the L1 without write-back, unless a release wrote it. DESIGN CHOICE (assumption 24). DESIGN CHOICE (assumption 76). -/
def cdiscOp (i : Checks) (o : LOps) : State → State :=
  lineOp i o true (fun l s =>
    match s.l1? s.me.core l with
    | some x => if x.rel then s else s.dropL1 s.me.core l
    | none => s)

/-! ### Scratch allocation (R199) -/

/-- The operand of `SALLOC` and `SFREE`. -/
def State.padArg (s : State) (o : LOps) : Nat := (s.me.rd o.a + o.lit.getD 0).toNat
def sallocOp (i : Checks) (o : LOps) : State → State :=
  completes i (fun s =>
    let k := roundUp (s.padArg o) 64
    match s.pad? s.me.gang s.me.core with
    | some p =>
      if k = 0 ∨ p.size < p.dynPtr + k then (s.wr o.d 0xFFFFFFFF).tally
      else ((s.mapPad s.me.gang s.me.core (fun p => { p with dynPtr := p.dynPtr + k })).wr o.d (BitVec.ofNat 32 p.dynPtr)).tally
    | none => (s.wr o.d 0xFFFFFFFF).tally)
def sfreeOp (i : Checks) (o : LOps) : State → State :=
  issue i (fun s =>
    let a := s.padArg o
    match s.pad? s.me.gang s.me.core with
    | some p =>
      if a < p.dynBase ∨ p.dynPtr < a ∨ a % 64 ≠ 0 then s.trap 13 (BitVec.ofNat 64 a) 0
      else ((s.mapPad s.me.gang s.me.core (fun p => { p with dynPtr := a })).tally).advance i
    | none => s.trap 13 (BitVec.ofNat 64 a) 0)

/-! ### PROBE (R200) -/

def pageCode (log : Nat) : Nat := if log = 12 then 0 else if log = 16 then 1 else if log = 21 then 2 else 3
/-- The word of R200 for a present page. -/
def State.probeWord (s : State) (pa log : Nat) (w u x : Bool) : Nat :=
  let dev := decide (s.mbase ≤ pa ∧ pa < s.mbase + 2 ^ 42)
  let td := match s.physKind pa with | .tdir _ _ => true | _ => false
  1 + (if w then 2 else 0) + (if x then 4 else 0) + (if u then 8 else 0) + 16 * pageCode log
    + (if dev then 64 * s.homeDie pa + 256 else 0) + (if td then 512 else 0)
/-- How the translation that `PROBE` reports ends: the word, or a wait or a machine check. -/
inductive ProbeEnd where
  | word (n : Nat)
  | held
  | mchk (detail : Nat)
  deriving DecidableEq, Repr
def State.probe (s : State) (a : Dword) : ProbeEnd × State :=
  match s.cached s.me.core s.me.asid a .read with
  | some e => (.word (s.probeWord (e.pa1 a) e.log e.w e.u e.x), s)
  | none =>
    let (x, seen) := walk s.mem s.tableEntry (s.ptroot s.me) s.me.ptel a
    let s := seen.foldl (fun s b => s.walkRead s.me.die b s.myCause) s
    match x with
    | .leaf l => (.word (s.probeWord (l.frame + a.toNat % 2 ^ l.log) l.log (bitOf l.entry (ptWB s.me.ptel)) (bitOf l.entry (ptUB s.me.ptel))
        (pteExec s.me.ptel l.entry)), s)
    | .held => (.held, s)
    | .mchk d => (.mchk d, s)
    | _ => (.word 1024, s)
/-- A table that cannot be read takes the machine check (R399), which is no fault of the translation. DESIGN CHOICE (assumption 26). -/
def probeOp (i : Checks) (o : LOps) : State → State :=
  issue i (fun s =>
    let a := s.effAddr .glb o
    match s.probe a with
    | (.word n, s) => ((s.wr o.d (BitVec.ofNat 32 n)).tally).advance i
    | (.held, s) => s.await .order
    | (.mchk d, s) => s.trap 5 a (BitVec.ofNat 64 d))

/-! ### The meanings that `exec` calls -/

def execLd (o : LOps) (m : MemMod) (s : State) : Out := .next (ldOp (Instr.ld o m).checks o m s)
def execLdSignExtend (o : LOps) (m : MemMod) (s : State) : Out := .next (ldSxOp (Instr.ldSignExtend o m).checks o m s)
def execSt (o : LOps) (m : MemMod) (s : State) : Out := .next (stOp (Instr.st o m).checks o m s)
def execLdu (o : LOps) (m : MemMod) (s : State) : Out := .next (lduOp (Instr.ldu o m).checks o m s)
def execStz (o : LOps) (m : MemMod) (s : State) : Out := .next (stzOp (Instr.stz o m).checks o m s)
def execStm (o : LOps) (m : MemMod) (s : State) : Out := .next (stmOp (Instr.stm o m).checks o m s)
def execPref (o : LOps) (m : MemMod) (s : State) : Out := .next (prefOp (Instr.pref o m).checks o m s)
def execPrefCnt (o : LOps) (m : MemMod) (s : State) : Out := .next (prefCntOp (Instr.prefCnt o m).checks o s)
def execCctl (o : LOps) (m : MemMod) (s : State) : Out := .next (cctlOp (Instr.cctl o m).checks o s)
def execCdisc (o : LOps) (m : MemMod) (s : State) : Out := .next (cdiscOp (Instr.cdisc o m).checks o s)
def execSalloc (o : LOps) (m : MemMod) (s : State) : Out := .next (sallocOp (Instr.salloc o m).checks o s)
def execSfree (o : LOps) (m : MemMod) (s : State) : Out := .next (sfreeOp (Instr.sfree o m).checks o s)
def execProbe (o : LOps) (m : MemMod) (s : State) : Out := .next (probeOp (Instr.probe o m).checks o s)

end Sys2Proof.Machine
end

