-- ==== Sys2Proof/Machine/Sync.lean ====
section
/-! DEFINITION. Atomics, fences, value waits and barrier objects (R216 to R227). -/
namespace Sys2Proof.Machine

/-- R217: an instruction of this row finds its place for `n` bytes; it never names the private space. -/
def State.point (s : State) (o : LOps) (sp : Space) (n : Nat) (acc : Acc) (reads : Bool)
    (k : Dword → OpSpace → List (Nat × Nat) → State → State) : State :=
  let a := s.effAddr sp o
  match s.locate sp (s.me.rd2 o.a) a n true acc reads (s.exactAddr sp o) with
  | .error s => s
  | .ok (p, s) => k a p.space p.segs s

/-! ### ATOM, RED, ATOM.CAS (R218 to R220) -/

/-- A read-modify-write that performs later; `dst` says that it returns the old value. -/
def atomicOp (i : Checks) (o : LOps) (m : SyncMod) (dst : Bool) (f : State → RmwFn) : State → State :=
  issue i (fun s =>
    let g := f s
    s.point o m.space g.bytes .write true (fun a sp segs s =>
      if dst then
        let x := s.newOp (.rmw g) sp segs [] m.scope m.ord 0 (some s.fresh)
        (((s.produce o.d m.ty.regs none).push { x with id := x.id + 1, va := a }).event).advance i
      else ((s.push { s.newOp (.rmw g) sp segs [] m.scope m.ord 0 none with va := a }).event).advance i))
def intFn (o : LOps) (m : SyncMod) (s : State) : RmwFn := .int m.sub.toNat m.ty (s.me.rdNat o.c m.ty.regs)
def fltFn (o : LOps) (m : SyncMod) (s : State) : RmwFn := .flt m.sub.toNat m.ty (s.me.rdNat o.c m.ty.regs)
def casFn (o : LOps) (m : SyncMod) (s : State) : RmwFn := .cas m.ty (s.me.rdNat o.b m.ty.regs) (s.me.rdNat o.c m.ty.regs)
def atomOp (i : Checks) (o : LOps) (m : SyncMod) : State → State := atomicOp i o m true (intFn o m)
def atomFloatOp (i : Checks) (o : LOps) (m : SyncMod) : State → State := atomicOp i o m true (fltFn o m)
def atomCasOp (i : Checks) (o : LOps) (m : SyncMod) : State → State := atomicOp i o m true (casFn o m)
def redOp (i : Checks) (o : LOps) (m : SyncMod) : State → State := atomicOp i o m false (intFn o m)
def redFloatOp (i : Checks) (o : LOps) (m : SyncMod) : State → State := atomicOp i o m false (fltFn o m)

/-! ### FENCE (R222) -/

/-- A fence takes its place among the thread's accesses; at `.TH` it orders nothing, and Batten still receives it. DEDUCED (assumption 74). -/
def fenceOp (i : Checks) (_ : LOps) (m : SyncMod) : State → State :=
  completes i (fun s => (s.push (s.newOp .fence .glb [] [] m.scope m.ord 0 none)).tally)

/-! ### Accesses that the thread waits for -/

/-- R213, R230: an access at its atomic point that the thread performs itself: it waits until it may perform. DEDUCED (assumption 22). -/
def State.whenAdmitted (s : State) (o : MemOp) (w : WaitKind) (k : State → State) : State :=
  match s.admits o with
  | some s => k s
  | none => s.await w

/-- R221: a link reads at the atomic point, later, and gives the thread a reservation on the line. -/
def ldLinkOp (i : Checks) (o : LOps) (m : SyncMod) : State → State :=
  issue i (fun s => s.point o m.space m.ty.bytes .read true (fun a sp segs s =>
    let x := s.newOp (.rmw (.link m.ty)) sp segs [] m.scope m.ord 0 (some s.fresh)
    let r : Resv := { glb := sp == .glb, line := (segs.headD (0, 0)).1 / 64, size := m.ty.bytes, live := false }
    ((((s.produce o.d m.ty.regs none).push { x with id := x.id + 1, va := a }).event).upd (fun t => { t with resv := some r })).advance i))

/-- R221: the reservation covers an access. -/
def Resv.covers (r : Resv) (sp : OpSpace) (a n : Nat) : Bool := r.live && r.glb == (sp == .glb) && r.line == a / 64 && r.size == n
/-- It waits for the thread's own link. DEDUCED (assumption 22). -/
def stCondOp (i : Checks) (o : LOps) (m : SyncMod) : State → State :=
  issue i (fun s => s.point o m.space m.ty.bytes .write false (fun _ sp segs s =>
    let v := s.me.rdNat o.c m.ty.regs
    let p : BitVec 3 := o.d.setWidth 3
    let (a, n) := segs.headD (0, 0)
    if s.linkPending s.me.uid then s.await .order
    else if (s.me.resv.map (·.covers sp a n)).getD false then
      let x := s.newOp (.rmw (.int 0 m.ty v)) sp segs [] m.scope m.ord 0 none
      s.whenAdmitted x .order (fun s =>
        ((((s.rmwNow x (fun _ => some v)).2.upd (fun t => { t with resv := none })).setPred p true).event).advance i)
    else (((s.upd (fun t => { t with resv := none })).setPred p false).event).advance i))

/-! ### WAIT.VAL (R223) -/

/-- R223: the comparison of two values of `n` bytes. -/
def compareVal (cc : Nat) (sg : Bool) (n x y : Nat) : Bool :=
  let lt : Bool := if sg then decide (asInt n x < asInt n y) else decide (x < y)
  match cc with
  | 0 => x == y | 1 => x != y | 2 => lt | 3 => lt || x == y | 4 => !lt && x != y | _ => !lt

/-- The watchdog limit of a region in ticks (R74); `none` for 0. -/
def Region.limit (r : Region) : Option Nat := if r.wdog = 0 then none else some (r.wdog.toNat * 1024)
def State.wdogLimit (s : State) (t : Thread) : Option Nat := (s.regionOf t).bind (·.limit)

/-- The wait keeps the predicate and the instruction's length, so that a timeout can end it (R223). DEDUCED (assumption 22). -/
def waitValOp (i : Checks) (o : LOps) (m : SyncMod) : State → State :=
  issue i (fun s => s.point o m.space m.ty.bytes .read true (fun _ sp segs s =>
    let x := s.newOp (.rmw (.link m.ty)) sp segs [] m.scope m.ord 0 none
    let (a, n) := segs.headD (0, 0)
    let s := s.upd (fun t => { t with resv := none })
    let wait (s : State) := s.awaitWith { kind := .value, data := [o.d.setWidth 64, BitVec.ofNat 64 i.syl], limit := s.wdogLimit s.me }
    match s.admits x with
    | none => wait s
    | some s1 =>
      let s2 := s1.toPoint sp s1.me.core a n s1.myCause
      if compareVal m.sub.toNat m.ty.signed n (s2.pointRead sp a n) (s2.me.rdNat o.c m.ty.regs) then
        ((((s2.countBatten s2.me.core 0).acquireOf x).setPred (o.d.setWidth 3) true).event).advance i
      else wait s2))

/-! ### Barrier objects (R224 to R227) -/

def objPhase (v : Nat) : Nat := bitsOf v 31 0
def objPend (v : Nat) : Nat := bitsOf v 47 32
def objExpect (v : Nat) : Nat := bitsOf v 63 48
def objScope (v : Nat) : Nat := bitsOf v 66 64
/-- R224: the object's content is valid. -/
def objValid (v : Nat) : Bool :=
  decide (2 ≤ objScope v ∧ objScope v ≤ 5 ∧ 1 ≤ objExpect v ∧ 1 ≤ objPend v ∧ objPend v ≤ objExpect v)
/-- The object with a new phase, count and expectation; its other bits stay. -/
def objWith (v phase pend expect : Nat) : Nat :=
  v / 2 ^ 64 * 2 ^ 64 + expect % 2 ^ 16 * 2 ^ 48 + pend % 2 ^ 16 * 2 ^ 32 + phase % 2 ^ 32
def scopeOf (n : Nat) : Scope :=
  match n with
  | 0 => .th | 1 => .grp | 2 => .core | 3 => .quad | 4 => .die | 5 => .dev | 6 => .host | _ => .fab

/-- An access to a barrier object: a 16-byte read-modify-write at `scope`. DEDUCED (assumption 22). -/
def State.barAccess (s : State) (sp : OpSpace) (segs : List (Nat × Nat)) (scope : Scope) (ord : Ord) : MemOp :=
  s.newOp (.rmw (.cas .n128 0 0)) sp segs [] scope ord 0 none
/-- The object as it stands at its atomic point. -/
def State.barRead (s : State) (sp : OpSpace) (segs : List (Nat × Nat)) : Nat × State :=
  let (a, n) := segs.headD (0, 0)
  let s := s.toPoint sp s.me.core a n s.myCause
  (s.pointRead sp a n, s)
/-- R224: the barrier-state trap, with the object's bits [66:32]. DEDUCED (assumption 23). -/
def State.barTrap (s : State) (a : Dword) (v : Nat) : State := s.trap 22 a (BitVec.ofNat 64 (bitsOf v 66 32))

/-- R226, R227: a barrier instruction leaves the object at a phase. DEDUCED (assumption 23). -/
def State.notePhase (s : State) (sp : OpSpace) (segs : List (Nat × Nat)) (phase : Nat) : State :=
  let a := (segs.headD (0, 0)).1
  { s with phases := { space := sp, a := a, phase := phase } :: s.phases.filter (fun x => !(x.space == sp && x.a == a)) }
/-- R227, R231: a wait by `x` on token `tok` that has observed `phase` is paired with the arrivals of that phase, or the thread takes the containment trap of RULE 11: no arrival gave the
object that phase, so an ordinary store did (R224). An object that no barrier instruction has written is not checked. DEDUCED (assumption 23). -/
def State.paired (s : State) (x : MemOp) (tok : Word) (phase : Nat) : State :=
  let (a, _) := x.segs.headD (0, 0)
  if s.phases.any (fun y => y.space == x.space && y.a == a && y.phase != phase) then
    let at_ := if x.space = .glb then (s.lineState (a / 64)).interval else 0
    let v : Violation :=
      { rule := 11, kind := 0, unit := unitBatten x.core, scope := x.reach, interval := at_, line := x.lineField, pc := x.pc, tid := BitVec.ofNat 32 s.me.tid,
        region := BitVec.ofNat 32 (s.regionNum s.me), expected := tok, observed := BitVec.ofNat 32 phase }
    (s.countBatten x.core 5).contain s.me.uid v
  else s

/-- R225. The trap comes before an armed fault of the core sees the release (R7). -/
def barInitOp (i : Checks) (o : LOps) (m : SyncMod) : State → State :=
  issue i (fun s => s.point o m.space 16 .write true (fun a sp segs s =>
    let x := s.barAccess sp segs m.scope m.ord
    s.whenAdmitted x .order (fun u =>
      let c := (s.me.rd o.c).toNat
      if c = 0 ∨ 65535 < c then let (v, s) := s.barRead sp segs; s.barTrap a v
      else (((u.rmwNow x (fun _ => some (m.scope.code * 2 ^ 64 + c * 2 ^ 48 + c * 2 ^ 32))).2.notePhase sp segs 0).event).advance i)))

/-- R226: what an arrival of `k` writes, if it may: the object with `k` fewer due, and one fewer expected for a drop. -/
def arrive (v k : Nat) (drop : Bool) : Option Nat :=
  if !objValid v ∨ k = 0 ∨ objPend v < k ∨ (drop ∧ objExpect v = 1) then none
  else
    let e := if drop then objExpect v - 1 else objExpect v
    let p := objPend v - k
    some (if p = 0 then objWith v (objPhase v + 1) e e else objWith v (objPhase v) p e)

/-- R226: an arrival: a release at the object's scope; `done` gets the token. The object is judged once the arrival may perform (R213, R230), and a trap comes before
an armed fault of the core sees the release (R7). DEDUCED (assumption 23). -/
def State.arriveAt (s : State) (a : Dword) (sp : OpSpace) (segs : List (Nat × Nat)) (k : Nat) (drop : Bool) (done : Nat → State → State) :
    State :=
  let (v, t) := s.barRead sp segs
  let x := s.barAccess sp segs (scopeOf (objScope v)) .rel
  s.whenAdmitted x .order (fun u =>
    match arrive v k drop with
    | none => t.barTrap a v
    | some w => done (objPhase v) ((u.rmwNow x (fun v => arrive v k drop)).2.notePhase sp segs (objPhase w)))

def barArriveOp (i : Checks) (o : LOps) (m : SyncMod) : State → State :=
  issue i (fun s => s.point o m.space 16 .write true (fun a sp segs s =>
    let k := if o.c = 0 then 1 else (s.me.rd o.c).toNat
    s.arriveAt a sp segs k false (fun tok s => ((s.produce o.d 1 (some [BitVec.ofNat 32 tok])).event).advance i)))
def barDropOp (i : Checks) (o : LOps) (m : SyncMod) : State → State :=
  issue i (fun s => s.point o m.space 16 .write true (fun a sp segs s =>
    s.arriveAt a sp segs 1 true (fun _ s => s.event.advance i)))

/-- R227: wait until the phase differs from `tok`; the read that ends the wait is an acquire at the object's scope. The object is judged once the read may perform. A wait
clears the reservation (R221). -/
def State.waitPhase (s : State) (i : Checks) (a : Dword) (sp : OpSpace) (segs : List (Nat × Nat)) (tok : Word) (done : State → State) : State :=
  let s := s.upd (fun t => { t with resv := none })
  let (v, t) := s.barRead sp segs
  let x := s.newOp (.rmw (.link .n128)) sp segs [] (scopeOf (objScope v)) .acq 0 none
  let wait (s : State) := s.awaitWith { kind := .barObj, obj := a, scr := sp != .glb, limit := s.wdogLimit s.me }
  match s.admits x with
  | none => wait s
  | some _ =>
    if !objValid v then t.barTrap a v
    else if BitVec.ofNat 32 (objPhase v) = tok then wait t
    else (done (((t.countBatten t.me.core 0).acquireOf x).paired x tok (objPhase v))).advance i

def barWaitOp (i : Checks) (o : LOps) (m : SyncMod) : State → State :=
  issue i (fun s => s.cancelPoint (fun s => s.point o m.space 16 .write true (fun a sp segs s =>
    s.waitPhase i a sp segs (s.me.rd o.c) State.event)))

/-- R227: the arrival is made once, and counts the instruction (R229); its token is kept until the wait is over. DEDUCED (assumption 23). -/
def barSyncOp (i : Checks) (o : LOps) (m : SyncMod) : State → State :=
  issue i (fun s => s.cancelPoint (fun s => s.point o m.space 16 .write true (fun a sp segs s =>
    let done (s : State) := s.upd (fun t => { t with syncs := t.syncs.filter (·.1 ≠ t.pc) })
    match s.me.syncs.find? (·.1 = s.me.pc) with
    | some (_, tok) => s.waitPhase i a sp segs tok done
    | none => s.arriveAt a sp segs 1 false (fun tok s =>
        let s := (s.upd (fun t => { t with syncs := (t.pc, BitVec.ofNat 32 tok) :: t.syncs })).event
        s.waitPhase i a sp segs (BitVec.ofNat 32 tok) done))))

def barTestOp (i : Checks) (o : LOps) (m : SyncMod) : State → State :=
  issue i (fun s => s.point o m.space 16 .read true (fun a sp segs s =>
    let (v, t) := s.barRead sp segs
    let passed := BitVec.ofNat 32 (objPhase v) != s.me.rd o.c
    let x := s.newOp (.rmw (.link .n128)) sp segs [] (scopeOf (objScope v)) (if passed then .acq else .rlx) 0 none
    s.whenAdmitted x .order (fun _ =>
      if !objValid v then t.barTrap a v
      else
        let t := (t.countBatten t.me.core 0).acquireOf x
        (((if passed then t.paired x (s.me.rd o.c) (objPhase v) else t).setPred (o.d.setWidth 3) passed).event).advance i)))

/-! ### The meanings that `exec` calls -/

def execAtom (o : LOps) (m : SyncMod) (s : State) : Out := .next (atomOp (Instr.atom o m).checks o m s)
def execAtomFloat (o : LOps) (m : SyncMod) (s : State) : Out := .next (atomFloatOp (Instr.atomFloat o m).checks o m s)
def execAtomCas (o : LOps) (m : SyncMod) (s : State) : Out := .next (atomCasOp (Instr.atomCas o m).checks o m s)
def execRed (o : LOps) (m : SyncMod) (s : State) : Out := .next (redOp (Instr.red o m).checks o m s)
def execRedFloat (o : LOps) (m : SyncMod) (s : State) : Out := .next (redFloatOp (Instr.redFloat o m).checks o m s)
def execFence (o : LOps) (m : SyncMod) (s : State) : Out := .next (fenceOp (Instr.fence o m).checks o m s)
def execWaitVal (o : LOps) (m : SyncMod) (s : State) : Out := .next (waitValOp (Instr.waitVal o m).checks o m s)
def execLdLink (o : LOps) (m : SyncMod) (s : State) : Out := .next (ldLinkOp (Instr.ldLink o m).checks o m s)
def execStCond (o : LOps) (m : SyncMod) (s : State) : Out := .next (stCondOp (Instr.stCond o m).checks o m s)
def execBarInit (o : LOps) (m : SyncMod) (s : State) : Out := .next (barInitOp (Instr.barInit o m).checks o m s)
def execBarArrive (o : LOps) (m : SyncMod) (s : State) : Out := .next (barArriveOp (Instr.barArrive o m).checks o m s)
def execBarWait (o : LOps) (m : SyncMod) (s : State) : Out := .next (barWaitOp (Instr.barWait o m).checks o m s)
def execBarSync (o : LOps) (m : SyncMod) (s : State) : Out := .next (barSyncOp (Instr.barSync o m).checks o m s)
def execBarTest (o : LOps) (m : SyncMod) (s : State) : Out := .next (barTestOp (Instr.barTest o m).checks o m s)
def execBarDrop (o : LOps) (m : SyncMod) (s : State) : Out := .next (barDropOp (Instr.barDrop o m).checks o m s)

end Sys2Proof.Machine
end

