-- ==== Sys2Proof/Machine/Check.lean ====
section
/-! DEFINITION. The checking instructions (R244 to R248). -/
namespace Sys2Proof.Machine

/-- What a UNIT code names (R240): a Batten, a Purlin at an L2 slice, a Purlin at an HBM controller, or the auditor of a die. -/
inductive UnitKind where
  | batten (core : Nat)
  | purlinL2
  | purlinHbm
  | galliard
  deriving DecidableEq, Repr

/-- R240, R245: the unit a target word names, if it is present and enabled. -/
def State.unitKind (s : State) (u : Nat) : Option UnitKind :=
  let die := u / 2 ^ 14 % 4
  let n := u % 2 ^ 12
  if !((s.die? die).map (·.enabled)).getD false then none
  else match u / 2 ^ 12 % 4 with
    | 0 => if n < 64 ∧ (((s.core? (die * 64 + n)).bind (·.cls)).isSome) then some (.batten (die * 64 + n)) else none
    | 1 => if n < 32 then some .purlinL2 else none
    | 2 => if n < 3 then some .purlinHbm else none
    | _ => if n = 0 then some .galliard else none

def targetUnit (w : Word) : Nat := (w.extractLsb' 0 16).toNat
def targetSkip (w : Word) : Nat := (w.extractLsb' 16 16).toNat

/-- R245: arm a one-shot fault of form `form` on the unit named by the target word. -/
def State.arm (s : State) (form : Nat) (w : Word) (scope : Nat) (region : Word) : Option State :=
  let inj : Inject := { form := form, scope := scope, skip := targetSkip w, region := region }
  match s.unitKind (targetUnit w) with
  | some (.batten c) => if form = 0 then some (s.mapCore c (fun k => { k with inject := some inj })) else none
  | some .purlinL2 => if form = 0 then none else some (s.setPurlin { s.purlin? (targetUnit w) with inject := some inj })
  | some .purlinHbm => if form = 1 ∨ form = 2 then some (s.setPurlin { s.purlin? (targetUnit w) with inject := some inj }) else none
  | _ => none
def chkInjectOp (form : Nat) (i : Checks) (o : LOps) (m : CtlMod) : State → State :=
  issue i (fun s =>
    match s.arm form (s.me.rd o.a) m.sel.toNat (o.lit.getD (s.me.rd o.b)) with
    | some s => s.advance i
    | none => s.trap 1 0 0)

/-- R246. DEDUCED (assumption 25). -/
def chkReadOp (i : Checks) (o : LOps) (m : CtlMod) : State → State :=
  issue i (fun s =>
    match m.sub.toNat with
    | 0 =>
      match s.locate .glb 0 (s.me.rd2 o.a) 1 true .read false with
      | .error s => s
      | .ok (p, s) => (s.wr2 o.d (BitVec.ofNat 64 (s.lineState ((p.segs.headD (0, 0)).1 / 64)).interval)).advance i
    | 1 => (s.wr2 o.d (BitVec.ofNat 64 (s.holds.filter (·.op.uid = s.me.uid)).length)).advance i
    | _ => (s.wr2 o.d (s.me.psn.setWidth 64)).advance i)

/-- R247: the thread's releases have completed, its earlier writes have performed, and the records that a release at `.FAB` would need of
them are acknowledged; a pending containment trap is taken here. DEDUCED (assumption 25). -/
def chkSyncOp (i : Checks) : State → State :=
  issue i (fun s =>
    if s.ops.any (fun x => x.uid == s.me.uid && (x.isWrite || x.releases || x.isFence)) || s.holds.any (·.op.uid == s.me.uid) || s.unacked s.me.uid 7 then s.await .order
    else match s.me.held.find? (·.cause = 21), s.me.handler with
      | some t, none =>
        (s.upd (fun m => { m with held := m.held.erase t })).takeTrap { t with pc := s.me.pc : Trap }
      | _, _ => s.advance i)

/-- R248. -/
def zeroCounts : Vector Nat 7 := Vector.replicate 7 0
/-- A target that names no unit, or one of a disabled die, traps as it does for `CHK.INJECT`. DESIGN CHOICE (assumption 94). -/
def chkClearOp (i : Checks) (o : LOps) (m : CtlMod) : State → State :=
  issue i (fun s =>
    if m.sub = 1 then
      { s with purlin := [], cores := s.cores.map (fun c => { c with inject := none, batten := zeroCounts }) : State }.advance i
    else
      let u := targetUnit (s.me.rd o.a)
      match s.unitKind u with
      | some (.batten c) => (s.mapCore c (fun k => { k with inject := none, batten := zeroCounts })).advance i
      | some .purlinL2 | some .purlinHbm => { s with purlin := s.purlin.filter (·.unit ≠ u) : State }.advance i
      | _ => s.trap 1 0 0)

/-- R248: a counter. A Purlin has no counter 3. DEDUCED (assumption 25). -/
def State.sample (s : State) (k : UnitKind) (u : Nat) (n : Fin 7) : Nat :=
  match k with
  | .batten c => ((s.core? c).map (fun x => x.batten[n])).getD 0
  | _ => if n.val = 3 then 0 else (s.purlin? u).counts[n]
/-- A target that names no unit, or one of a disabled die, traps as it does for `CHK.INJECT`. DESIGN CHOICE (assumption 94). -/
def chkSampleOp (i : Checks) (o : LOps) (m : CtlMod) : State → State :=
  issue i (fun s =>
    let u := targetUnit (s.me.rd o.a)
    match s.unitKind u with
    | none | some .galliard => s.trap 1 0 0
    | some k =>
      (s.wr2 o.d (BitVec.ofNat 64 (s.sample k u ⟨m.sel.toNat % 7, Nat.mod_lt _ (by decide)⟩))).advance i)

/-! ### The meanings that `exec` calls -/

def execChkInjectEarly (o : LOps) (m : CtlMod) (s : State) : Out := .next (chkInjectOp 0 (Instr.chkInjectEarly o m).checks o m s)
def execChkInjectHash (o : LOps) (m : CtlMod) (s : State) : Out := .next (chkInjectOp 1 (Instr.chkInjectHash o m).checks o m s)
def execChkInjectSkip (o : LOps) (m : CtlMod) (s : State) : Out := .next (chkInjectOp 2 (Instr.chkInjectSkip o m).checks o m s)
def execChkInjectDup (o : LOps) (m : CtlMod) (s : State) : Out := .next (chkInjectOp 3 (Instr.chkInjectDup o m).checks o m s)
def execChkRead (o : LOps) (m : CtlMod) (s : State) : Out := .next (chkReadOp (Instr.chkRead o m).checks o m s)
def execChkSync (o : LOps) (m : CtlMod) (s : State) : Out := .next (chkSyncOp (Instr.chkSync o m).checks s)
def execChkClear (o : LOps) (m : CtlMod) (s : State) : Out := .next (chkClearOp (Instr.chkClear o m).checks o m s)
def execChkSample (o : LOps) (m : CtlMod) (s : State) : Out := .next (chkSampleOp (Instr.chkSample o m).checks o m s)

end Sys2Proof.Machine
end

