-- ==== Sys2Proof/Machine/Copy.lean ====
section
/-! DEFINITION. The tile table and the tensor copy engine: its instructions (R289 to R296), tensor records (R283 to R285) and how a command
starts and runs (R286 to R288, R291, R360). -/
namespace Sys2Proof.Machine

/-! ### Engine accesses to global memory (R287) -/

/-- Translate for an engine command of thread `t` through a core's walk-ahead TLB (R179, R287), whose entry may be in error (R398). -/
def State.engTranslate (s : State) (core : Nat) (t : Thread) (va : Dword) (acc : Acc) : Tr × State :=
  let ok (e : Tlb) := e.hits t.asid va && (acc != .write || e.db)
  let c := ((s.core? core).bind (·.walkTlb.find? ok)).or ((s.die? (core / 64)).bind (·.tlb.find? ok))
  let put (e : Tlb) (s : State) : State :=
    let add (l : List Tlb) := e :: l.filter (fun x => !(x.asid == e.asid && x.va == e.va && x.log == e.log))
    (s.mapCore core (fun k => { k with walkTlb := add k.walkTlb })).mapDie (core / 64) (fun d => { d with tlb := add d.tlb })
  if c.any (s.tlbStruck core (·.walkTlb)) then (.mchk 2, s)
  else s.translateWith (core / 64) { uid := some t.uid, pc := t.pc, region := BitVec.ofNat 32 (s.regionNum t) } c put t.asid t.ptel (s.ptroot t) (!s.isSys t) va acc

/-- How an engine's access of one element ends: what it yields, or why the command stops there; `none` is a line that is held (R230). -/
inductive Elem (α : Type) where
  | got (v : α) (s : State)
  | stop (st : CmdSt) (s : State)
  | held (s : State)

/-- R230: a release holds the line: an engine's read for the releasing thread sees its own value, and every other access waits. -/
def State.heldFor (s : State) (uid line : Nat) (acc : Acc) : Bool :=
  s.suspect line || s.holds.any (fun h => (h.op.uid != uid || acc == .write) && h.op.space == .glb && (h.op.segs.flatMap (fun x => linesOf x.1 x.2)).contains line)
/-- The place of one element: alignment, translation and the physical map, as pending faults of element `n`. -/
def State.engPlace (s : State) (core uid : Nat) (va : Dword) (len n : Nat) (acc : Acc) : Elem Nat :=
  match s.thread? uid with
  | none => .held s
  | some t =>
    if va.toNat % len ≠ 0 then .stop (.faulted { cause := 12, faddr := va, code := 0, elem := n }) s
    else match s.engTranslate core t va acc with
      | (.held, s) => .held s
      | (.park, s) => let (id, s) := s.request (core / 64) t.asid va (acc == .write); .stop (.parked id) s
      | (.fault b, s) => .stop (.faulted { cause := 14, faddr := va, code := (s.pageDetail t acc b).toNat, elem := n }) s
      | (.mchk d, s) => .stop (.faulted { cause := 5, faddr := va, code := d, elem := n }) s
      | (.ok pa, s) =>
        if s.physKind pa = .bad then .stop (.faulted { cause := 5, faddr := va, code := 3, elem := n }) s
        else if acc == .read && (s.inError pa len || s.l1Struck core pa len) then .stop (.faulted { cause := 5, faddr := va, code := 2, elem := n }) s
        else if (linesOf pa len).any (fun l => s.heldFor uid l acc) then .held s
        else .got pa s

def State.engCause (s : State) (uid : Nat) (pc : Dword) : Cause :=
  { uid := some uid, pc := pc, region := BitVec.ofNat 32 (((s.thread? uid).map (s.regionNum ·)).getD 0) }
/-- An engine's read at scope `sc` as a read of the thread's partition (R186, R288), which Batten receives (R229). DESIGN CHOICE (assumption 92). -/
def State.engRead (s : State) (core uid : Nat) (pc : Dword) (sc : Nat) (pa len : Nat) : List Byte × State :=
  let p := ((s.thread? uid).map (·.part)).getD 0
  let s := s.countBatten core 0
  if 3 ≤ sc then s.l2ReadBytes core p pa len (s.engCause uid pc) else s.l1Read core p pa len (s.engCause uid pc)
/-- An engine's write, for the command or operation `id` of a thread: the core's dirty bytes of the line go first, its copy is dropped, and the write performs at the L2 (R186). DESIGN CHOICE (assumption 92). -/
def State.engWrite (s : State) (core uid id : Nat) (pc : Dword) (pa : Nat) (bs : List Byte) : State :=
  let c := s.engCause uid pc
  let s := (linesOf pa bs.length).foldl (fun s l => s.wbInv core l c) (s.countBatten core 0)
  let s := (s.l2Engine (core / 64) pa (bs.map some) c).noteLines uid id (linesOf pa bs.length)
  (s.markMap pa bs.length false).capture uid pa (bs.map some)

/-! ### Tensor records (R283 to R285) -/

def signedOf (w v : Nat) : Int := if v.testBit (w - 1) then (v : Int) - 2 ^ w else v
/-- R283: the fields of a record read as a number. -/
def TRec.ofNat (n : Nat) : TRec :=
  { base := bitsOf n 63 0, ndim := bitsOf n 67 64,
    ext := (List.range 9).map (fun j => bitsOf n (128 + 32 * j + 31) (128 + 32 * j)),
    stride := (List.range 9).map (fun j => signedOf 48 (bitsOf n (448 + 48 * j + 47) (448 + 48 * j))),
    oob := bitsOf n 105 104, rsel := bitsOf n 99 96, fmt := Fmt.ofCode (BitVec.ofNat 5 (bitsOf n 76 72)), desc := BitVec.ofNat 16 (bitsOf n 95 80) }
def isPf : Fmt → Bool
  | .pf _ => true
  | _ => false
/-- R283, R285: the reserved fields and the format are as they must be. -/
def recordOk (n : Nat) : Bool :=
  let r := TRec.ofNat n
  bitsOf n 71 68 == 0 && bitsOf n 79 77 == 0 && bitsOf n 103 100 == 0 && bitsOf n 127 106 == 0 && bitsOf n 447 416 == 0 && bitsOf n 1023 880 == 0
  && decide (r.oob < 2) && decide (r.rsel < 8) && (if isPf r.fmt then pfValid r.desc else r.desc == 0)
def TRec.width (r : TRec) : Nat := r.fmt.bits (descBank r.desc)

/-- R284: the index of element (row, col) in dimension `j`. -/
def TRec.idx (r : TRec) (rows : Nat) (origin : List Int) (row col j : Nat) : Int :=
  origin.getD j 0 + (if j = 0 then col else 0) + (if 1 < rows ∧ j = r.rsel + 1 then row else 0)
def TRec.inBounds (r : TRec) (rows : Nat) (origin : List Int) (row col : Nat) : Bool :=
  (List.range r.ndim).all (fun j => decide (0 ≤ r.idx rows origin row col j ∧ r.idx rows origin row col j < r.ext.getD j 0))
/-- R284: the bit address of an element. -/
def TRec.bitAddr (r : TRec) (rows : Nat) (origin : List Int) (row col : Nat) : Nat :=
  let sum := (List.range r.ndim).foldl (fun (a : Int) j => a + r.idx rows origin row col j * r.stride.getD j 0) (r.base : Int)
  let byte := (sum % 2 ^ 64).toNat
  if r.width < 8 then 8 * byte + (r.width * r.idx rows origin row col 0).toNat else 8 * byte

/-- The traversal index of the first element of a window that lies out of bounds (R287). -/
def TRec.firstOut (r : TRec) (rows cols : Nat) (origin : List Int) : Option Nat :=
  (List.range (rows * cols)).find? (fun k => !r.inBounds rows origin (k / cols) (k % cols))
/-- R285: the first detail that holds for a command, if any. -/
def TRec.check (n : Nat) (rows cols width : Nat) (origin : List Int) (store : Bool) : Option Nat :=
  let r := TRec.ofNat n
  let dims := List.range 9
  let s := r.width
  if r.ndim = 0 ∨ 9 < r.ndim ∨ !recordOk n ∨ dims.any (fun j => if j < r.ndim then r.ext.getD j 0 == 0 else r.ext.getD j 0 != 0 || r.stride.getD j 0 != 0)
      ∨ (1 < rows ∧ r.ndim ≤ r.rsel + 1) then some 1
  else if s ≠ width then some 2
  else if r.oob = 1 ∧ (r.firstOut rows cols origin).isSome then some 3
  else if s < 8 ∧ (r.stride.getD 0 0 ≠ 0 ∨ origin.getD 0 0 * s % 8 ≠ 0 ∨
      (store ∧ (List.range rows).any (fun y =>
        let xs := (List.range cols).filter (fun x => r.inBounds rows origin y x)
        match xs.head?, xs.getLast? with
        | some a, some b => ((origin.getD 0 0 + a) * s % 8 != 0) || ((origin.getD 0 0 + b + 1) * s % 8 != 0)
        | _, _ => false))) then some 4
  else none

/-! ### Exact sums (R269, R291) -/

/-- The exact sum of values. -/
def exactSum (l : List Num) : Num := l.foldl (fun a b => (a.add false b).1) (.fin false 0 0)
def roundF32 (v : Num) : Word := BitVec.ofNat 32 ((Fmt.f32).round noBank { mode := .rn } v).1
/-- R269 step 3: the check entry of a row as it stands. -/
def State.rowSum (s : State) (t : Tile) (r : Nat) : Word :=
  roundF32 (exactSum ((List.range t.cols).map (fun c => t.fmt.value t.bank (s.getElem t r c))))

/-! ### Running a command (R286 to R291) -/

def State.setCopy (s : State) (c : CopyCmd) : State := { s with copies := s.copies.map (fun x => if x.id = c.id then c else x) }
def State.dropCopy (s : State) (c : CopyCmd) : State := { s with copies := s.copies.filter (·.id ≠ c.id) }

/-- R286: an earlier `TSTORE` of the thread is still to complete: what it writes is read as written. -/
def State.earlierStore (s : State) (c : CopyCmd) : Bool :=
  (s.copies.takeWhile (·.id ≠ c.id)).any (fun x => x.uid == c.uid && x.st.live && (match x.op with | .store _ => true | _ => false))
/-- R286, R287: the tensor record of a command, read once, and after the thread's earlier stores. -/
def State.copyRecord (s : State) (c : CopyCmd) (t : Tile) : State × CopyCmd :=
  if s.earlierStore c then (s, c)
  else match c.op, c.tens with
  | .load, none | .store _, none =>
    match s.engPlace c.core c.uid c.addr 128 0 .read with
    | .held s => (s, c)
    | .stop st s => (s, { c with st := st })
    | .got pa s =>
      let (bs, s) := s.engRead c.core c.uid c.pc c.scope.code pa 128
      let n := bytesNat bs
      match TRec.check n t.rows t.cols t.width c.origin (match c.op with | .store _ => true | _ => false) with
      | some d =>
        let k := if d = 3 then ((TRec.ofNat n).firstOut t.rows t.cols c.origin).getD 0 else 0
        (s, { c with st := .faulted { cause := 20, faddr := 0, code := d, elem := k } })
      | none => (s, { c with tens := some (TRec.ofNat n) })
  | _, _ => (s, c)

/-- One element of a load or a store (R290). -/
def State.copyElem (s : State) (c : CopyCmd) (t : Tile) (r : TRec) (n : Nat) : Elem Unit :=
  let row := n / t.cols
  let col := n % t.cols
  let inb := r.inBounds t.rows c.origin row col
  let bit := r.bitAddr t.rows c.origin row col
  let va : Dword := BitVec.ofNat 64 (bit / 8)
  let len := (t.width + 7) / 8
  match c.op with
  | .load =>
    if !inb then .got () (s.putElem t row col 0 none)
    else match s.engPlace c.core c.uid va len n .read with
      | .held s => .held s
      | .stop st s => .stop st s
      | .got pa s =>
        let (bs, s) := s.engRead c.core c.uid c.pc c.scope.code pa len
        .got () (s.putElem t row col (bytesNat bs / 2 ^ (bit % 8)) none)
  | _ =>
    if col == 0 && (match t.chk with | some k => k.getD row 0 != s.rowSum t row | none => false) then
      .stop (.faulted { cause := 19, faddr := 0, code := 3, elem := row }) s
    else if !inb then .got () s
    else match s.engPlace c.core c.uid va len n .write with
      | .held s => .held s
      | .stop st s => .stop st s
      | .got pa s =>
        let v := s.getElem t row col
        if t.width < 8 then
          let old := (readByte s.mem pa).toNat
          let sh := bit % 8
          let new := old - old / 2 ^ sh % 2 ^ t.width * 2 ^ sh + v * 2 ^ sh
          .got () (s.engWrite c.core c.uid c.id c.pc pa (natBytes 1 new))
        else .got () (s.engWrite c.core c.uid c.id c.pc pa (natBytes len v))

/-- The next element of a started command: a load's or a store's (R290), or a `TFILL`'s (R295). -/
def State.copyNext (s : State) (c : CopyCmd) (t : Tile) : State × CopyCmd :=
  match c.op, c.tens with
  | .fill v, _ => (s.putElem t (c.done / t.cols) (c.done % t.cols) v none, { c with done := c.done + 1 })
  | .move _ _, _ | _, none => (s, c)
  | _, some r => match s.copyElem c t r c.done with
    | .got _ s => (s, { c with done := c.done + 1 })
    | .stop st s => (s, { c with st := st })
    | .held s => (s, c)
/-- At most `k` further elements. -/
def State.copyLoop (t : Tile) : Nat → State → CopyCmd → State × CopyCmd
  | 0, s, c => (s, c)
  | k + 1, s, c =>
    let (s, c') := s.copyNext c t
    if c'.done = c.done then (s, c') else s.copyLoop t k c'

/-- R281, R290, R295: the command has completed. -/
def State.copyDone (s : State) (c : CopyCmd) (fmt : Fmt) (desc : BitVec 16) : State :=
  let st : TState := match c.op with | .store false => .empty | _ => .ready
  ((s.mapTile c.core c.tile (fun t =>
    match c.op with
    | .store keep => { t with st := st, chk := if keep then t.chk else none, copied := some (c.uid, c.scope) }
    | _ => { t with st := st, fmt := fmt, desc := desc, copied := some (c.uid, c.scope) })).dropCopy c).wakeTile c.core c.tile

/-- R295: a `TMOV` acts on scratch alone, and reads its source in full first. -/
def State.fillTile (s : State) (t : Tile) (v : Nat → Nat → Nat) : State :=
  (List.range t.rows).foldl (fun s r => (List.range t.cols).foldl (fun s c => s.putElem t r c (v r c) none) s) s

/-- A started command goes on for at most `k` elements, until it completes or stops. -/
def State.copyRun (s : State) (c : CopyCmd) (k : Nat) : State :=
  match s.tile? c.core c.tile with
  | none => s.dropCopy c
  | some t =>
    match c.op with
    | .move src tr =>
      match s.tile? c.core src with
      | none => s.dropCopy c
      | some a =>
        let vals := (List.range a.rows).map (fun r => (List.range a.cols).map (fun k => s.getElem a r k))
        let at_ (r k : Nat) := (vals.getD r []).getD k 0
        (s.fillTile { t with fmt := a.fmt, desc := a.desc } (fun r k => if tr then at_ k r else at_ r k)).copyDone c a.fmt a.desc
    | _ =>
      let (s, c) := s.copyRecord c t
      let (s, c) := if c.st = .queued then s.copyLoop t (Nat.min k (t.rows * t.cols - c.done)) c else (s, c)
      if c.st = .queued ∧ c.done = t.rows * t.cols then
        match c.tens with
        | some r => s.copyDone c r.fmt r.desc
        | none => s.copyDone c t.fmt t.desc
      else (if (match c.st with | .faulted p => p.cause == 19 | _ => false) then s.setTileSt c.core c.tile .ready else s).setCopy c

/-- The commands of resident gangs in a core's copy queue, in arrival order. -/
def State.copiesOf (s : State) (core : Nat) : List CopyCmd :=
  s.copies.filter (fun c => c.core == core && !s.away ((s.gkeyOf c.uid).gang))

/-- R360: the trigger of a command, when it starts: the count, marked late when the command could not start at the tick. DEDUCED (assumption 29). -/
def State.writeTrigger (s : State) (core : Nat) (t : Option Trigger) (c : Cause) : State :=
  match t with
  | none => s
  | some t =>
    let bs := natBytes 8 (s.time % 2 ^ 63 + (if t.late then 2 ^ 63 else 0))
    if t.again then s.deviceSend { space := some c.region.toNat, core := core, va := t.va, kind := .bytes bs, parked := none, uid := c.uid, pc := c.pc }
    else s.l2Engine (core / 64) t.pa (bs.map some) c
/-- R230, R360: the tick has come, and no release holds the line of the trigger word. DEDUCED (assumption 29). -/
def trigReady (s : State) (t : Option Trigger) : Bool := match t with | none => true | some t => decide (t.tick ≤ s.time) && !s.lineHeld (t.pa / 64)
/-- R360: a command takes a trigger: it is late if its tick has passed. -/
def Trigger.taken (s : State) (t : Trigger) : Trigger := { t with late := decide (t.tick < s.time) }
/-- R360: the trigger of a command that could not start is late once its tick has come; `was` is the time before. -/
def Trigger.passed (s : State) (was : Nat) (ready : Bool) (t : Trigger) : Trigger :=
  if decide (was < t.tick ∧ t.tick ≤ s.time) && (!ready || s.lineHeld (t.pa / 64)) then { t with late := true } else t

/-- R288: the earlier accesses that a command waits for. DEDUCED (assumption 73). -/
def State.copyWaits (s : State) (c : CopyCmd) : Bool :=
  s.ops.any (fun o => o.uid == c.uid && decide (o.id < c.id) && (o.space != .glb || decide (c.scope.code ≤ o.scope.code)))

/-- R286: the head of a core's copy queue. -/
def State.copyHead (s : State) (core : Nat) : Option CopyCmd := (s.copiesOf core).find? (fun c => !c.started)
/-- R286, R287: a started command is free to run: no earlier one of its thread, and none that names its tile, is still to complete. -/
def State.copyFree (s : State) (c : CopyCmd) : Bool :=
  c.started && c.st == .queued &&
  ((s.copiesOf c.core).takeWhile (·.id ≠ c.id)).all (fun x => !x.st.live || (x.uid != c.uid && x.tile != c.tile))
/-- R286: the head of the queue could leave it, but for its trigger: fewer than eight run; what is parked, and what waits for that, has stepped aside (R287). -/
def State.copyCan (s : State) (c : CopyCmd) : Bool :=
  s.cmdSlot (s.gkeyOf c.uid) c.gs == some true && decide (((s.copiesOf c.core).filter s.copyFree).length < 8) && !s.copyWaits c
/-- R286: the head of a core's copy queue leaves it, if it can, and its record is read (R285); under a false slot it is discarded. -/
def State.copyStart (s : State) (core : Nat) : State :=
  match s.copyHead core with
  | none => s
  | some c =>
    if s.cmdSlot (s.gkeyOf c.uid) c.gs = some false then s.discardCopy c
    else if !s.copyCan c ∨ !trigReady s c.trig then s
    else match s.tile? core c.tile with
      | none => s.dropCopy c
      | some t =>
        let s := s.writeTrigger core c.trig (s.engCause c.uid c.pc)
        let (s, c) := s.copyRecord { c with started := true } t
        s.setCopy c

/-- R286: a started command may run: it is free to, and one of the first eight that are. -/
def State.copyMay (s : State) (c : CopyCmd) : Bool :=
  s.copyFree c && decide ((((s.copiesOf c.core).takeWhile (·.id ≠ c.id)).filter s.copyFree).length < 8)
/-- A command of the copy engine runs, unless a tile that it reads holds an error, which is held pending (R398). -/
def State.copySafe (s : State) (c : CopyCmd) (k : Nat) : State :=
  if (match c.op with | .store _ => s.srcStruck c.core c.tile | .move src _ => s.srcStruck c.core src | _ => false) then
    s.setCopy { c with st := .faulted { cause := 5, faddr := 0, code := 2, elem := c.done } }
  else s.copyRun c k
/-- The `k`-th started command of a core runs. -/
def State.copyComplete (s : State) (core k : Nat) : State :=
  match ((s.copiesOf core).filter (·.started))[k]? with
  | some c => if s.copyMay c then (match s.tile? core c.tile with | some t => s.copySafe c (t.rows * t.cols) | none => s.dropCopy c) else s
  | none => s
/-- The `k`-th started command of a core makes one element. -/
def State.copyElement (s : State) (core k : Nat) : State :=
  match ((s.copiesOf core).filter (·.started))[k]? with
  | some c => if s.copyMay c then s.copySafe c 1 else s
  | none => s

/-- R287: the translation of element `n` of a command enters the walk-ahead TLB; one that would fault, park or wait is dropped. -/
def State.lookAhead (c : CopyCmd) (t : Tile) (r : TRec) (s : State) (n : Nat) : State :=
  if !r.inBounds t.rows c.origin (n / t.cols) (n % t.cols) then s
  else match s.thread? c.uid with
    | none => s
    | some u =>
      let va : Dword := BitVec.ofNat 64 (r.bitAddr t.rows c.origin (n / t.cols) (n % t.cols) / 8)
      match s.engTranslate c.core u va (match c.op with | .store _ => .write | _ => .read) with
      | (.ok _, s') => s'
      | _ => s
/-- R287: the engine translates ahead for the `k`-th started command of a core, in traversal order. DESIGN CHOICE (assumption 10). -/
def State.copyAhead (s : State) (core k n : Nat) : State :=
  match ((s.copiesOf core).filter (·.started))[k]? with
  | some c => (match c.tens, s.tile? core c.tile with
    | some r, some t => ((List.range (Nat.min n (t.rows * t.cols - c.done))).map (· + c.done)).foldl (State.lookAhead c t r) s
    | _, _ => s)
  | none => s

/-! ### The instructions (R289 to R296) -/

/-- R287: an instruction that issues on a tile of its gang takes a pending fault, and one that writes or frees it must not find it pinned (R282); it observes the tile's state (R214, R288). -/
def State.onEntry (s : State) (id : Nat) (write : Bool) (t : Tile) (k : Tile → State → State) : State :=
  match s.tileFault id with
  | some f => f s
  | none => if write && s.pinned s.me.core id then s.protect id 3 else k t (s.seesTile s.me t)
/-- R282, R287, R398: an instruction that names a tile: its entry, ownership, a pending fault, and for a write the pin. -/
def State.onTile (s : State) (id : Nat) (write : Bool) (k : Tile → State → State) : State :=
  if s.tileStruck s.me.core id then s.trap 5 0 2
  else match s.ownTile id with
  | .error r => s.protect id r
  | .ok t => s.onEntry id write t k

/-- The copy queue holds 32 commands (R286). -/
def State.copyFull (s : State) (core : Nat) : Bool := decide (32 ≤ ((s.copiesOf core).filter (fun c => !c.started)).length)
/-- Queue a command; an armed trigger goes with a tensor copy (R360). -/
def State.enqueueCopy (s : State) (i : Checks) (c : CopyCmd) (st : TState) (useTrig : Bool) : State :=
  if s.copyFull s.me.core then s.await .queue
  else
    let c := { c with id := s.fresh, trig := if useTrig then s.me.trig.map (Trigger.taken s) else none }
    let s := s.mapTile s.me.core c.tile (fun t => { t with st := st, chk := if st = .draining then t.chk else none })
    ({ (if useTrig then s.upd (fun t => { t with trig := none }) else s).bump with copies := s.copies ++ [c] }).advance i
def State.newCopy (s : State) (tile : Nat) (op : CopyOp) (m : EngMod) (prior : TState) : CopyCmd :=
  { id := 0, core := s.me.core, uid := s.me.uid, pc := s.me.pc, gs := m.gs, op := op, tile := tile, addr := 0, origin := [], scope := m.scope,
    prior := prior, started := false, tens := none, done := 0, st := .queued, trig := none }

/-- R290: the origin: zero, nine indices in scratch, or two from the literal. -/
inductive OriginEnd where
  | ok (l : List Int)
  | misaligned
  | bounds
  | wait
  | struck
  deriving DecidableEq, Repr
/-- R290; a word in error is not read (R399). -/
def State.originOf (s : State) (o : LOps) : OriginEnd :=
  match o.lit with
  | some l => .ok [((l.extractLsb' 0 16).toNat : Int), ((l.extractLsb' 16 16).toNat : Int)]
  | none =>
    if o.b = 0 then .ok []
    else
      let a := (s.me.rd o.b).toNat
      if a % 4 ≠ 0 then .misaligned
      else if ((s.pad? s.me.gang s.me.core).map (·.size)).getD 0 < a + 36 then .bounds
      else if s.ops.any (fun x => x.uid == s.me.uid && x.isWrite && x.space != .glb) then .wait
      else if s.scratchStruck s.me.gang s.me.core a 36 then .struck
      else .ok ((List.range 9).map (fun j => signedOf 32 (bytesNat (s.scrRead s.me.gang s.me.core (a + 4 * j) 4))))

/-- R290. -/
def tensorOp (i : Checks) (o : LOps) (m : EngMod) (store : Bool) : State → State :=
  issue i (fun s =>
    let id := o.d.toNat
    s.onTile id (!store) (fun t s =>
      let a := s.me.rd2 o.a
      if a.toNat % 128 ≠ 0 then s.trap 12 a 0
      else match s.originOf o with
        | .misaligned => s.trap 12 ((s.me.rd o.b).setWidth 64) 0
        | .bounds => s.trap 13 ((s.me.rd o.b).setWidth 64) 0
        | .wait => s.await .order
        | .struck => s.trap 5 0 2
        | .ok org =>
          if store then
            if t.st ≠ .ready ∨ s.tileRead s.me.core id then s.await .tile
            else s.enqueueCopy i { s.newCopy id (.store (m.sub == 1)) m t.st with addr := a, origin := org } .draining true
          else if (t.st ≠ .empty ∧ t.st ≠ .ready) ∨ s.tileRead s.me.core id then s.await .tile
          else s.enqueueCopy i { s.newCopy id .load m t.st with addr := a, origin := org } .filling true))
def tcopyOp (i : Checks) (o : LOps) (m : EngMod) : State → State := tensorOp i o m false
def tstoreOp (i : Checks) (o : LOps) (m : EngMod) : State → State := tensorOp i o m true

/-- R292. -/
def twaitOp (i : Checks) (o : LOps) (m : EngMod) : State → State :=
  issue i (fun s =>
    let id := o.a.toNat
    s.onTile id false (fun t s =>
      if s.tileCame t s.me.uid (m.sub != 0) then s.advance i else s.awaitWith (twait (m.sub != 0) i.syl id)))

def TState.code : TState → Nat
  | .empty => 0 | .filling => 1 | .ready => 2 | .draining => 3
/-- R293. -/
def State.tileWord (s : State) (id : Nat) : Nat :=
  match s.tile? s.me.core id with
  | none => 64
  | some t =>
    let on (c : CopyCmd) : Bool := c.core == s.me.core && c.tile == id && !s.cmdAway c.uid
    let onS (c : StreamCmd) : Bool := c.core == s.me.core && c.tile == some id && !s.cmdAway c.uid
    let mine (uid : Nat) : Bool := !s.cmdAway uid
    let parked (x : CmdSt) : Bool := match x with | .parked _ => true | _ => false
    t.st.code + (if t.chk.isSome then 4 else 0) + (if s.pinned s.me.core id then 8 else 0)
      + (if s.copies.any (fun c => on c && parked c.st) || s.streams.any (fun c => onS c && parked c.st) then 16 else 0)
      + (if s.pends s.me.core id mine then 32 else 0)
      + 256 * t.fmt.code.toNat
def tstateOp (i : Checks) (o : LOps) : State → State :=
  issue i (fun s =>
    let id := o.a.toNat
    match s.tile? s.me.core id with
    | none => (s.produce o.d 1 (some [BitVec.ofNat 32 (s.tileWord id)])).advance i
    | some _ => s.onTile id false (fun _ s => (s.produce o.d 1 (some [BitVec.ofNat 32 (s.tileWord id)])).advance i))

/-- R294. -/
def tdefOp (i : Checks) (o : LOps) (m : EngMod) : State → State :=
  issue i (fun s =>
    let id := o.d.toNat
    let base := (s.me.rd o.a).toNat
    let shape := (o.lit.getD (s.me.rd o.b)).toNat
    let cols := bitsOf shape 11 0 + 1
    let rows := bitsOf shape 25 16 + 1
    let desc : BitVec 16 := match m.ty with | .pf k => (s.bank s.me)[k.toNat] | _ => 0
    let size := rows * pitch (m.ty.bits (descBank desc)) cols
    let pad := ((s.pad? s.me.gang s.me.core).map (·.size)).getD 0
    if base % 64 ≠ 0 ∨ bitsOf shape 15 12 ≠ 0 ∨ bitsOf shape 31 26 ≠ 0 ∨ pad < base + size then s.trap 13 ((s.me.rd o.a).setWidth 64) 0
    else
      let new : Tile := { core := s.me.core, id := id, gang := s.me.gang, base := base, rows := rows, cols := cols, fmt := m.ty, desc := desc,
                          st := .empty, chk := none }
      match s.tile? s.me.core id with
      | none => { s with tiles := s.tiles ++ [new] : State }.advance i
      | some t =>
        if t.gang ≠ s.me.gang then s.protect id 1
        else s.onEntry id true t (fun t s =>
          if (t.st ≠ .empty ∧ t.st ≠ .ready) ∨ s.tileRead s.me.core id then s.await .tile
          else (s.mapTile s.me.core id (fun _ => new)).advance i))
def tfreeOp (i : Checks) (o : LOps) : State → State :=
  issue i (fun s =>
    let id := o.d.toNat
    s.onTile id true (fun t s =>
      if (t.st ≠ .empty ∧ t.st ≠ .ready) ∨ s.tileRead s.me.core id then s.await .tile
      else (s.dropTile s.me.core id).advance i))

/-- R295: the value of `TFILL`: a literal, a register, or a pair for a tile of 64-bit elements. -/
def tfillOp (i : Checks) (o : LOps) (m : EngMod) : State → State :=
  issue i (fun s =>
    let id := o.d.toNat
    s.onTile id true (fun t s =>
      let go (v : Nat) (s : State) : State :=
        if (t.st ≠ .empty ∧ t.st ≠ .ready) ∨ s.tileRead s.me.core id then s.await .tile
        else s.enqueueCopy i (s.newCopy id (.fill (v % 2 ^ t.width)) m t.st) .filling false
      match o.lit with
      | some l => go l.toNat s
      | none =>
        if t.width = 64 then
          if o.b.toNat % 2 = 1 ∨ s.me.budget < o.b.toNat + 2 then s.trap 1 0 0
          else match s.me.sources [⟨o.b, 2, o.fb⟩] with
            | .empty r => s.trap 6 0 (r.setWidth 64)
            | .block => s.await .source
            | .full => go (s.me.rd2 o.b).toNat s
        else go (s.me.rd o.b).toNat s))

/-- R295: the shapes and widths of `TMOV` agree. -/
def moveOk (d a : Tile) (tr : Bool) : Bool :=
  d.width == a.width &&
  (if tr then d.rows == a.cols && d.cols == a.rows && decide (8 ≤ a.width) else d.rows == a.rows && d.cols == a.cols)
def tmovOp (i : Checks) (o : LOps) (m : EngMod) : State → State :=
  issue i (fun s =>
    let id := o.d.toNat
    let src := o.a.toNat
    let tr := m.sub == 1
    s.onTile id true (fun d s => s.onTile src false (fun a s =>
      if a.st ≠ .ready ∨ (d.st ≠ .empty ∧ d.st ≠ .ready) ∨ s.tileRead s.me.core id then s.await .tile
      else if !moveOk d a tr then s.trap 20 0 5
      else s.enqueueCopy i (s.newCopy id (.move src tr) m d.st) .filling false)))

/-- R296: the copy commands of the thread's gang on the tile go, with the faults pending for them; stream and matrix commands that write it are waited for. DEDUCED (assumption 28). -/
def tcancelOp (i : Checks) (o : LOps) : State → State :=
  issue i (fun s =>
    let id := o.d.toNat
    match s.ownTile id with
    | .error r => s.protect id r
    | .ok t =>
      if s.streams.any (fun c => c.core == s.me.core && c.tile == some id && c.st.live && !s.cmdAway c.uid) ||
         s.matrix.any (fun c => c.core == s.me.core && c.out == some id && !s.away c.g.gang) then s.await .tile
      else
        let s : State := { s with copies := s.copies.filter (fun c => !(c.core == s.me.core && c.tile == id && !s.cmdAway c.uid)) }
        ((match t.st with
          | .filling => s.setTileSt s.me.core id .empty
          | .draining => s.setTileSt s.me.core id .ready
          | _ => s).wakeTile s.me.core id).advance i)

/-! ### The meanings that `exec` calls -/

def execTcopy (o : LOps) (m : EngMod) (s : State) : Out := .next (tcopyOp (Instr.tcopy o m).checks o m s)
def execTstore (o : LOps) (m : EngMod) (s : State) : Out := .next (tstoreOp (Instr.tstore o m).checks o m s)
def execTwait (o : LOps) (m : EngMod) (s : State) : Out := .next (twaitOp (Instr.twait o m).checks o m s)
def execTstate (o : LOps) (m : EngMod) (s : State) : Out := .next (tstateOp (Instr.tstate o m).checks o s)
def execTdef (o : LOps) (m : EngMod) (s : State) : Out := .next (tdefOp (Instr.tdef o m).checks o m s)
def execTfree (o : LOps) (m : EngMod) (s : State) : Out := .next (tfreeOp (Instr.tfree o m).checks o s)
def execTfill (o : LOps) (m : EngMod) (s : State) : Out := .next (tfillOp (Instr.tfill o m).checks o m s)
def execTmov (o : LOps) (m : EngMod) (s : State) : Out := .next (tmovOp (Instr.tmov o m).checks o m s)
def execTcancel (o : LOps) (m : EngMod) (s : State) : Out := .next (tcancelOp (Instr.tcancel o m).checks o s)
def execTwaitS32 (o : SOps) (s : State) : Out := .next (twaitOp (Instr.twait o.long .s).checks.short o.long .s s)
def execTstateS32 (o : SOps) (s : State) : Out := .next (tstateOp (Instr.tstate o.long .s).checks.short o.long s)

end Sys2Proof.Machine
end

