-- ==== Sys2Proof/Machine/Approx.lean ====
section
/-! DEFINITION. The functions of R159 and R271 worked out to about 2^-80, so that the bounds which those rules set on an approximation can be checked.
Fixed numbers are integers that stand for that many times 2^-128. -/
namespace Sys2Proof

/-- 1 as a fixed number. -/
def fxOne : Int := 2 ^ 128
/-- ln 2, log2 e, 2π and √(2/π) as fixed numbers, and 2^320 / (2π), all rounded down. -/
def fxLn2 : Int := 0xB17217F7D1CF79ABC9E3B39803F2F6AF
def fxLog2e : Int := 0x171547652B82FE1777D0FFDA0D23A7D11
def fxTwoPi : Int := 0x6487ED5110B4611A62633145C06E0E689
def fxRoot2OverPi : Int := 0xCC42299EA1B284687E59E2805D5C717F
def invTwoPi : Nat := 0x28BE60DB9391054A7F09D5F47D4D377036D8A5664F10E4107F9458EAF7AEF1586DC91B8E909374B8

/-- The product of two fixed numbers. -/
def fxMul (a b : Int) : Int := a * b / fxOne
/-- A finite number as a fixed one. -/
def Num.fixed : Num → Int
  | .fin neg m e => signed neg (if -128 ≤ e then m * 2 ^ (e + 128).toNat else m / 2 ^ (-128 - e).toNat)
  | _ => 0
/-- The sum of `fuel` terms of a power series, from the term of number `n` on: each term is the one before it times `x` over `step`. -/
def fxSeries (x : Int) (step : Nat → Int) : Nat → Nat → Int → Int
  | 0, _, _ => 0
  | fuel + 1, n, term => term + fxSeries x step fuel (n + 1) (fxMul term x / step n)

/-- 2^x of a fixed number: a fixed number from 1 to 2 and the power of two that it is scaled by. -/
def fxExp2 (x : Int) : Int × Int := (fxSeries (fxMul (x % fxOne) fxLn2) (fun n => (n : Int) + 1) 48 0 fxOne, x / fxOne)
/-- `fuel` bits of log2 of `y × 2^-128`, for 2^128 ≤ y < 2^129, after the bits `acc`. -/
def log2Bits : Nat → Nat → Nat → Nat
  | 0, _, acc => acc
  | fuel + 1, y, acc =>
    let z := y * y / 2 ^ 128
    if 2 ^ 129 ≤ z then log2Bits fuel (z / 2) (2 * acc + 1) else log2Bits fuel z (2 * acc)
/-- tanh of a fixed number. -/
def fxTanh (x : Int) : Int :=
  let a : Int := x.natAbs
  let t : Int :=
    if 64 * fxOne ≤ a then fxOne
    else
      let (r, k) := fxExp2 (2 * fxMul a fxLog2e)
      let e := r * 2 ^ k.toNat
      (e - fxOne) * fxOne / (e + fxOne)
  if x < 0 then -t else t
/-- The angle of a finite number in radians, reduced to a turn, as a fixed number; its sign is left out. -/
def fxAngle (m : Nat) (e : Int) : Int :=
  let turns := (if 0 ≤ e then m * invTwoPi * 2 ^ e.toNat else m * invTwoPi / 2 ^ (-e).toNat) % 2 ^ 320
  fxMul ((turns / 2 ^ 192 : Nat) : Int) fxTwoPi

/-- 2^x of a finite number. Beyond ±400 every format overflows or underflows, whatever the number is. -/
def Num.exp2 (x : Num) : Num :=
  let big (neg : Bool) : Bool := x.cmp (.fin neg 400 0) == some (if neg then .lt else .gt)
  let (r, k) := fxExp2 (if big false then 400 * fxOne else if big true then -400 * fxOne else x.fixed)
  .ofInt false r (k - 128)
/-- log2 of a positive finite number. -/
def Num.log2 : Num → Num
  | .fin _ m e => .ofInt false (((m.log2 : Int) + e) * 2 ^ 90 + log2Bits 90 (m * 2 ^ 128 / 2 ^ m.log2) 0) (-90)
  | x => x
/-- sin and cos of a finite number. -/
def Num.sin : Num → Num
  | .fin neg m e =>
    let t := fxAngle m e
    .ofInt neg (signed neg 1 * fxSeries (-fxMul t t) (fun n => (2 * n + 2) * (2 * n + 3)) 40 0 t) (-128)
  | x => x
def Num.cos : Num → Num
  | .fin _ m e =>
    let t := fxAngle m e
    .ofInt false (fxSeries (-fxMul t t) (fun n => (2 * n + 1) * (2 * n + 2)) 40 0 fxOne) (-128)
  | x => x
/-- tanh of a finite number: one too small for a fixed number is its own. -/
def Num.tanh (x : Num) : Num :=
  if x.abs.cmp (.fin false 1 (-30)) = some .lt then x
  else if x.abs.cmp (.fin false 64 0) = some .gt then .fin x.sign 1 0
  else .ofInt false (fxTanh x.fixed) (-128)

/-- R271: 0.5 y (1 + tanh(√(2/π) (y + 0.044715 y³))) of a finite number. -/
def Num.gelu (y : Num) : Num :=
  if y.abs.cmp (.fin false 64 0) = some .gt then (if y.sign then .fin true 0 0 else y)
  else
    let v := y.fixed
    let cube := fxMul (fxMul v v) v
    .ofInt y.sign (v * (fxOne + fxTanh (fxMul fxRoot2OverPi (v + 44715 * cube / 1000000)))) (-257)
/-- R271: y / (1 + e^(−y)) of a finite number. -/
def Num.silu (y : Num) : Num :=
  if y.abs.cmp (.fin false 200 0) = some .gt then (if y.sign then .fin true 0 0 else y)
  else
    let v := y.fixed
    let (r, k) := fxExp2 (-fxMul v fxLog2e)
    let e := if 0 ≤ k then r * 2 ^ k.toNat else r / 2 ^ (-k).toNat
    .ofInt y.sign (v * fxOne / (fxOne + e)) (-128)

/-- The ulp of a float format at a finite number, with subnormal spacing below the smallest normal value (R159). -/
def FSpec.ulpAt (f : FSpec) (v : Num) : Num :=
  match f, v with
  | .flt _ e m bias _, .fin _ k x => .fin false 1 (if k = 0 then 1 - bias - m else ulpExp e m bias k x)
  | _, _ => .fin false 1 0
/-- `cand` where it lies within `bound` of `c`, and `c` otherwise. `c` itself is not quite exact: the bound is taken 2^-40 of it narrower. DESIGN CHOICE (assumption 17). -/
def Num.near (c bound cand : Num) : Num :=
  let room := (bound.add false (bound.scale (-40)).neg).1
  if ((cand.add false c.neg).1.abs.cmp room) = some .gt then c else cand
/-- The larger of two finite numbers. -/
def Num.max (x y : Num) : Num := if x.cmp y = some .lt then y else x

end Sys2Proof
end

