-- ==== Sys2Proof/Machine/Integer.lean ====
section
/-! DEFINITION. The integer and address instructions (R97 to R112). -/
namespace Sys2Proof.Machine

/-! ### Operands and results (R97 to R99) -/

/-- A number below 2^64 read at a type's width: signed for `.I`, natural for `.N` (R97). -/
def IType.val (t : IType) (n : Nat) : Int :=
  let c := n % 2 ^ t.width
  if t.signed ∧ 2 ^ (t.width - 1) ≤ c then (c : Int) - 2 ^ t.width else c

/-- A register operand (R97). -/
def intSrc (s : State) (t : IType) (r : Reg) : Int := IType.val t (s.me.rdNat r (IType.regs t))
/-- LIT32 in place of B (R98): sign-extended for a signed type of 64 bits, zero-extended for a natural one; narrower types take its
low bits. -/
def intLit (t : IType) (l : Word) : Int := if t.signed then IType.val t (l.signExtend 64).toNat else IType.val t l.toNat
/-- Source B (R44). -/
def intB (s : State) (o : LOps) (t : IType) : Int :=
  match o.lit with
  | some l => intLit t l
  | none => intSrc s t o.b
/-- A count or control word: natural, from LIT32 or register B (R98). -/
def countB (s : State) (o : LOps) : Nat := (o.lit.getD (s.me.rd o.b)).toNat

/-- R97: the registers a result takes: narrow results are extended by the type to 32 bits, 64-bit results fill a pair. -/
def intWords (t : IType) (v : Int) : List Word :=
  let c := (v % 2 ^ t.width).toNat
  if t.width = 64 then natWords 2 c else [BitVec.ofInt 32 (IType.val t c)]
def State.wrInt (s : State) (r : Reg) (t : IType) (v : Int) : State := s.upd (fun x => (x.wrs r (intWords t v)).mend r (intWords t v).length)

def IType.lo (t : IType) : Int := if t.signed then -(2 ^ (t.width - 1)) else 0
def IType.hi (t : IType) : Int := if t.signed then 2 ^ (t.width - 1) - 1 else 2 ^ t.width - 1
/-- R99: `Fit`, before the write. -/
def fit (m : IntMod) (v : Int) : Int := if m.sat then min (max v (IType.lo m.ty)) (IType.hi m.ty) else v

/-! ### Shapes of meaning -/

/-- An instruction of two sources whose result is finished by `Fit` (R102). -/
def intOp2 (f : Int → Int → Int) (i : Checks) (o : LOps) (m : IntMod) : State → State :=
  completes i (fun s => s.wrInt o.d m.ty (fit m (f (intSrc s m.ty o.a) (intB s o m.ty))))
/-- An instruction of one source. -/
def intOp1 (f : Int → Int) (i : Checks) (o : LOps) (m : IntMod) : State → State :=
  completes i (fun s => s.wrInt o.d m.ty (fit m (f (intSrc s m.ty o.a))))
/-- A bitwise instruction on the w-bit operands (R105). -/
def logicOp (f : Nat → Nat → Nat) : Checks → LOps → IntMod → State → State :=
  fun i o m => completes i (fun s =>
    let w := IType.width m.ty
    s.wrInt o.d m.ty (f ((intSrc s m.ty o.a) % 2 ^ w).toNat ((intB s o m.ty) % 2 ^ w).toNat : Nat))
/-- An instruction of a source at width w and a count or control word (R106, R107). -/
def shiftOp (f : IType → Nat → Nat → Int) : Checks → LOps → IntMod → State → State :=
  fun i o m => completes i (fun s =>
    s.wrInt o.d m.ty (f m.ty (s.me.rdNat o.a (IType.regs m.ty) % 2 ^ IType.width m.ty) (countB s o)))

def addOp := intOp2 (· + ·)
def subOp := intOp2 (· - ·)
def mulOp := intOp2 (· * ·)
def minOp := intOp2 min
def maxOp := intOp2 max
def absOp := intOp1 (fun a => |a|)
def negOp := intOp1 (fun a => -a)

/-- R102: one `Fit`, no intermediate wrap. -/
def madOp (i : Checks) (o : LOps) (m : IntMod) : State → State :=
  completes i (fun s => s.wrInt o.d m.ty (fit m (intSrc s m.ty o.a * intB s o m.ty + intSrc s m.ty o.c)))
/-- R102: the high half of the exact product. -/
def mulhOp (i : Checks) (o : LOps) (m : IntMod) : State → State :=
  completes i (fun s => s.wrInt o.d m.ty (intSrc s m.ty o.a * intB s o m.ty / 2 ^ IType.width m.ty))

/-- R103. -/
def divValue (m : IntMod) (a b : Int) : Int :=
  if b = 0 then (if m.sat ∧ m.ty.signed then (if 0 ≤ a then IType.hi m.ty else IType.lo m.ty) else -1) else fit m (a.tdiv b)
def remValue (a b : Int) : Int := if b = 0 then a else a.tmod b
def divOp (i : Checks) (o : LOps) (m : IntMod) : State → State :=
  completes i (fun s => s.wrInt o.d m.ty (divValue m (intSrc s m.ty o.a) (intB s o m.ty)))
def remOp (i : Checks) (o : LOps) (m : IntMod) : State → State :=
  completes i (fun s => s.wrInt o.d m.ty (remValue (intSrc s m.ty o.a) (intB s o m.ty)))

/-- R104: the carry or borrow goes through predicate CP. -/
def addcOp (i : Checks) (o : LOps) (m : IntMod) : State → State :=
  completes i (fun s =>
    let v := intSrc s m.ty o.a + intB s o m.ty + (if s.me.pred m.cp then 1 else 0)
    (s.wrInt o.d m.ty v).setPred m.cp (decide (2 ^ IType.width m.ty ≤ v)))
def subbOp (i : Checks) (o : LOps) (m : IntMod) : State → State :=
  completes i (fun s =>
    let v := intSrc s m.ty o.a - intB s o m.ty - (if s.me.pred m.cp then 1 else 0)
    (s.wrInt o.d m.ty v).setPred m.cp (decide (v < 0)))

def andOp := logicOp (· &&& ·)
def orOp := logicOp (· ||| ·)
def xorOp := logicOp (· ^^^ ·)
/-- `A ∧ ¬B`: the bits of A that B lacks. -/
def andnOp := logicOp (fun a b => a ^^^ (a &&& b))

/-- R106: a count of 64 or more moves every bit out, so it acts as 64. -/
def shlValue (t : IType) (a n : Nat) : Int := (a * 2 ^ Nat.min n 64 : Nat) % 2 ^ IType.width t
def shrValue (_t : IType) (a n : Nat) : Int := (a / 2 ^ Nat.min n 64 : Nat)
def sarValue (t : IType) (a n : Nat) : Int :=
  (if a.testBit (IType.width t - 1) then (a : Int) - 2 ^ IType.width t else a) / 2 ^ Nat.min n 64
def rotValue (t : IType) (a n : Nat) : Int :=
  let w := IType.width t
  let k := n % w
  ((a * 2 ^ k) % 2 ^ w + a / 2 ^ (w - k) : Nat)
def shlOp := shiftOp shlValue
def shrOp := shiftOp shrValue
def sarOp := shiftOp sarValue
def rotOp := shiftOp rotValue

/-- R107: the control word's position and length. -/
def fieldPos (c : Nat) : Nat := c % 256
def fieldLen (c : Nat) : Nat := c / 256 % 256
def bfxValue (t : IType) (a c : Nat) : Int :=
  let len := fieldLen c
  if len = 0 then 0
  else
    let f := (IType.val t a / 2 ^ fieldPos c % 2 ^ len).toNat
    if t.signed ∧ f.testBit (len - 1) then (f : Int) - 2 ^ len else f
def bfiValue (a c v : Nat) : Nat :=
  let m := (2 ^ fieldLen c - 1) * 2 ^ fieldPos c
  (a ^^^ (a &&& m)) ||| ((v % 2 ^ fieldLen c) * 2 ^ fieldPos c)
def bfxOp := shiftOp bfxValue
def bfiOp (i : Checks) (o : LOps) (m : IntMod) : State → State :=
  completes i (fun s =>
    let w := IType.width m.ty
    let rd (r : Reg) := s.me.rdNat r (IType.regs m.ty) % 2 ^ w
    s.wrInt o.d m.ty (bfiValue (rd o.a) (countB s o) (rd o.c) : Nat))

/-- R108. -/
def popCount : Nat → Nat → Nat
  | 0, _ => 0
  | w + 1, n => n % 2 + popCount w (n / 2)
def leadingZeros (w n : Nat) : Nat := if n = 0 then w else w - 1 - n.log2
def bitReverse : Nat → Nat → Nat
  | 0, _ => 0
  | w + 1, n => n % 2 * 2 ^ w + bitReverse w (n / 2)
def popcOp (i : Checks) (o : LOps) (m : IntMod) : State → State :=
  completes i (fun s => s.wr o.d (BitVec.ofNat 32 (popCount (IType.width m.ty) (s.me.rdNat o.a (IType.regs m.ty)))))
def clzOp (i : Checks) (o : LOps) (m : IntMod) : State → State :=
  completes i (fun s => s.wr o.d (BitVec.ofNat 32 (leadingZeros (IType.width m.ty) (s.me.rdNat o.a (IType.regs m.ty)))))
def brevOp (i : Checks) (o : LOps) (m : IntMod) : State → State :=
  completes i (fun s => s.wrNat o.d (IType.regs m.ty) (bitReverse (IType.width m.ty) (s.me.rdNat o.a (IType.regs m.ty))))

/-- R52: COND. -/
def Cond.ofCode (n : Nat) : Cond :=
  match n with
  | 0 => .eq | 1 => .ne | 2 => .lt | 3 => .le | 4 => .gt | 5 => .ge | 6 => .un | _ => .ord
def condOf (d : Reg) : Cond := Cond.ofCode (d.toNat / 8 % 8)
/-- R109: the relation of an integer comparison. -/
def intCond (c : Cond) (a b : Int) : Bool :=
  match c with
  | .eq => decide (a = b) | .ne => decide (a ≠ b) | .lt => decide (a < b) | .le => decide (a ≤ b)
  | .gt => decide (b < a) | .ge => decide (b ≤ a) | .un => false | .ord => true
def cmpOp (i : Checks) (o : LOps) (m : IntMod) : State → State :=
  completes i (fun s => s.setPred (o.d.setWidth 3) (intCond (condOf o.d) (intSrc s m.ty o.a) (intB s o m.ty)))
/-- R110. -/
def selOp (i : Checks) (o : LOps) (m : IntMod) : State → State :=
  completes i (fun s =>
    s.wrInt o.d m.ty (if s.me.pred (o.c.setWidth 3) then intSrc s m.ty o.a else intB s o m.ty))
/-- R111. -/
def movOp (i : Checks) (o : LOps) (m : IntMod) : State → State :=
  completes i (fun s => s.wrInt o.d m.ty (intB s o m.ty))
/-- R112. -/
def leaValue (s : State) (o : LOps) (m : IntMod) : Dword :=
  let base := if o.a = 0 then s.me.pc else s.me.rd2 o.a
  let index : Dword := if m.ty = .i32 then (s.me.rd o.b).signExtend 64 else (s.me.rd o.b).setWidth 64
  base + index <<< m.sub.toNat + (o.lit.getD 0).signExtend 64
def leaOp (i : Checks) (o : LOps) (m : IntMod) : State → State := completes i (fun s => s.wr2 o.d (leaValue s o m))

/-! ### The meanings that `exec` calls -/

def execAdd (o : LOps) (m : IntMod) (s : State) : Out := .next (addOp (Instr.add o m).checks o m s)
def execSub (o : LOps) (m : IntMod) (s : State) : Out := .next (subOp (Instr.sub o m).checks o m s)
def execAddc (o : LOps) (m : IntMod) (s : State) : Out := .next (addcOp (Instr.addc o m).checks o m s)
def execSubb (o : LOps) (m : IntMod) (s : State) : Out := .next (subbOp (Instr.subb o m).checks o m s)
def execMul (o : LOps) (m : IntMod) (s : State) : Out := .next (mulOp (Instr.mul o m).checks o m s)
def execMulh (o : LOps) (m : IntMod) (s : State) : Out := .next (mulhOp (Instr.mulh o m).checks o m s)
def execMad (o : LOps) (m : IntMod) (s : State) : Out := .next (madOp (Instr.mad o m).checks o m s)
def execDiv (o : LOps) (m : IntMod) (s : State) : Out := .next (divOp (Instr.div o m).checks o m s)
def execRem (o : LOps) (m : IntMod) (s : State) : Out := .next (remOp (Instr.rem o m).checks o m s)
def execMin (o : LOps) (m : IntMod) (s : State) : Out := .next (minOp (Instr.min o m).checks o m s)
def execMax (o : LOps) (m : IntMod) (s : State) : Out := .next (maxOp (Instr.max o m).checks o m s)
def execAbs (o : LOps) (m : IntMod) (s : State) : Out := .next (absOp (Instr.abs o m).checks o m s)
def execNeg (o : LOps) (m : IntMod) (s : State) : Out := .next (negOp (Instr.neg o m).checks o m s)
def execAnd (o : LOps) (m : IntMod) (s : State) : Out := .next (andOp (Instr.and o m).checks o m s)
def execOr (o : LOps) (m : IntMod) (s : State) : Out := .next (orOp (Instr.or o m).checks o m s)
def execXor (o : LOps) (m : IntMod) (s : State) : Out := .next (xorOp (Instr.xor o m).checks o m s)
def execAndn (o : LOps) (m : IntMod) (s : State) : Out := .next (andnOp (Instr.andn o m).checks o m s)
def execShl (o : LOps) (m : IntMod) (s : State) : Out := .next (shlOp (Instr.shl o m).checks o m s)
def execShr (o : LOps) (m : IntMod) (s : State) : Out := .next (shrOp (Instr.shr o m).checks o m s)
def execSar (o : LOps) (m : IntMod) (s : State) : Out := .next (sarOp (Instr.sar o m).checks o m s)
def execRot (o : LOps) (m : IntMod) (s : State) : Out := .next (rotOp (Instr.rot o m).checks o m s)
def execBfx (o : LOps) (m : IntMod) (s : State) : Out := .next (bfxOp (Instr.bfx o m).checks o m s)
def execBfi (o : LOps) (m : IntMod) (s : State) : Out := .next (bfiOp (Instr.bfi o m).checks o m s)
def execPopc (o : LOps) (m : IntMod) (s : State) : Out := .next (popcOp (Instr.popc o m).checks o m s)
def execClz (o : LOps) (m : IntMod) (s : State) : Out := .next (clzOp (Instr.clz o m).checks o m s)
def execBrev (o : LOps) (m : IntMod) (s : State) : Out := .next (brevOp (Instr.brev o m).checks o m s)
def execCmp (o : LOps) (m : IntMod) (s : State) : Out := .next (cmpOp (Instr.cmp o m).checks o m s)
def execSel (o : LOps) (m : IntMod) (s : State) : Out := .next (selOp (Instr.sel o m).checks o m s)
def execMov (o : LOps) (m : IntMod) (s : State) : Out := .next (movOp (Instr.mov o m).checks o m s)
def execLea (o : LOps) (m : IntMod) (s : State) : Out := .next (leaOp (Instr.lea o m).checks o m s)
def execAddI32S32 (o : SOps) (s : State) : Out := .next (addOp (Instr.add o.long (.s .i32)).checks.short o.long (.s .i32) s)
def execSubI32S32 (o : SOps) (s : State) : Out := .next (subOp (Instr.sub o.long (.s .i32)).checks.short o.long (.s .i32) s)
def execMulI32S32 (o : SOps) (s : State) : Out := .next (mulOp (Instr.mul o.long (.s .i32)).checks.short o.long (.s .i32) s)
def execAndN32S32 (o : SOps) (s : State) : Out := .next (andOp (Instr.and o.long (.s .n32)).checks.short o.long (.s .n32) s)
def execOrN32S32 (o : SOps) (s : State) : Out := .next (orOp (Instr.or o.long (.s .n32)).checks.short o.long (.s .n32) s)
def execXorN32S32 (o : SOps) (s : State) : Out := .next (xorOp (Instr.xor o.long (.s .n32)).checks.short o.long (.s .n32) s)
def execShlN32S32 (o : SOps) (s : State) : Out := .next (shlOp (Instr.shl o.long (.s .n32)).checks.short o.long (.s .n32) s)
def execShrN32S32 (o : SOps) (s : State) : Out := .next (shrOp (Instr.shr o.long (.s .n32)).checks.short o.long (.s .n32) s)
def execSarI32S32 (o : SOps) (s : State) : Out := .next (sarOp (Instr.sar o.long (.s .i32)).checks.short o.long (.s .i32) s)
def execMinI32S32 (o : SOps) (s : State) : Out := .next (minOp (Instr.min o.long (.s .i32)).checks.short o.long (.s .i32) s)
def execMaxI32S32 (o : SOps) (s : State) : Out := .next (maxOp (Instr.max o.long (.s .i32)).checks.short o.long (.s .i32) s)
def execMinN32S32 (o : SOps) (s : State) : Out := .next (minOp (Instr.min o.long (.s .n32)).checks.short o.long (.s .n32) s)
def execMaxN32S32 (o : SOps) (s : State) : Out := .next (maxOp (Instr.max o.long (.s .n32)).checks.short o.long (.s .n32) s)
def execMovN32S32 (o : SOps) (s : State) : Out := .next (movOp (Instr.mov o.long (.s .n32)).checks.short o.long (.s .n32) s)
def execCmpI32S32 (o : SOps) (s : State) : Out := .next (cmpOp (Instr.cmp o.long (.s .i32)).checks.short o.long (.s .i32) s)
def execCmpN32S32 (o : SOps) (s : State) : Out := .next (cmpOp (Instr.cmp o.long (.s .n32)).checks.short o.long (.s .n32) s)

end Sys2Proof.Machine
end

