-- ==== Sys2Proof/Machine/Flags.lean ====
section
/-! DEFINITION. Floating-point control and flags: rounding by an instruction (R120, R122, R123), raising flags, the arithmetic trap and the
logged mode (R121, R126 to R128). -/
namespace Sys2Proof.Machine

def fcrPhase (fcr : Word) : Nat := (fcr.extractLsb' 16 6).toNat
def fcrPstep (fcr : Word) : Nat := (fcr.extractLsb' 10 6).toNat
/-- R120, R122: the mode `.DYN` stands for; 7 acts as `.RN`. -/
def drnd (fcr : Word) : Rnd :=
  match (fcr.extractLsb' 0 3).toNat with
  | 0 => .rn | 1 => .rz | 2 => .rp | 3 => .rm | 4 => .ra | 5 => .rs | 6 => .ro | _ => .rn
def resolveRnd (fcr : Word) (r : Rnd) : Rnd := if r = .dyn then drnd fcr else r

/-- R123: the dither term of element `k` of `n` in a register of the issuing thread. -/
def State.dither (s : State) (n k : Nat) : Nat := ditherIdx (n * s.me.member + k) (fcrPhase s.me.fcr)

/-- How a vector instruction rounds element `k` of `n` (R46, R120, R123). -/
def State.roundBy (s : State) (m : FpMod) (n k : Nat) : RoundBy :=
  { mode := resolveRnd s.me.fcr m.rnd, sat := m.sat, ftz := m.ftz, dither := s.dither n k }

/-- R121: raise flags in `sr.fsr`. -/
def State.setFlags (s : State) (fl : Flags) : State := s.upd (fun t => { t with fsr := t.fsr ||| fl.setWidth 32 })

/-- R127, R128: an instruction that raises `fl`: an enabled flag takes the arithmetic trap and nothing is written, except in the logged
mode, which records it and goes on. -/
def State.raising (s : State) (fl : Flags) (k : State → State) : State :=
  if fl &&& ten s.me.fcr = 0 then k (s.setFlags fl)
  else if logged s.me.fcr then k ((s.setFlags fl).appendLog fl)
  else s.trap 11 0 (fl.setWidth 64)

/-- R127: the same for a conversion or an SFU instruction: while a trap is enabled it completes before the next instruction; otherwise its
result arrives later, with its flags (R69, R126); `sfu` is the bundle of an SFU instruction (R158). -/
def State.raisingQueued (i : Checks) (s : State) (d : Reg) (ws : List Word) (fl : Flags) (sfu : Option (Dword × Nat) := none) : State :=
  if ten s.me.fcr = 0 then (s.enqueue d ws fl sfu).advance i
  else s.raising fl (fun s => (s.upd (fun t => (t.wrs d ws).mend d ws.length)).advance i)

end Sys2Proof.Machine
end

