-- ==== Sys2Proof/Machine/Float.lean ====
section
/-! DEFINITION. The floating-point, conversion and packed instructions (R129 to R145). -/
namespace Sys2Proof.Machine

/-! ### Operands -/

/-- F32 bits widened exactly to F64, a NaN with its payload (R129). -/
def widenF32 (x : Nat) : Nat :=
  let sign := x / 2 ^ 31 % 2 * 2 ^ 63
  let ex := x / 2 ^ 23 % 256
  let ma := x % 2 ^ 23
  if ex = 255 then sign + 2047 * 2 ^ 52 + ma * 2 ^ 29
  else sign + (Fmt.f64.round noBank { mode := .rn } (Num.abs (Fmt.f32.value noBank x))).1

/-- Bits an operand of a type occupies (R129): an F64 operand is a pair, a 16-bit value lies in the low half of its register. -/
def fmtWidth (f : Fmt) : Nat := f.storage (fun _ => 8)
def fpSrc (s : State) (f : Fmt) (r : Reg) : Nat := s.me.rdNat r f.regs % 2 ^ fmtWidth f
/-- Source B, or LIT32 in its place (R129). -/
def fpB (s : State) (o : LOps) (f : Fmt) : Nat :=
  match o.lit with
  | some l => if f = .f64 then widenF32 l.toNat else l.toNat % 2 ^ fmtWidth f
  | none => fpSrc s f o.b
def fpVal (s : State) (f : Fmt) (x : Nat) : Num := f.value (s.bank s.me) x

/-! ### Arithmetic (R131, R132, R138) -/

/-- A result and its flags, rounded once by the instruction's fields; the flags of the operation itself join those of `Round`. -/
def roundFp (s : State) (m : FpMod) (f : Fmt) (v : Num × Flags) : Nat × Flags :=
  let (x, fl) := f.round (s.bank s.me) (s.roundBy m 1 0) v.1
  (x, fl ||| v.2)

/-- Write a result of format `f`, raising flags. -/
def fpDone (i : Checks) (s : State) (d : Reg) (f : Fmt) (r : Nat × Flags) : State :=
  s.raising r.2 (fun s => (s.wrNat d f.regs r.1).advance i)

/-- The mode under which an exact zero sum is −0 (R131). -/
def isRm (s : State) (m : FpMod) : Bool := resolveRnd s.me.fcr m.rnd == .rm

def fpArith2 (f : Bool → Num → Num → Num × Flags) (i : Checks) (o : LOps) (m : FpMod) : State → State :=
  issue i (fun s => fpDone i s o.d m.ty (roundFp s m m.ty (f (isRm s m) (fpVal s m.ty (fpSrc s m.ty o.a)) (fpVal s m.ty (fpB s o m.ty)))))
def fpArith3 (f : Bool → Num → Num → Num → Num × Flags) (i : Checks) (o : LOps) (m : FpMod) : State → State :=
  issue i (fun s => fpDone i s o.d m.ty (roundFp s m m.ty
    (f (isRm s m) (fpVal s m.ty (fpSrc s m.ty o.a)) (fpVal s m.ty (fpB s o m.ty)) (fpVal s m.ty (fpSrc s m.ty o.c)))))

def fpAddOp := fpArith2 (fun rm a b => a.add rm b)
def fpSubOp := fpArith2 (fun rm a b => a.add rm b.neg)
def fpMulOp := fpArith2 (fun _ a b => a.mul b)
def fmaOp := fpArith3 (fun rm a b c => Num.fma rm a b c)
def fmsOp := fpArith3 (fun rm a b c => Num.fma rm a b c.neg)
def fnmaOp := fpArith3 (fun rm a b c => Num.fma rm a.neg b c)
def fnmsOp := fpArith3 (fun rm a b c => Num.fma rm a.neg b c.neg)

/-- R132: a quotient; under SAT an infinity from a division by zero gives the largest finite value. DEDUCED (assumption 16). -/
def divRound (s : State) (m : FpMod) (v : Num × Flags) : Nat × Flags :=
  if v.2 &&& flagDZ ≠ 0 ∧ m.sat ≠ .none then
    let r := m.ty.round (s.bank s.me) { s.roundBy m 1 0 with sat := .sati } v.1
    (r.1, v.2)
  else roundFp s m m.ty v
def fpDivOp (i : Checks) (o : LOps) (m : FpMod) : State → State :=
  issue i (fun s => fpDone i s o.d m.ty (divRound s m ((fpVal s m.ty (fpSrc s m.ty o.a)).div (fpVal s m.ty (fpB s o m.ty)))))
def sqrtOp (i : Checks) (o : LOps) (m : FpMod) : State → State :=
  issue i (fun s => fpDone i s o.d m.ty (roundFp s m m.ty (fpVal s m.ty (fpSrc s m.ty o.a)).sqrt))

/-- R138: `A × 2^n`, n a signed 32-bit integer. -/
def scaleOp (i : Checks) (o : LOps) (m : FpMod) : State → State :=
  issue i (fun s =>
    let v := fpVal s m.ty (fpSrc s m.ty o.a)
    fpDone i s o.d m.ty (roundFp s m m.ty (v.scale (o.lit.getD (s.me.rd o.b)).toInt, v.snan)))

/-- R138: ⌊log2 |A|⌋. -/
def getexpValue : Num → Word × Flags
  | .nan _ => (0x80000000, flagIV)
  | .inf _ => (0x7FFFFFFF, 0)
  | .fin _ m e => if m = 0 then (0x80000000, flagDZ) else (BitVec.ofInt 32 (floorLog m e), 0)
def getexpOp (i : Checks) (o : LOps) (m : FpMod) : State → State :=
  issue i (fun s =>
    let (w, fl) := getexpValue (fpVal s m.ty (fpSrc s m.ty o.a))
    s.raising fl (fun s => (s.wr o.d w).advance i))

/-! ### Selection, signs, comparison, classes (R133 to R137) -/

def fpMinMax (max : Bool) (i : Checks) (o : LOps) (m : FpMod) : State → State :=
  issue i (fun s => fpDone i s o.d m.ty (minMaxBits (s.bank s.me) m.ty max (fpSrc s m.ty o.a) (fpB s o m.ty)))

/-- R134: a bit operation on the sign; the sign bit is the top bit of the value. -/
def signOp (f : Bool → Bool → Bool) (i : Checks) (o : LOps) (m : FpMod) : State → State :=
  completes i (fun s =>
    let w := fmtWidth m.ty
    let x := fpSrc s m.ty o.a
    let sgn := f (x.testBit (w - 1)) ((fpB s o m.ty).testBit (w - 1))
    s.wrNat o.d m.ty.regs (x % 2 ^ (w - 1) + (if sgn then 2 ^ (w - 1) else 0)))

/-- R135: the outcome and the flag of a comparison. -/
def fpCond (c : Cond) (a b : Num) : Bool × Flags :=
  let sn := a.snan ||| b.snan
  match a.cmp b with
  | none =>
    match c with
    | .eq => (false, sn) | .ne => (true, sn) | .un => (true, sn) | .ord => (false, sn)
    | _ => (false, flagIV)
  | some r =>
    (match c with
      | .eq => r == .eq | .ne => r != .eq | .lt => r == .lt | .le => r != .gt | .gt => r == .gt | .ge => r != .lt
      | .un => false | .ord => true, 0)
def fpCmpOp (i : Checks) (o : LOps) (m : FpMod) : State → State :=
  issue i (fun s =>
    let (c, fl) := fpCond (condOf o.d) (fpVal s m.ty (fpSrc s m.ty o.a)) (fpVal s m.ty (fpB s o m.ty))
    s.raising fl (fun s => (s.setPred (o.d.setWidth 3) c).advance i))

/-- R136: the class bit of a value of a format with `mb` mantissa bits and a smallest normal of 2^`emin`. -/
def classOf (f : FSpec) (v : Num) : Nat :=
  match v with
  | .nan sg => if sg then 1 else 2
  | .inf neg => if neg then 4 else 512
  | .fin neg m e =>
    let normal := match f with | .flt _ _ _ bias _ => decide (1 - bias ≤ floorLog m e) | _ => true
    if m = 0 then (if neg then 32 else 64)
    else if normal then (if neg then 8 else 256)
    else (if neg then 16 else 128)
def classOp (i : Checks) (o : LOps) (m : FpMod) : State → State :=
  completes i (fun s => s.wr o.d (BitVec.ofNat 32 (classOf (m.ty.spec (s.bank s.me)) (fpVal s m.ty (fpSrc s m.ty o.a)))))

/-- R137: an integral value in the same format. -/
def rintValue (s : State) (m : FpMod) (v : Num) : Nat × Flags :=
  let mode := resolveRnd s.me.fcr m.rnd
  let mode := if mode = .rs ∨ mode = .ro then .rn else mode
  let bank := s.bank s.me
  match v with
  | .fin neg k e =>
    let (n, exact) := if k = 0 then (0, true) else roundGrid { mode := mode } neg false k e 0
    ((m.ty.round bank { mode := .rn } (.fin neg n 0)).1, if exact then 0 else flagNX)
  | v => ((m.ty.round bank { mode := .rn } v).1, v.snan)
def rintOp (i : Checks) (o : LOps) (m : FpMod) : State → State :=
  issue i (fun s => fpDone i s o.d m.ty (rintValue s m (fpVal s m.ty (fpSrc s m.ty o.a))))

/-! ### Conversions (R139 to R141) -/

/-- The bits of an element of any format in the low storage bits of a register or pair. -/
def rawSrc (s : State) (f : Fmt) (r : Reg) : Nat := s.me.rdNat r f.regs % 2 ^ f.bits (s.bank s.me)

def cvtOp (i : Checks) (o : LOps) (m : FpMod) : State → State :=
  issue i (fun s =>
    let fs := Fmt.ofCode (o.c.setWidth 5)
    let v := fpVal s fs (rawSrc s fs o.a)
    let (x, fl) := roundFp s m m.ty (v, v.snan)
    s.raisingQueued i o.d (natWords m.ty.regs x) fl)

/-- R140: a float as an integer of a type: the range is judged on the rounded integer. -/
def cvtiValue (b : RoundBy) (t : IType) (v : Num) : Int × Flags :=
  match v with
  | .nan _ => (0, flagIV)
  | .inf neg => (if neg then IType.lo t else IType.hi t, flagIV)
  | .fin neg m e =>
    let (n, exact) := if m = 0 then (0, true) else roundGrid b neg false m e 0
    let i : Int := if neg then -(n : Int) else n
    if i < IType.lo t then (IType.lo t, flagIV)
    else if IType.hi t < i then (IType.hi t, flagIV)
    else (i, if exact then 0 else flagNX)
def cvtiOp (i : Checks) (o : LOps) (m : FpMod) : State → State :=
  issue i (fun s =>
    let t := IType.ofCode (o.c.setWidth 3)
    let (v, fl) := cvtiValue (s.roundBy m 1 0) t (fpVal s m.ty (fpSrc s m.ty o.a))
    s.raisingQueued i o.d (intWords t v) fl)
def cvtfOp (i : Checks) (o : LOps) (m : FpMod) : State → State :=
  issue i (fun s =>
    let t := IType.ofCode (o.c.setWidth 3)
    let (x, fl) := roundFp s m m.ty (.int (intSrc s t o.a), 0)
    s.raisingQueued i o.d (natWords m.ty.regs x) fl)

/-! ### Packed instructions (R142 to R145) -/

/-- Element `i` of `w` bits in a 32-bit register (R113). -/
def elem (x : Word) (w i : Nat) : Nat := x.toNat / 2 ^ (w * i) % 2 ^ w
/-- R142: ELEM. -/
def activeElems (m : FpMod) (n : Nat) : Nat := if m.sub = 0 then n else m.sub.toNat
/-- Source B as a whole register, or LIT32: a packed operand takes all 32 bits of the literal. DESIGN CHOICE (assumption 86). -/
def wordB (s : State) (o : LOps) : Word := o.lit.getD (s.me.rd o.b)
/-- Pack elements, and gather their flags. -/
def packElems (w : Nat) (l : List (Nat × Flags)) : Nat × Flags :=
  l.foldr (fun x acc => (x.1 % 2 ^ w + 2 ^ w * acc.1, x.2 ||| acc.2)) (0, 0)

/-- R143: two 16-bit elements; an enabled flag of any element traps the whole instruction (R127). -/
def packedOp (f : State → FpMod → Nat → Nat → Nat → Nat → Nat × Flags) (i : Checks) (o : LOps) (m : FpMod) : State → State :=
  issue i (fun s =>
    let a := s.me.rd o.a
    let b := wordB s o
    let c := s.me.rd o.c
    let r := packElems 16 ((List.range (activeElems m 2)).map (fun k => f s m k (elem a 16 k) (elem b 16 k) (elem c 16 k)))
    s.raising r.2 (fun s => (s.wr o.d (BitVec.ofNat 32 r.1)).advance i))

def roundElem (s : State) (m : FpMod) (k : Nat) (v : Num × Flags) : Nat × Flags :=
  let (x, fl) := m.ty.round (s.bank s.me) (s.roundBy m 2 k) v.1
  (x, fl ||| v.2)
def paddOp := packedOp (fun s m k a b _ => roundElem s m k ((fpVal s m.ty a).add (isRm s m) (fpVal s m.ty b)))
def pmulOp := packedOp (fun s m k a b _ => roundElem s m k ((fpVal s m.ty a).mul (fpVal s m.ty b)))
def pfmaOp := packedOp (fun s m k a b c => roundElem s m k (Num.fma (isRm s m) (fpVal s m.ty a) (fpVal s m.ty b) (fpVal s m.ty c)))
def pmaxOp := packedOp (fun s m _ a b _ => minMaxBits (s.bank s.me) m.ty true a b)

/-- R144: the exact sum of `c` and the products, with the flags of R125: a NaN among the terms gives a NaN; infinities of both signs are invalid; the
order of the terms plays no part. -/
def pdotSum (rm : Bool) (c : Num) (l : List (Num × Num)) : Num × Flags :=
  let ps := l.map (fun p => p.1.mul p.2)
  let terms := c :: ps.map (·.1)
  let fl := ps.foldl (fun f p => f ||| p.2) c.snan
  if terms.any (·.isNan) then (.nan false, fl)
  else if terms.contains (.inf true) && terms.contains (.inf false) then (.nan false, fl ||| flagIV)
  else (ps.foldl (fun v p => (v.add rm p.1).1) c, fl)
def pdotOp (i : Checks) (o : LOps) (m : FpMod) : State → State :=
  issue i (fun s =>
    let n := pdotN (some (s.bank s.me)) m.ty
    let e := pdotElem m
    let k := if e = 0 then n else e
    let w := 32 / n
    let a := s.me.rd o.a
    let b := wordB s o
    let ps := (List.range k).map (fun j => (fpVal s m.ty (elem a w j), fpVal s m.ty (elem b w j)))
    if m.ty.isIntDot then
      let v := (pdotSum false (.int (s.me.rd o.c).toInt) ps).1
      let x : Int := match v with | .fin neg q e => (if neg then -(q : Int) else q) * 2 ^ e.toNat | _ => 0
      (s.wrInt o.d .i32 (if m.sat = .sat then min (max x (IType.lo .i32)) (IType.hi .i32) else x)).advance i
    else
      let v := pdotSum (isRm s m) (fpVal s .f32 (s.me.rd o.c).toNat) ps
      let (x, fl) := Fmt.f32.round (s.bank s.me) (s.roundBy m 1 0) v.1
      s.raising (fl ||| v.2) (fun s => (s.wr o.d (BitVec.ofNat 32 x)).advance i))

/-- R145: conversion between F32 registers and a packed register, with an E8M0 scale. -/
def pcvtElem (s : State) (m : FpMod) (n k : Nat) (sc : Num) (v : Num) : Nat × Flags :=
  let b := { s.roundBy m n k with scaled := true }
  let scaled : Num := match sc with
    | .nan _ => .nan false
    | .fin _ _ e => if pcvtUp m then v.scale e else v.scale (-e)
    | .inf _ => v
  let (x, fl) := (if pcvtUp m then Fmt.f32 else m.ty).round (s.bank s.me) b scaled
  (x, fl ||| v.snan)
def pcvtOp (i : Checks) (o : LOps) (m : FpMod) : State → State :=
  issue i (fun s =>
    let n := pcvtN (s.bank s.me) m.ty
    let k := pcvtK n m
    let w := 32 / n
    let sc := Fmt.e8m0.value noBank ((wordB s o).toNat % 256)
    if pcvtUp m then
      let rs := (List.range k).map (fun j => pcvtElem s m n j sc (fpVal s m.ty (elem (s.me.rd o.a) w j)))
      s.raisingQueued i o.d (rs.map (fun r => BitVec.ofNat 32 r.1)) (packElems 1 rs).2
    else
      let rs := (List.range k).map (fun j => pcvtElem s m n j sc (fpVal s .f32 (s.me.rd (o.a + BitVec.ofNat 8 j)).toNat))
      let r := packElems w rs
      s.raisingQueued i o.d [BitVec.ofNat 32 r.1] r.2)

/-! ### The meanings that `exec` calls -/

def execFpAdd (o : LOps) (m : FpMod) (s : State) : Out := .next (fpAddOp (Instr.fpAdd o m).checks o m s)
def execFpSub (o : LOps) (m : FpMod) (s : State) : Out := .next (fpSubOp (Instr.fpSub o m).checks o m s)
def execFpMul (o : LOps) (m : FpMod) (s : State) : Out := .next (fpMulOp (Instr.fpMul o m).checks o m s)
def execFma (o : LOps) (m : FpMod) (s : State) : Out := .next (fmaOp (Instr.fma o m).checks o m s)
def execFms (o : LOps) (m : FpMod) (s : State) : Out := .next (fmsOp (Instr.fms o m).checks o m s)
def execFnma (o : LOps) (m : FpMod) (s : State) : Out := .next (fnmaOp (Instr.fnma o m).checks o m s)
def execFnms (o : LOps) (m : FpMod) (s : State) : Out := .next (fnmsOp (Instr.fnms o m).checks o m s)
def execFpDiv (o : LOps) (m : FpMod) (s : State) : Out := .next (fpDivOp (Instr.fpDiv o m).checks o m s)
def execSqrt (o : LOps) (m : FpMod) (s : State) : Out := .next (sqrtOp (Instr.sqrt o m).checks o m s)
def execFpMin (o : LOps) (m : FpMod) (s : State) : Out := .next (fpMinMax false (Instr.fpMin o m).checks o m s)
def execFpMax (o : LOps) (m : FpMod) (s : State) : Out := .next (fpMinMax true (Instr.fpMax o m).checks o m s)
def execFpAbs (o : LOps) (m : FpMod) (s : State) : Out := .next (signOp (fun _ _ => false) (Instr.fpAbs o m).checks o m s)
def execFpNeg (o : LOps) (m : FpMod) (s : State) : Out := .next (signOp (fun a _ => !a) (Instr.fpNeg o m).checks o m s)
def execCpysgn (o : LOps) (m : FpMod) (s : State) : Out := .next (signOp (fun _ b => b) (Instr.cpysgn o m).checks o m s)
def execFpCmp (o : LOps) (m : FpMod) (s : State) : Out := .next (fpCmpOp (Instr.fpCmp o m).checks o m s)
def execFclass (o : LOps) (m : FpMod) (s : State) : Out := .next (classOp (Instr.fclass o m).checks o m s)
def execRint (o : LOps) (m : FpMod) (s : State) : Out := .next (rintOp (Instr.rint o m).checks o m s)
def execScale (o : LOps) (m : FpMod) (s : State) : Out := .next (scaleOp (Instr.scale o m).checks o m s)
def execGetexp (o : LOps) (m : FpMod) (s : State) : Out := .next (getexpOp (Instr.getexp o m).checks o m s)
def execCvt (o : LOps) (m : FpMod) (s : State) : Out := .next (cvtOp (Instr.cvt o m).checks o m s)
def execCvti (o : LOps) (m : FpMod) (s : State) : Out := .next (cvtiOp (Instr.cvti o m).checks o m s)
def execCvtf (o : LOps) (m : FpMod) (s : State) : Out := .next (cvtfOp (Instr.cvtf o m).checks o m s)
def execPadd (o : LOps) (m : FpMod) (s : State) : Out := .next (paddOp (Instr.padd o m).checks o m s)
def execPmul (o : LOps) (m : FpMod) (s : State) : Out := .next (pmulOp (Instr.pmul o m).checks o m s)
def execPfma (o : LOps) (m : FpMod) (s : State) : Out := .next (pfmaOp (Instr.pfma o m).checks o m s)
def execPdot (o : LOps) (m : FpMod) (s : State) : Out := .next (pdotOp (Instr.pdot o m).checks o m s)
def execPcvt (o : LOps) (m : FpMod) (s : State) : Out := .next (pcvtOp (Instr.pcvt o m).checks o m s)
def execPmax (o : LOps) (m : FpMod) (s : State) : Out := .next (pmaxOp (Instr.pmax o m).checks o m s)
def execAddF32S32 (o : SOps) (s : State) : Out := .next (fpAddOp (Instr.fpAdd o.long (.s .f32)).checks.short o.long (.s .f32) s)
def execSubF32S32 (o : SOps) (s : State) : Out := .next (fpSubOp (Instr.fpSub o.long (.s .f32)).checks.short o.long (.s .f32) s)
def execMulF32S32 (o : SOps) (s : State) : Out := .next (fpMulOp (Instr.fpMul o.long (.s .f32)).checks.short o.long (.s .f32) s)
def execMinF32S32 (o : SOps) (s : State) : Out := .next (fpMinMax false (Instr.fpMin o.long (.s .f32)).checks.short o.long (.s .f32) s)
def execMaxF32S32 (o : SOps) (s : State) : Out := .next (fpMinMax true (Instr.fpMax o.long (.s .f32)).checks.short o.long (.s .f32) s)
def execCmpF32S32 (o : SOps) (s : State) : Out := .next (fpCmpOp (Instr.fpCmp o.long (.s .f32)).checks.short o.long (.s .f32) s)
def execAddF64S32 (o : SOps) (s : State) : Out := .next (fpAddOp (Instr.fpAdd o.long (.s .f64)).checks.short o.long (.s .f64) s)
def execSubF64S32 (o : SOps) (s : State) : Out := .next (fpSubOp (Instr.fpSub o.long (.s .f64)).checks.short o.long (.s .f64) s)
def execMulF64S32 (o : SOps) (s : State) : Out := .next (fpMulOp (Instr.fpMul o.long (.s .f64)).checks.short o.long (.s .f64) s)

end Sys2Proof.Machine
end

