-- ==== Sys2Proof/Machine/Lanes.lean ====
section
/-! DEFINITION. The cross-lane instructions (R146 to R157) and the special-function instructions (R158 to R160). -/
namespace Sys2Proof.Machine

/-- What each participant of an instance presented, by member index. -/
abbrev Parts := List (Nat × Nat × List Dword)
def Parts.val (ps : Parts) (j : Nat) : Option Nat := (ps.find? (·.2.1 = j)).map (fun p => (p.2.2.headD 0).toNat)
def Parts.members (ps : Parts) : List Nat := ps.map (·.2.1)

/-- A value as presented: a pair for F64, one register otherwise (R147). -/
def laneSrc (s : State) (m : FpMod) (r : Reg) : Dword := BitVec.ofNat 64 (s.me.rdNat r m.ty.regs)
/-- A participant receives its result: the ordinal rises and the thread goes on (R73). -/
def laneDone (i : Checks) (m : FpMod) (d : Reg) (v : Nat) (s : State) : State := (s.wrNat d m.ty.regs v).passed i.syl

/-- A cross-lane instruction: the sources are read before the thread arrives (R146). -/
def laneOp (i : Checks) (o : LOps) (data : State → List Dword) (finish : Parts → State → State) : State → State :=
  issue i (fun s => s.cancelPoint (fun s => s.collective .coll (s.collMask o) false (data s) finish))

/-- R149: the member a selector names. -/
def shflSrc (sub : BitVec 4) (self c : Nat) : Int :=
  match sub.toNat with
  | 0 => c
  | 1 => (self : Int) - c
  | 2 => self + c
  | _ => (self ^^^ c : Nat)
def shflOp (i : Checks) (o : LOps) (m : FpMod) : State → State :=
  laneOp i o (fun s => [laneSrc s m o.a]) (fun ps s =>
    let src := shflSrc m.sub s.me.member (s.me.rd o.c).toNat
    let own := (Parts.val ps s.me.member).getD 0
    laneDone i m o.d (if 0 ≤ src ∧ src < s.me.width s then (Parts.val ps src.toNat).getD own else own) s)

/-- R150: unequal selectors are a mismatch; a selector that names no participant is illegal; no ordinal changes. -/
def bcastOp (i : Checks) (o : LOps) (m : FpMod) : State → State :=
  laneOp i o (fun s => [laneSrc s m o.a, (s.me.rd o.c).setWidth 64]) (fun ps s =>
    let sel (p : Nat × Nat × List Dword) : Nat := (p.2.2.getD 1 0).toNat
    let c := (s.me.rd o.c).toNat
    if ps.any (fun p => sel p ≠ c) then s.trap 8 0 0
    else match Parts.val ps c with
      | none => s.trap 7 0 0
      | some v => laneDone i m o.d v s)

/-- R151. -/
def voteOp (i : Checks) (o : LOps) (m : FpMod) : State → State :=
  laneOp i o (fun s => [if s.me.pred (o.a.setWidth 3) then 1 else 0]) (fun ps s =>
    let on := ps.filter (fun (p : Nat × Nat × List Dword) => p.2.2.headD 0 != 0)
    (match m.sub.toNat with
      | 0 => s.setPred (o.d.setWidth 3) (!on.isEmpty)
      | 1 => s.setPred (o.d.setWidth 3) (on.length == ps.length)
      | 2 => s.wrNat o.d 2 ((on.map (fun (p : Nat × Nat × List Dword) => 2 ^ p.2.1)).sum)
      | _ => s.wr o.d (BitVec.ofNat 32 on.length)).passed i.syl)

/-- R152. -/
def matchOp (i : Checks) (o : LOps) (m : FpMod) : State → State :=
  laneOp i o (fun s => [laneSrc s m o.a]) (fun ps s =>
    let own := Parts.val ps s.me.member
    (s.wrNat o.d 2 (((ps.filter (fun (p : Nat × Nat × List Dword) => Parts.val ps p.2.1 = own)).map (fun (p : Nat × Nat × List Dword) => 2 ^ p.2.1)).sum)).passed i.syl)

/-! ### The fixed tree (R153) -/

/-- The node operation of an op and type on bits. -/
def laneNode (b : RoundBy) (ty : Fmt) (op : Nat) (x y : Nat) : Nat × Flags :=
  if ty = .i32 then
    let sx := asInt 4 x
    let sy := asInt 4 y
    (match op with
      | 0 => (x + y) % 2 ^ 32
      | 1 => if sy < sx then y else x
      | 2 => if sx < sy then y else x
      | 3 => x &&& y
      | 4 => x ||| y
      | _ => x ^^^ y, 0)
  else
    match op with
    | 0 =>
      let (v, f) := (ty.value noBank x).add (b.mode == .rm) (ty.value noBank y)
      let (r, g) := ty.round noBank b v
      (r, f ||| g)
    | 1 => minMaxBits noBank ty false x y
    | _ => minMaxBits noBank ty true x y

/-- One level of the tree: pairs of neighbours; a node with one present child passes it through. -/
def treeLevel (f : Nat → Nat → Nat × Flags) : List (Option Nat) → List (Option Nat) × Flags
  | a :: b :: l =>
    let (r, g) := treeLevel f l
    match a, b with
    | none, b => (b :: r, g)
    | a, none => (a :: r, g)
    | some x, some y => let (z, h) := f x y; (some z :: r, h ||| g)
  | l => (l, 0)
/-- R153: `Tree(S)` over 64 leaves, six levels, with the flags of its nodes. DEDUCED (assumption 45). -/
def treeOf (f : Nat → Nat → Nat × Flags) : Nat → List (Option Nat) → Option Nat × Flags
  | 0, l => ((l.headD none), 0)
  | k + 1, l =>
    let (l, g) := treeLevel f l
    let (r, h) := treeOf f k l
    (r, g ||| h)
def fixedTree (b : RoundBy) (ty : Fmt) (op : Nat) (v : Nat → Option Nat) : Option Nat × Flags :=
  treeOf (laneNode b ty op) 6 ((List.range 64).map v)

/-- R153: the identity of an exclusive scan. -/
def laneIdentity (ty : Fmt) (op : Nat) : Nat :=
  match op, ty with
  | 1, .f64 => 0x7FF0000000000000
  | 1, .f32 => 0x7F800000
  | 1, _ => 0x7FFFFFFF
  | 2, .f64 => 0xFFF0000000000000
  | 2, .f32 => 0xFF800000
  | 2, _ => 0x80000000
  | 3, _ => 0xFFFFFFFF
  | _, _ => 0

/-- R154: a participant receives its result and flags, or takes the arithmetic trap with its ordinal increased. -/
def laneResult (i : Checks) (m : FpMod) (d : Reg) (v : Nat) (fl : Flags) (s : State) : State :=
  if fl &&& ten s.me.fcr = 0 then laneDone i m d v (s.setFlags fl)
  else if logged s.me.fcr then laneDone i m d v ((s.setFlags fl).appendLog fl)
  else (s.upd (fun t => { t with ord := t.ord + 1 })).trap 11 0 (fl.setWidth 64)

def laneRound (m : FpMod) : RoundBy := { mode := m.rnd, sat := m.sat, ftz := m.ftz }
def laneRedOp (i : Checks) (o : LOps) (m : FpMod) : State → State :=
  laneOp i o (fun s => [laneSrc s m o.a]) (fun ps s =>
    let (v, fl) := fixedTree (laneRound m) m.ty (m.sub.toNat % 8) (Parts.val ps)
    laneResult i m o.d (v.getD 0) fl s)
/-- R153, R154: each participant's scan; the flags any node of the instance raises are those of every participant's tree. DEDUCED (assumption 45). -/
def laneScanAt (m : FpMod) (ps : Parts) (self : Nat) : Option Nat × Flags :=
  let ex := m.sub.getLsbD 3
  fixedTree (laneRound m) m.ty (m.sub.toNat % 8) (fun j => if j < self ∨ (!ex ∧ j = self) then Parts.val ps j else none)
/-- DEDUCED (assumption 45). -/
def laneScanOp (i : Checks) (o : LOps) (m : FpMod) : State → State :=
  laneOp i o (fun s => [laneSrc s m o.a]) (fun ps s =>
    let fl := (Parts.members ps).foldl (fun f j => f ||| (laneScanAt m ps j).2) 0
    laneResult i m o.d ((laneScanAt m ps s.me.member).1.getD (laneIdentity m.ty (m.sub.toNat % 8))) fl s)

/-! ### `LANE.CHAIN` (R156, R157) -/

def State.groupAt (s : State) (t : Thread) (gid : Nat) : Option Group :=
  s.groups.find? (fun g => g.gang = t.gang ∧ g.role = t.role ∧ g.gid = gid)
/-- R157: a group is closed when its last thread has exited. -/
def State.closed (s : State) (t : Thread) (gid : Nat) : Bool :=
  s.threads.all (fun u => !(u.gang == t.gang && u.role == t.role && u.gid == gid) || u.run == .exited)
def Group.edge (up : Bool) (g : Group) : Option Dword := if up then g.edgeUp else g.edgeDown
def Group.setEdge (up : Bool) (v : Option Dword) (g : Group) : Group := if up then { g with edgeUp := v } else { g with edgeDown := v }
def State.setEdge (s : State) (t : Thread) (gid : Nat) (up : Bool) (v : Option Dword) : State :=
  { s with groups := s.groups.map (fun g => if g.gang = t.gang ∧ g.role = t.role ∧ g.gid = gid then g.setEdge up v else g) }

/-- What the chain's edge member receives: C at the chain's start, or the inbound buffer's value; `none` while it is empty. -/
inductive Edge where
  | value (v : Option Nat)     -- `none` stands for C
  | wait
  | never
  deriving DecidableEq, Repr

def chainTake (s : State) (t : Thread) (g : Group) (up : Bool) : Edge :=
  let last := (s.groupAt t (g.gid + 1)).isNone
  if (up && g.gid == 0) || (!up && last) then .value none
  else match g.edge up with
    | some v => .value (some v.toNat)
    | none => if s.closed t (if up then g.gid - 1 else g.gid + 1) then .never else .wait

/-- R156: the neighbour that a value is put to, if it exists and is not closed. -/
def chainTo (s : State) (t : Thread) (g : Group) (up : Bool) : Option Group :=
  if up then (s.groupAt t (g.gid + 1)).filter (fun h => !s.closed t h.gid)
  else if g.gid = 0 then none else (s.groupAt t (g.gid - 1)).filter (fun h => !s.closed t h.gid)

/-- The started member next below, or next above. -/
def prevMember (g : Group) (i : Nat) : Option Nat := ((List.range i).filter (fun j => g.started.getLsbD j)).getLast?
def nextMember (g : Group) (i : Nat) : Option Nat := ((List.range 64).filter (fun j => decide (i < j) && g.started.getLsbD j)).head?

/-- R156: the buffer that the instance puts its last value into is empty, or the value goes nowhere. -/
def State.chainFree (s : State) (t : Thread) (g : Group) (up : Bool) : Bool :=
  match chainTo s t g up with
  | none => true
  | some h => (h.edge up).isNone
/-- R156: the instance empties the buffer that it has taken from. DEDUCED (assumption 45). -/
def State.chainGet (s : State) (g : Group) (up : Bool) : Edge → State
  | .value (some _) => s.setEdge s.me g.gid up none
  | _ => s
/-- R156: the instance puts the value of its last member in its direction; a value that no group receives is discarded. DEDUCED (assumption 45). -/
def State.chainPut (s : State) (g : Group) (up : Bool) (v : Option Nat) : State :=
  match chainTo s s.me g up with
  | none => s
  | some h => s.setEdge s.me h.gid up (v.map (BitVec.ofNat 64))

/-- R155: a chain that thread `t` waits at, with all members, has both its `Take` and its `Put` met; the wait names the direction. -/
def State.chainMeets (s : State) (t : Thread) : Bool :=
  match t.arrival, s.group? t with
  | some w, some g => w.kind == .chain && w.obj != 0 && (match chainTake s t g (w.obj == 1) with | .value _ => true | _ => false) && s.chainFree t g (w.obj == 1)
  | _, _ => false

/-- R156, R157: once all started members have arrived, the instance waits until both its `Take` and its `Put` can be met, and is complete when they are: a trap before that
leaves both buffers as they were (R7). DEDUCED (assumption 45). -/
def chainOp (i : Checks) (o : LOps) (m : FpMod) : State → State :=
  issue i (fun s => s.cancelPoint (fun s =>
    match s.group? s.me with
    | none => s.trap 7 0 0
    | some g =>
      let mask := s.collMask o
      if memberMask g.width mask ≠ g.started then s.trap 7 0 0
      else
        let up : Bool := m.sub = 0
        let data := [laneSrc s m o.a]
        let here := s.instance_ (memberMask g.width mask)
        match s.participants .chain (memberMask g.width mask) false data with
        | none => s.collective .chain mask false data (fun _ s => s)
        | some ps =>
          let last := if up then ((List.range 64).filter (fun j => g.started.getLsbD j)).getLast?
            else ((List.range 64).filter (fun j => g.started.getLsbD j)).head?
          let wait : Wait := { kind := .chain, mask := memberMask g.width mask, data := data, obj := if up then 1 else 2 }
          match chainTake s s.me g up with
          | .never => s.trapAll 8 (s.me.uid :: here.map (·.uid))
          | .wait => s.awaitWith wait
          | .value e =>
            if !s.chainFree s.me g up then s.awaitWith wait
            else
              ps.foldl (fun s p => s.asThread p.1 (fun s =>
                let from_ := if up then prevMember g s.me.member else nextMember g s.me.member
                let v := match from_ with
                  | some j => (Parts.val ps j).getD 0
                  | none => e.getD (s.me.rdNat o.c m.ty.regs)
                laneDone i m o.d v s)) ((s.chainGet g up (.value e)).chainPut g up (last.bind (Parts.val ps)))))

/-! ### Special functions (R158 to R160) -/

/-- The functions of the SFU. -/
inductive Sfu where
  | rcp | rsq | exp2 | log2 | sin | cos | tanh
  deriving DecidableEq, Repr
def Sfu.code : Sfu → Nat
  | .rcp => 0 | .rsq => 1 | .exp2 => 2 | .log2 => 3 | .sin => 4 | .cos => 5 | .tanh => 6

def one : Num := .fin false 1 0

/-- R160: the special inputs; `none` for the others. -/
def sfuSpecial (f : Sfu) (x : Num) : Option (Num × Flags) :=
  match x with
  | .nan sg => some (.nan false, if sg then flagIV else 0)
  | .inf neg =>
    some (match f with
      | .rcp => (.fin neg 0 0, 0)
      | .rsq => if neg then (.nan false, flagIV) else (.fin false 0 0, 0)
      | .exp2 => if neg then (.fin false 0 0, 0) else (.inf false, 0)
      | .log2 => if neg then (.nan false, flagIV) else (.inf false, 0)
      | .sin | .cos => (.nan false, flagIV)
      | .tanh => (.fin neg 1 0, 0))
  | .fin neg m _ =>
    if m = 0 then
      some (match f with
        | .rcp | .rsq => (.inf neg, flagDZ)
        | .exp2 | .cos => (one, 0)
        | .log2 => (.inf true, flagDZ)
        | .sin | .tanh => (x, 0))
    else if neg ∧ (f = .rsq ∨ f = .log2) then some (.nan false, flagIV)
    else none

/-- The power of two that a finite number is, if it is one. -/
def pow2Of : Num → Option Int
  | .fin _ m e => if m ≠ 0 ∧ m = 2 ^ m.log2 then some ((m.log2 : Int) + e) else none
  | _ => none
/-- The integer that a finite number is, if it is one. -/
def intOf : Num → Option Int
  | .fin neg m e =>
    if 0 ≤ e then some (signed neg (m * 2 ^ e.toNat))
    else if m % 2 ^ (-e).toNat = 0 then some (signed neg (m / 2 ^ (-e).toNat)) else none
  | _ => none

/-- 1/√x, as √(1/x): the quotient keeps at least 160 bits, and a last bit stands for what the root and the quotient leave. -/
def rootOfInverse : Num → Option Num
  | .fin _ m e =>
    let up := 2 * m.log2 + 400
    let q := 2 ^ up / m
    let e' : Int := -e - up
    let q2 := if e' % 2 = 0 then q else 2 * q
    let e2 := if e' % 2 = 0 then e' else e' - 1
    let r := Nat.sqrt q2
    some (sticky r (!(r * r == q2 && 2 ^ up % m == 0)) false (e2 / 2))
  | _ => none

/-- R159: results that are exact, or correctly rounded: RCP and RSQ of 16-bit formats, EXP2 of integers with a representable result, LOG2 at
powers of two. -/
def sfuExact (f : Sfu) (fmt : Fmt) (x : Num) : Option Num :=
  match f with
  | .rcp => if fmt ≠ .f32 ∨ (pow2Of x).isSome then some (one.div x).1 else none
  | .rsq =>
    if fmt ≠ .f32 ∨ ((pow2Of x).map (· % 2 == 0)).getD false then rootOfInverse x else none
  | .exp2 =>
    match if fmt = .f32 then intOf x else none with
    | some k => if -200 < k ∧ k < 200 then
        let v : Num := .fin false 1 k
        if (fmt.round noBank { mode := .rn } v).2 = 0 then some v else none
      else none
    | none => none
  | .log2 => if fmt = .f32 then (pow2Of x).map .int else none
  | _ => none

/-- The function at an input that is none of those of R160, to about 2^-80. DESIGN CHOICE (assumption 1). DESIGN CHOICE (assumption 17). -/
def sfuCentre (f : Sfu) (x : Num) : Num :=
  match f with
  | .rcp => (one.div x).1
  | .rsq => (rootOfInverse x).getD x
  | .exp2 => x.exp2
  | .log2 => x.log2
  | .sin => x.sin
  | .cos => x.cos
  | .tanh => x.tanh
/-- R159: how far an approximation may lie from the exact result, which is near `c`. DESIGN CHOICE (assumption 17). -/
def sfuBound (f : Sfu) (fmt : Fmt) (x c : Num) : Num :=
  let ulp := (fmt.spec noBank).ulpAt c
  let two := ulp.scale 1
  let abs (k : Int) : Num := .fin false 1 k
  match f with
  | .rcp => ulp
  | .rsq => two
  | .exp2 => if fmt = .f32 then two else ulp
  | .log2 =>
    if fmt ≠ .f32 then ulp
    else if x.cmp (abs (-1)) = some .lt ∨ x.cmp (abs 1) = some .gt then two else abs (-22)
  | .sin | .cos => if fmt = .f32 then abs (-21) else abs (-9)
  | .tanh => if fmt = .f32 then two.max (abs (-24)) else ulp

/-- R158: an SFU result: an exact one, or the Round step over an approximation whose bits the manual does not give, within the bound of R159; the
approximation is marked inexact (R159). DESIGN CHOICE (assumption 1). DESIGN CHOICE (assumption 17). -/
def sfuValue (f : Sfu) (m : FpMod) (b : RoundBy) (bits : Nat) : Nat × Flags :=
  let x := m.ty.value noBank bits
  match sfuSpecial f x with
  | some (v, fl) =>
    let (r, g) := m.ty.round noBank b v
    (r, fl ||| g)
  | none =>
    match sfuExact f m.ty x with
    | some v => m.ty.round noBank b v
    | none =>
      let (k, e) := Config.sfuApprox f.code m.ty.code.toNat bits
      let c := sfuCentre f x
      let (r, g) := m.ty.round noBank b (c.near (sfuBound f m.ty x c) (.ofInt false k e))
      (r, g ||| flagNX)
/-- R158: the bundles in the SFU queue of the issuing thread's partition. -/
def State.sfuBundles (s : State) : List (Dword × Nat) :=
  ((s.threads.filter (fun t => t.core = s.me.core ∧ t.part = s.me.part)).flatMap (fun t => t.prods.filterMap (·.sfu))).dedup
/-- R158: the queue holds 32 bundles, and this instruction belongs to none of them. -/
def State.sfuFull (s : State) : Bool := decide (32 ≤ s.sfuBundles.length) && !s.sfuBundles.contains (s.me.pc, s.cycle)
def sfuOp (f : Sfu) (i : Checks) (o : LOps) (m : FpMod) : State → State :=
  issue i (fun s =>
    if s.sfuFull then s.await .queue
    else
      let (r, fl) := sfuValue f m { mode := .rn, sat := m.sat, ftz := m.ftz } (fpSrc s m.ty o.a)
      s.raisingQueued i o.d [BitVec.ofNat 32 r] fl (some (s.me.pc, s.cycle)))

/-! ### The meanings that `exec` calls -/

def execShfl (o : LOps) (m : FpMod) (s : State) : Out := .next (shflOp (Instr.shfl o m).checks o m s)
def execBcast (o : LOps) (m : FpMod) (s : State) : Out := .next (bcastOp (Instr.bcast o m).checks o m s)
def execVote (o : LOps) (m : FpMod) (s : State) : Out := .next (voteOp (Instr.vote o m).checks o m s)
def execLaneRed (o : LOps) (m : FpMod) (s : State) : Out := .next (laneRedOp (Instr.laneRed o m).checks o m s)
def execLaneScan (o : LOps) (m : FpMod) (s : State) : Out := .next (laneScanOp (Instr.laneScan o m).checks o m s)
def execLaneChain (o : LOps) (m : FpMod) (s : State) : Out := .next (chainOp (Instr.laneChain o m).checks o m s)
def execMatchAny (o : LOps) (m : FpMod) (s : State) : Out := .next (matchOp (Instr.matchAny o m).checks o m s)
def execRcp (o : LOps) (m : FpMod) (s : State) : Out := .next (sfuOp .rcp (Instr.rcp o m).checks o m s)
def execRsq (o : LOps) (m : FpMod) (s : State) : Out := .next (sfuOp .rsq (Instr.rsq o m).checks o m s)
def execExp2 (o : LOps) (m : FpMod) (s : State) : Out := .next (sfuOp .exp2 (Instr.exp2 o m).checks o m s)
def execLog2 (o : LOps) (m : FpMod) (s : State) : Out := .next (sfuOp .log2 (Instr.log2 o m).checks o m s)
def execSin (o : LOps) (m : FpMod) (s : State) : Out := .next (sfuOp .sin (Instr.sin o m).checks o m s)
def execCos (o : LOps) (m : FpMod) (s : State) : Out := .next (sfuOp .cos (Instr.cos o m).checks o m s)
def execTanh (o : LOps) (m : FpMod) (s : State) : Out := .next (sfuOp .tanh (Instr.tanh o m).checks o m s)
def execRcpF32S32 (o : SOps) (s : State) : Out := .next (sfuOp .rcp (Instr.rcp o.long (.s .f32)).checks.short o.long (.s .f32) s)
def execRsqF32S32 (o : SOps) (s : State) : Out := .next (sfuOp .rsq (Instr.rsq o.long (.s .f32)).checks.short o.long (.s .f32) s)
def execExp2F32S32 (o : SOps) (s : State) : Out := .next (sfuOp .exp2 (Instr.exp2 o.long (.s .f32)).checks.short o.long (.s .f32) s)
def execLog2F32S32 (o : SOps) (s : State) : Out := .next (sfuOp .log2 (Instr.log2 o.long (.s .f32)).checks.short o.long (.s .f32) s)

end Sys2Proof.Machine
end

