-- ==== Sys2Proof/Machine/Stream.lean ====
section
/-! DEFINITION. The stream unit: `SSYNC` (R161) and the loop-nest instructions (R162 to R170). -/
namespace Sys2Proof

/-! ### The traversal (R164) -/

/-- R164: the number of elements, and the index vector of a traversal index. -/
def NestOps.total (o : NestOps) : Nat := (List.range o.nlev.toNat).foldl (fun p j => p * o.extent j) 1
def NestOps.index (o : NestOps) (n j : Nat) : Nat := n / (List.range j).foldl (fun p k => p * o.extent k) 1 % o.extent j
/-- R164: the byte displacement of element `n` of operand `k` (0 D, 1 A, 2 B), for elements of `size` bytes. -/
def NestOps.disp (o : NestOps) (k size n : Nat) : Int :=
  size * (List.range o.nlev.toNat).foldl (fun (a : Int) j => a + o.index n j * o.stride k j) 0
/-- R168: the least and greatest displacement of the traversal. -/
def NestOps.box (o : NestOps) (k size : Nat) : Int × Int :=
  (List.range o.nlev.toNat).foldl (fun (b : Int × Int) j =>
    let x : Int := size * ((o.extent j : Int) - 1) * o.stride k j
    if x < 0 then (b.1 + x, b.2) else (b.1, b.2 + x)) (0, 0)

end Sys2Proof

namespace Sys2Proof.Machine

/-! ### Operand words (R163) -/

def wordSp (w : Dword) : Nat := (w.extractLsb' 62 2).toNat
def wordFmt (w : Dword) : Fmt := Fmt.ofCode (w.extractLsb' 57 5)
/-- R163: the operand word is legal; `cvtA` says that it is A of `NEST.CVT`, whose format is one of those that the destination may have. DESIGN CHOICE (assumption 87). -/
def wordOk (bank : FBank) (cvtA : Bool) (w : Dword) : Bool :=
  (if cvtA then (wordFmt w).nestCvt (some bank) else w.extractLsb' 57 5 == 0) &&
  (match wordSp w with
    | 0 => true
    | 1 => w.extractLsb' 32 25 == 0
    | 2 => w.extractLsb' 38 19 == 0
    | _ => false)
def wordOff (w : Dword) : Nat := (w.extractLsb' 0 32).toNat
def wordTile (w : Dword) : Option Nat := if wordSp w = 2 then some (w.extractLsb' 32 6).toNat else none

/-- The row of each operation code (R58, R165): it reads A, it reads B, it reads D, it writes a register. -/
def opReadsA (op : Nat) : Bool := op != 2
def opReadsB (op : Nat) : Bool := decide (4 ≤ op ∧ op ≤ 9) || op == 0x16
def opReadsD (op : Nat) : Bool := op == 7
def opToReg (op : Nat) : Bool := decide (0x12 ≤ op ∧ op ≤ 0x17)

/-! ### What an element computes (R165 to R167) -/

/-- R166: the format a reduction accumulates in, and an element widened to it, unchanged. -/
def accFmt : Fmt → Fmt
  | .f64 => .f64
  | .i32 => .i32
  | _ => .f32
def widenAcc (f : Fmt) (x : Nat) : Nat :=
  match f with
  | .bf16 => x * 2 ^ 16
  | .f16 =>
    if x / 2 ^ 10 % 32 = 31 then x / 2 ^ 15 * 2 ^ 31 + 255 * 2 ^ 23 + x % 2 ^ 10 * 2 ^ 13
    else x / 2 ^ 15 * 2 ^ 31 + (Fmt.f32.round noBank { mode := .rn } (Num.abs (Fmt.f16.value noBank x))).1
  | _ => x

def roundWith (bank : FBank) (f : Fmt) (b : RoundBy) (v : Num × Flags) : Nat × Flags :=
  let (x, fl) := f.round bank b v.1
  (x, fl ||| v.2)

/-- R165: the result of an elementwise operation on the bits of A, B and D. -/
def nestElem (bank : FBank) (c : StreamCmd) (b : RoundBy) (x y d : Nat) : Nat × Flags :=
  let f := c.o.ty
  let rm := b.mode == .rm
  let v := f.value bank
  let i32 (z : Int) : Nat × Flags := ((z % 2 ^ 32).toNat, 0)
  let sx := asInt 4 x
  let sy := asInt 4 y
  let sfu (g : Sfu) : Nat × Flags := sfuValue g (FpMod.s f) { mode := .rn } x
  match c.op with
  | 0x01 => (x, 0)
  | 0x02 => (c.bw.toNat % 2 ^ f.bits bank, 0)
  | 0x03 => let a := (wordFmt c.aw).value bank x; roundWith bank f b (a, a.snan)
  | 0x04 => if f = .i32 then i32 (sx + sy) else roundWith bank f b ((v x).add rm (v y))
  | 0x05 => if f = .i32 then i32 (sx - sy) else roundWith bank f b ((v x).add rm (v y).neg)
  | 0x06 => if f = .i32 then i32 (sx * sy) else roundWith bank f b ((v x).mul (v y))
  | 0x07 => roundWith bank f b (Num.fma rm (v x) (v y) (v d))
  | 0x08 => if f = .i32 then (if sy < sx then y else x, 0) else minMaxBits bank f false x y
  | 0x09 => if f = .i32 then (if sx < sy then y else x, 0) else minMaxBits bank f true x y
  | 0x0A =>
    if f = .i32 then i32 (if sx < 0 then -sx else sx) else let w := f.bits bank; (x % 2 ^ (w - 1), 0)
  | 0x0B =>
    if f = .i32 then i32 (-sx) else let w := f.bits bank; (x % 2 ^ (w - 1) + (if x.testBit (w - 1) then 0 else 2 ^ (w - 1)), 0)
  | 0x0C => roundWith bank f b ((v x).mul (v (c.bw.toNat % 2 ^ f.bits bank)))
  | 0x0D =>
    match v x with
    | .nan sg => ((f.round bank b (.nan false)).1, if sg then flagIV else 0)
    | z => (if z.cmp (.fin false 0 0) = some .gt then x else 0, 0)
  | 0x0E => sfu .exp2
  | 0x0F => sfu .tanh
  | 0x10 => sfu .rcp
  | _ => sfu .rsq

/-- R166: one term of a reduction: the partial sum it joins holds `p`, or nothing yet. DESIGN CHOICE (assumption 46). -/
def reduceStep (c : StreamCmd) (b : RoundBy) (p : Option Nat) (x y : Nat) : Nat × Flags :=
  let f := c.o.ty
  let g := accFmt f
  let rm := b.mode == .rm
  let xa := widenAcc f x
  let ya := widenAcc f y
  let v := g.value noBank
  match c.op with
  | 0x12 => (match p with | none => (xa, 0) | some p => laneNode b g 0 p xa)
  | 0x14 => (match p with | none => (xa, 0) | some p => laneNode b g 2 p xa)
  | 0x15 => (match p with | none => (xa, 0) | some p => laneNode b g 1 p xa)
  | op =>
    let (s, t) := if op = 0x13 then (xa, xa) else (xa, ya)
    if g = .i32 then
      let z := s * t + (p.getD 0)
      (z % 2 ^ 32, 0)
    else match p with
      | none => roundWith noBank g b ((v s).mul (v t))
      | some p => roundWith noBank g b (Num.fma rm (v s) (v t) (v p))
/-- R167: the element is larger than the best so far, by the order of R133. -/
def argGreater (f : Fmt) (best x : Nat) : Bool :=
  if f = .i32 then decide (asInt 4 best < asInt 4 x)
  else
    let a := f.value noBank best
    let z := f.value noBank x
    match a.cmp z with
    | some .lt => true
    | some .eq => a.sign && !z.sign && z.isZero
    | _ => false

/-- The effect of element `n` on what the instruction accumulates, and the value it writes, with its flags. DESIGN CHOICE (assumption 46). -/
def StreamCmd.element (bank : FBank) (c : StreamCmd) (b : RoundBy) (n x y d : Nat) : StreamCmd × Option Nat × Flags :=
  let put (k v : Nat) : StreamCmd := { c with acc := (List.range (Nat.max c.acc.length (k + 1))).map (fun i => if i = k then some v else (c.acc[i]?).join) }
  if c.op = 0x17 then
    let fl : Flags := if c.o.ty = .i32 then 0 else (c.o.ty.value noBank x).snan
    if c.o.ty ≠ .i32 ∧ (c.o.ty.value noBank x).isNan then (c, none, fl)
    else match (c.acc[1]?).join with
      | some best => if argGreater c.o.ty best x then ({ c with acc := [some n, some x] }, none, fl) else (c, none, fl)
      | none => ({ c with acc := [some n, some x] }, none, fl)
  else if c.op = 0x18 then
    match (c.acc[0]?).join with
    | none => (put 0 x, some x, 0)
    | some p =>
      let (r, fl) : Nat × Flags := if c.o.ty = .i32 then ((p + x) % 2 ^ 32, 0)
        else roundWith bank c.o.ty b ((c.o.ty.value bank p).add (b.mode == .rm) (c.o.ty.value bank x))
      (put 0 r, some r, fl)
  else if opToReg c.op then
    let (r, fl) := reduceStep c b ((c.acc[n % 16]?).join) x y
    (put (n % 16) r, none, fl)
  else
    let (r, fl) := nestElem bank c b x y d
    (c, some r, fl)

/-! ### Running an instruction (R168 to R170) -/

def StreamCmd.word (c : StreamCmd) (k : Nat) : Dword := if k = 0 then c.dw else if k = 1 then c.aw else c.bw
def StreamCmd.size (bank : FBank) (c : StreamCmd) (k : Nat) : Nat :=
  (if c.op = 3 ∧ k = 1 then (wordFmt c.aw).bits bank else c.o.ty.bits bank) / 8

/-- Where element `n` of operand `k` stands: global, or the scratch of the gang. -/
inductive StrPlace where
  | glb (va : Dword)
  | scr (gang a : Nat)
  deriving DecidableEq, Repr
def State.strAddr (s : State) (c : StreamCmd) (bank : FBank) (k n : Nat) : StrPlace :=
  let w := c.word k
  let d := c.o.disp k (c.size bank k) n
  let gang := ((s.thread? c.uid).map (·.gang)).getD 0
  match wordSp w with
  | 0 => .glb ((w.extractLsb' 0 57).signExtend 64 + BitVec.ofInt 64 d)
  | 1 => .scr gang ((wordOff w : Int) + d).toNat
  | _ =>
    let base := ((s.tile? c.core ((wordTile w).getD 0)).map (·.base)).getD 0
    .scr gang ((base : Int) + wordOff w + d).toNat

/-- A source element, which Batten receives (R229); a word in error is held pending (R399). DESIGN CHOICE (assumption 92). -/
def State.strGet (s : State) (c : StreamCmd) (bank : FBank) (k n : Nat) : Elem Nat :=
  let size := c.size bank k
  match s.strAddr c bank k n with
  | .scr g a =>
    if a % size ≠ 0 then .stop (.faulted { cause := 12, faddr := BitVec.ofNat 64 a, code := 0, elem := n }) s
    else if s.scratchStruck g c.core a size then .stop (.faulted { cause := 5, faddr := 0, code := 2, elem := n }) s
    else .got (bytesNat (s.scrRead g c.core a size)) (s.countBatten c.core 0)
  | .glb va =>
    match s.engPlace c.core c.uid va size n .read with
    | .held s => .held s
    | .stop st s => .stop st s
    | .got pa s =>
      let (bs, s) := s.engRead c.core c.uid c.pc 2 pa size
      .got (bytesNat bs) s
/-- Find the place of the destination before anything is written. DESIGN CHOICE (assumption 46). -/
def State.strFind (s : State) (c : StreamCmd) (bank : FBank) (n : Nat) : Elem Nat :=
  let size := c.size bank 0
  match s.strAddr c bank 0 n with
  | .scr _ a => if a % size ≠ 0 then .stop (.faulted { cause := 12, faddr := BitVec.ofNat 64 a, code := 0, elem := n }) s else .got a s
  | .glb va => s.engPlace c.core c.uid va size n .write
/-- A destination element, which Batten receives (R229, R234). DESIGN CHOICE (assumption 92). -/
def State.strPut (s : State) (c : StreamCmd) (bank : FBank) (n at_ v : Nat) : State :=
  let bs := natBytes (c.size bank 0) v
  match s.strAddr c bank 0 n with
  | .scr g _ => (s.scrWrite g c.core at_ (bs.map some) none).countBatten c.core 0
  | .glb _ => s.engWrite c.core c.uid c.id c.pc at_ bs

/-- R127, R170: flags of an element: an enabled one stops the instruction, except in the logged mode. -/
def State.strFlags (s : State) (c : StreamCmd) (n : Nat) (fl : Flags) : Option (Pend) × State :=
  if fl &&& ten c.fcr = 0 then (none, s)
  else if logged c.fcr then (none, (s.mapThread c.uid (fun t => { t with logs := LogWait.note c.pc (fl &&& ten c.fcr) t.logs })).flushLogs c.uid false)
  else (some { cause := 11, faddr := 0, code := fl.toNat, elem := n }, s)

/-- Element `n` of an instruction. DESIGN CHOICE (assumption 46). DEDUCED (assumption 47). -/
def State.strStep (s : State) (c : StreamCmd) (bank : FBank) (n : Nat) : Elem StreamCmd :=
  let b : RoundBy := { mode := resolveRnd c.fcr c.o.rnd, dither := ditherIdx n (fcrPhase c.fcr) }
  let read (k : Nat) (on : Bool) (s : State) : Elem Nat := if on then s.strGet c bank k n else .got 0 s
  match read 1 (opReadsA c.op) s with
  | .held s => .held s
  | .stop st s => .stop st s
  | .got x s => match read 2 (opReadsB c.op) s with
    | .held s => .held s
    | .stop st s => .stop st s
    | .got y s => match read 0 (opReadsD c.op) s with
      | .held s => .held s
      | .stop st s => .stop st s
      | .got d s =>
        let (c', w, fl) := c.element bank b n x y d
        let c' := { c' with flags := c.flags ||| fl }
        match w with
        | none => (match s.strFlags c n fl with
          | (some p, s) => .stop (.faulted p) s
          | (none, s) => .got c' s)
        | some v => match s.strFind c bank n with
          | .held s => .held s
          | .stop st s => .stop st s
          | .got a s => match s.strFlags c n fl with
            | (some p, s) => .stop (.faulted p) s
            | (none, s) => .got c' (s.strPut c bank n a v)

/-- The elements from `c.done` on, at most so many of them. -/
def State.strLoop (bank : FBank) : Nat → State → StreamCmd → State × StreamCmd
  | 0, s, c => (s, c)
  | k + 1, s, c =>
    match s.strStep c bank c.done with
    | .got c' s => State.strLoop bank k s { c' with done := c.done + 1 }
    | .stop st s => (s, { c with st := st })
    | .held s => (s, c)

/-- R166, R167: the words of the destination pair and the flags of the last combining steps. -/
def StreamCmd.result (c : StreamCmd) : List Word × Flags :=
  if c.op = 0x17 then ([BitVec.ofNat 32 (((c.acc[0]?).join).getD 0xFFFFFFFF), 0], 0)
  else
    let g := accFmt c.o.ty
    let b : RoundBy := { mode := resolveRnd c.fcr c.o.rnd, dither := ditherIdx 0 (fcrPhase c.fcr) }
    let op := if c.op = 0x14 then 2 else if c.op = 0x15 then 1 else 0
    let (v, fl) := fixedTree b g op (fun j => (c.acc[j]?).join)
    (natWords 2 (v.getD 0), fl)

def State.setStream (s : State) (c : StreamCmd) : State := { s with streams := s.streams.map (fun x => if x.id = c.id then c else x) }
/-- R169: the instruction has completed. -/
def State.strDone (s : State) (c : StreamCmd) : State :=
  let finish (s : State) (ws : List Word) (fl : Flags) : State :=
    let s : State := { s with streams := s.streams.filter (·.id ≠ c.id) }
    let s := match c.tile with | some id => (s.mapTile c.core id (fun t => { t with st := .ready, copied := none })).wakeTile c.core id | none => s
    let s := if ((s.thread? c.uid).map (·.logs.isEmpty)).getD true then s else s.commandLog c.uid c.pc 0
    s.mapThread c.uid (fun t =>
      let t := { t with fsr := t.fsr ||| fl.setWidth 32 }
      match t.prods.find? (fun p => some p.tag = c.tag) with
      | some p => t.arrive p ws
      | none => t)
  if opToReg c.op then
    let (ws, fl) := c.result
    match s.strFlags c (c.o.total - 1) fl with
    | (some p, s) => s.setStream { c with st := .faulted p }
    | (none, s) => finish s ws (c.flags ||| fl)
  else finish s [] c.flags

/-- The stream instructions of resident gangs on a core, in arrival order. -/
def State.streamsOf (s : State) (core : Nat) : List StreamCmd :=
  s.streams.filter (fun c => c.core == core && !s.away ((s.gkeyOf c.uid).gang))
/-- R169: the instruction may run: it is the first of its thread that has not ended, and the thread's earlier accesses have performed. DESIGN CHOICE (assumption 46). DEDUCED (assumption 73). -/
def State.strMay (s : State) (c : StreamCmd) : Bool :=
  c.st == .queued &&
  ((s.streamsOf c.core).takeWhile (·.id ≠ c.id)).all (fun x => !x.st.live || x.uid != c.uid) &&
  !s.ops.any (fun o => o.uid == c.uid && decide (o.id < c.id))
/-- R168 to R170: the stream unit of a core runs its next instruction for at most `k` elements (all of them where there is no bound), until it completes or stops. One that
waits for a guard slot holds those behind it. DESIGN CHOICE (assumption 46). -/
def State.streamRun (s : State) (core : Nat) (k : Option Nat := none) : State :=
  let open_ (c : StreamCmd) : Bool := c.st == .queued && s.cmdSlot (s.gkeyOf c.uid) c.o.gs == none
  match ((s.streamsOf core).takeWhile (fun c => !open_ c)).find? s.strMay with
  | none => s
  | some c =>
    if s.cmdSlot (s.gkeyOf c.uid) c.o.gs = some false then s.discardStream c
    else if c.srcs.any (s.srcStruck core) then s.setStream { c with st := .faulted { cause := 5, faddr := 0, code := 2, elem := c.done } }
    else
      let bank := ((s.thread? c.uid).map s.bank).getD noBank
      let (s, c) := State.strLoop bank (Nat.min (k.getD c.o.total) (c.o.total - c.done)) s c
      if c.done = c.o.total ∧ c.st = .queued then s.strDone c else s.setStream c

/-! ### SSYNC (R161) -/

def ssyncOp (i : Checks) : State → State :=
  issue i (fun s =>
    let mine := s.streams.filter (·.uid = s.me.uid)
    if mine.any (·.st.live) then s.await .order
    else match mine.find? (·.st.isFaulted) with
      | some c => (match c.st with
        | .faulted p =>
          let s : State := match c.tile with
            | some _ => s.setStream { c with st := .dead }
            | none => { s with streams := s.streams.filter (·.id ≠ c.id) }
          (s.upd (fun t => { t with prods := t.prods.filter (fun x => some x.tag ≠ c.tag) })).pendTrap p c.pc
        | _ => s.advance i)
      | none => s.advance i)

/-! ### Issue (R163, R168) -/

/-- The operands of an operation, in the order D, A, B, with whether each is written. -/
def nestOperands (op : Nat) : List (Nat × Bool) :=
  (if opToReg op then [] else [(0, true)]) ++ (if opReadsA op then [(1, false)] else []) ++ (if opReadsB op then [(2, false)] else [])

/-- R168: a scratch or tile operand lies within the scratchpad or its tile. -/
def boxOk (c : StreamCmd) (bank : FBank) (k : Nat) (lo hi : Nat) : Bool :=
  let (a, b) := c.o.box k (c.size bank k)
  let base := (lo : Int) + wordOff (c.word k)
  decide ((lo : Int) ≤ base + a ∧ base + b + c.size bank k ≤ hi)
def State.operandTrap (s : State) (k : Nat) : State := s.trap 16 0 (BitVec.ofNat 64 k)

/-- R163, R168: the checks of the operands that trap, in the order D, A, B. -/
def State.checkOperands (c : StreamCmd) (bank : FBank) (go : State → State) : List (Nat × Bool) → State → State
  | [], s => go s
  | (k, write) :: l, s =>
    let w := c.word k
    if !wordOk bank (c.op == 3 && k == 1) w then s.operandTrap k
    else match wordSp w with
      | 0 => State.checkOperands c bank go l s
      | 1 =>
        if boxOk c bank k 0 (((s.pad? s.me.gang s.me.core).map (·.size)).getD 0) then State.checkOperands c bank go l s else s.operandTrap k
      | _ =>
        s.onTile ((wordTile w).getD 0) write (fun t s =>
          if boxOk c bank k t.base (t.base + t.rows * t.pitch) then State.checkOperands c bank go l s else s.operandTrap k)

/-- R168: the tiles of an instruction are as it needs them. DEDUCED (assumption 47). -/
def State.tilesReady (s : State) (c : StreamCmd) : Bool :=
  (nestOperands c.op).all (fun x =>
    match wordTile (c.word x.1) with
    | none => true
    | some id => match s.tile? s.me.core id with
      | none => false
      | some t =>
        if x.2 then (t.st == .ready || (t.st == .empty && c.op != 7)) && !s.tileRead s.me.core id
        else t.st == .ready)

/-- R123: PHASE after an instruction that rounds by `.RS`. -/
def stepPhase (fcr : Word) : Word :=
  (fcr &&& ~~~ (0x3F#32 <<< 16)) ||| (BitVec.ofNat 32 ((fcrPhase fcr + fcrPstep fcr) % 64) <<< 16)

/-- R166 to R168: the instruction of operation number `op` is checked and enters the stream queue of its core. -/
def nestOp (op : Nat) (o : NestOps) : State → State :=
  issue (nestChecks op o) (fun s =>
    let bank := s.bank s.me
    let base (p : BitVec 7) : Dword := s.me.rd2 (pairReg p)
    let c : StreamCmd :=
      { id := s.fresh, core := s.me.core, uid := s.me.uid, pc := s.me.pc, op := op, o := o, dw := base o.db, aw := base o.ab, bw := base o.bb,
        fcr := s.me.fcr, tag := if opToReg op then some s.fresh else none, tile := if opToReg op then none else wordTile (base o.db), prior := .empty,
        srcs := ((nestOperands op).filter (fun x => !x.2)).filterMap (fun x => wordTile (if x.1 = 1 then base o.ab else base o.bb)),
        done := 0, acc := [], flags := 0, st := .queued }
    State.checkOperands c bank (fun s =>
      if !s.tilesReady c then s.await .tile
      else if 32 ≤ ((s.streamsOf s.me.core).filter (fun (x : StreamCmd) => x.st.live)).length then s.await .queue
      else
        let old := c.tile.bind (fun id => s.tile? s.me.core id)
        let c := { c with prior := (old.map (fun (t : Tile) => t.st)).getD .empty, chk := old.bind (fun (t : Tile) => t.chk) }
        let s := match c.tile with
          | some id => s.mapTile s.me.core id (fun t => { t with st := .filling, chk := none })
          | none => s
        let s := if opToReg op then s.produce (pairReg o.db) 2 none else s.bump
        let s := if resolveRnd s.me.fcr o.rnd = .rs then s.upd (fun t => { t with fcr := stepPhase t.fcr }) else s
        let s := s.upd (Thread.logsCommand c.id c.pc (Config.logPcSlip c.id % 16))
        ({ s with streams := s.streams ++ [c] : State }.tally).advanceBy 8) (nestOperands op) s)

/-! ### The meanings that `exec` calls -/

def execSsync (o : LOps) (m : FpMod) (s : State) : Out := .next (ssyncOp (Instr.ssync o m).checks s)
def execSsyncS32 (o : SOps) (s : State) : Out := .next (ssyncOp (Instr.ssync o.long (.s .f64)).checks.short s)
def execNestCopy (o : NestOps) (s : State) : Out := .next (nestOp 0x01 o s)
def execNestFill (o : NestOps) (s : State) : Out := .next (nestOp 0x02 o s)
def execNestCvt (o : NestOps) (s : State) : Out := .next (nestOp 0x03 o s)
def execNestAdd (o : NestOps) (s : State) : Out := .next (nestOp 0x04 o s)
def execNestSub (o : NestOps) (s : State) : Out := .next (nestOp 0x05 o s)
def execNestMul (o : NestOps) (s : State) : Out := .next (nestOp 0x06 o s)
def execNestFma (o : NestOps) (s : State) : Out := .next (nestOp 0x07 o s)
def execNestMin (o : NestOps) (s : State) : Out := .next (nestOp 0x08 o s)
def execNestMax (o : NestOps) (s : State) : Out := .next (nestOp 0x09 o s)
def execNestAbs (o : NestOps) (s : State) : Out := .next (nestOp 0x0A o s)
def execNestNeg (o : NestOps) (s : State) : Out := .next (nestOp 0x0B o s)
def execNestScale (o : NestOps) (s : State) : Out := .next (nestOp 0x0C o s)
def execNestRelu (o : NestOps) (s : State) : Out := .next (nestOp 0x0D o s)
def execNestExp2 (o : NestOps) (s : State) : Out := .next (nestOp 0x0E o s)
def execNestTanh (o : NestOps) (s : State) : Out := .next (nestOp 0x0F o s)
def execNestRcp (o : NestOps) (s : State) : Out := .next (nestOp 0x10 o s)
def execNestRsq (o : NestOps) (s : State) : Out := .next (nestOp 0x11 o s)
def execNestSum (o : NestOps) (s : State) : Out := .next (nestOp 0x12 o s)
def execNestSumsq (o : NestOps) (s : State) : Out := .next (nestOp 0x13 o s)
def execNestRmax (o : NestOps) (s : State) : Out := .next (nestOp 0x14 o s)
def execNestRmin (o : NestOps) (s : State) : Out := .next (nestOp 0x15 o s)
def execNestDot (o : NestOps) (s : State) : Out := .next (nestOp 0x16 o s)
def execNestArgmax (o : NestOps) (s : State) : Out := .next (nestOp 0x17 o s)
def execNestScan (o : NestOps) (s : State) : Out := .next (nestOp 0x18 o s)

end Sys2Proof.Machine
end

