-- ==== Sys2Proof/Machine/Matrix.lean ====
section
/-! DEFINITION. The matrix unit: aligned-block form (R252 to R254), accumulators (R256, R257), issue (R258, R259), the command queue with its
guards and shadows (R260, R261), and the matrix instructions (R263 to R276). -/
namespace Sys2Proof.Machine

/-! ### Block widths (R252) -/

/-- Aw of a format; a programmable one is judged by its storage width. -/
def aWidth (f : Fmt) (desc : BitVec 16) : Option Nat :=
  match f with
  | .i2 | .b1 => some 2
  | .e2m1 | .e1m2 | .i4 => some 4
  | .e4m3 | .e5m2 | .e3m4 | .e2m5 | .e3m2 | .e2m3 | .e6m1 | .i8 | .q7 | .n4 => some 8
  | .n8 | .bf16 => some 12
  | .f16 | .f19 | .i16 => some 16
  | .f32 => some 24
  | .pf _ => if pfValid desc then some (if pfStorage desc = 8 then 8 else 4) else none
  | .f64 | .e8m0 | .i32 => none
/-- Bw of a format. -/
def bWidth (f : Fmt) (desc : BitVec 16) : Option Nat :=
  match f with
  | .i2 | .b1 => some 4
  | .n8 | .bf16 => some 16
  | .f32 => none
  | f => aWidth f desc
def kMax (bw : Nat) : Nat := if bw = 4 then 768 else 384
def nMax (bw : Nat) : Nat := if bw = 16 then 128 else 256

/-! ### Aligned-block form (R253) -/

/-- RoundRN of `±m × 2^e / 2^E`. -/
def rnAt (E : Int) (x : Bool × Nat × Int) : Int × Bool :=
  let (n, exact) := if x.2.1 = 0 then (0, true) else roundGrid { mode := .rn } x.1 false x.2.1 x.2.2 E
  (signed x.1 n, exact)
/-- R253: the group that 48 values form in width `w`. -/
def blockOf (w : Nat) (badScale : Bool) (xs : List Num) : BlockGroup × Flags :=
  let fin := xs.map (fun x => match x with | .fin n m e => (n, m, e) | _ => (false, 0, 0))
  let tops := (fin.filter (fun x => x.2.1 ≠ 0)).map (fun x => floorLog x.2.1 x.2.2)
  let ok (E : Int) : Bool := fin.all (fun x => let v := (rnAt E x).1; decide (-(2 ^ (w - 1) : Int) ≤ v ∧ v < 2 ^ (w - 1)))
  let e : Int := match tops.max? with
    | none => -512
    | some l => if ok (l - w + 1) then l - w + 1 else if ok (l - w + 2) then l - w + 2 else l - w + 3
  let ms := fin.map (rnAt e)
  ({ nan := badScale || xs.any Num.isNan, e := e, m := ms.map (·.1), inf := xs.map (fun x => match x with | .inf n => some n | _ => none) },
   (if ms.all (·.2) then 0 else flagNX) ||| xs.foldl (fun f x => f ||| x.snan) 0)
/-- R253: the aligned value of an element. -/
def BlockGroup.aligned (b : BlockGroup) (i : Nat) : Num :=
  match (b.inf[i]?).join with
  | some neg => .inf neg
  | none => .ofInt false (b.m.getD i 0) b.e
def BlockGroup.hasInf (b : BlockGroup) : Bool := b.inf.any (·.isSome)

/-- The group of 48 elements that `bits` gives, with E8M0 scale code `sc`. -/
def groupFrom (w : Nat) (f : Fmt) (desc : BitVec 16) (sc : Option Nat) (bits : Nat → Option Nat) : BlockGroup × Flags :=
  let scale (x : Num) : Num := match sc with | some c => x.scale ((c : Int) - 127) | none => x
  blockOf w (sc == some 255) ((List.range 48).map (fun i => match bits i with
    | some b => scale (f.value (descBank desc) b)
    | none => .fin false 0 0))

/-! ### Slates (R251, R254, R264) -/

/-- What a load puts into a slate: the groups by K-group and column, the checksum column, the flags, and whether the slate is void. -/
structure SlateData where
  data : List (List BlockGroup)
  sum : List Word
  flags : Flags
  void : Bool
  deriving DecidableEq, Repr

/-- R264: the indices of one sparse group are valid. -/
def idxOk (l : List Nat) : Bool := l.all (fun x => decide (x < 48)) && (l.zip (l.drop 1)).all (fun x => decide (x.1 < x.2))

/-- R254: a checksum entry from the elements of a row. DEDUCED (assumption 49). -/
def checkEntry (row : List (BlockGroup × Nat)) : Word :=
  if row.any (fun x => x.1.nan || ((x.1.inf[x.2]?).join).isSome) then roundF32 (.nan false)
  else roundF32 (exactSum (row.map (fun x => x.1.aligned x.2)))

/-- R253, R254, R264: convert the tiles a descriptor names. -/
def State.convert (s : State) (core : Nat) (d : SlateDesc) : SlateData :=
  match s.tile? core d.tile with
  | none => { data := [], sum := [], flags := 0, void := true }
  | some t =>
    let sc (g c : Nat) : Option Nat := (d.scale.bind (s.tile? core)).map (fun x => s.getElem x g c)
    let w := (bWidth d.fmt d.desc).getD 4
    let idx (g c : Nat) : List Nat := match d.idx.bind (s.tile? core) with
      | some x => (List.range d.sp).map (fun j => s.getElem x (d.sp * g + j) c)
      | none => []
    let bits (g c i : Nat) : Option Nat :=
      if d.sp = 0 then some (s.getElem t (48 * g + i) c)
      else ((idx g c).findIdx? (· = i)).map (fun j => s.getElem t (d.sp * g + j) c)
    let gs := (List.range (d.k / 48)).map (fun g => (List.range d.n).map (fun c => groupFrom w d.fmt d.desc (sc g c) (bits g c)))
    let data := gs.map (·.map (·.1))
    { data := data
      sum := (List.range d.k).map (fun k => checkEntry ((data.getD (k / 48) []).map (fun b => (b, k % 48))))
      flags := gs.foldl (fun f l => l.foldl (fun f x => f ||| x.2) f) 0
      void := d.sp ≠ 0 && (List.range (d.k / 48)).any (fun g => (List.range d.n).any (fun c => !idxOk (idx g c))) }

/-! ### One step of an accumulator (R257) -/

/-- R257: V. -/
def groupProduct (a b : BlockGroup) : Num × Flags :=
  if a.nan ∨ b.nan then (.nan false, 0)
  else if a.hasInf ∨ b.hasInf then
    let ps := ((List.range 48).filter (fun i => ((a.inf[i]?).join).isSome || ((b.inf[i]?).join).isSome)).map (fun i => (a.aligned i).mul (b.aligned i))
    match ps with
    | [] => (.fin false 0 0, 0)
    | p :: ps => ps.foldl (fun x q => let (v, f) := x.1.add false q.1; (v, x.2 ||| q.2 ||| f)) p
  else (.ofInt false ((a.m.zip b.m).map (fun x => x.1 * x.2)).sum (a.e + b.e), 0)
/-- Exact sum of products of the aligned values of a group with `ys`, with flags. -/
def groupSum (a : BlockGroup) (abs : Bool) (ys : List Num) : Num × Flags :=
  if a.nan then (.nan false, 0)
  else (List.range 48).foldl (fun (x : Num × Flags) i =>
    let y := a.aligned i
    let (p, f) := (if abs then y.abs else y).mul (ys.getD i (.fin false 0 0))
    let (v, g) := x.1.add false p
    (v, x.2 ||| f ||| g)) (.fin false 0 0, 0)

def f32Val (w : Word) : Num := Fmt.f32.value noBank w.toNat
/-- The magnitude bits of an F32 value, 0 for a NaN, so that larger magnitudes are larger numbers. -/
def f32Mag (w : Word) : Nat := let m := w.toNat % 2 ^ 31; if 0x7F800000 < m then 0 else m

/-- R257: `Step(X, g)`, in which columns that are not loaded add +0 and raise no flag, for rows `as_`, the columns `cols` of the slate, its checksum entries `shat` and the sums `babs` of magnitudes. -/
def stepEntry (x : Entry) (as_ cols : List BlockGroup) (shat babs : List Num) (scaled : Bool) : Entry × Flags :=
  let rnd (v : Num × Flags) : Word × Flags := let (b, f) := Fmt.f32.round noBank { mode := .rn, scaled := scaled } v.1; (BitVec.ofNat 32 b, v.2 ||| f)
  let acc (w : Word) (v : Num × Flags) : Word × Flags := let (z, f) := (f32Val w).add false v.1; rnd (z, v.2 ||| f)
  let zero : BlockGroup := { nan := false, e := 0, m := [], inf := [] }
  let vals := x.val.zipIdx.map (fun (w, k) => match cols[k % 256]? with
    | some b => acc w (groupProduct (as_.getD (k / 256) zero) b)
    | none => ((acc w (.fin false 0 0, 0)).1, 0))
  let chks := x.chk.zipIdx.map (fun (w, r) => acc w (groupSum (as_.getD r zero) false shat))
  let val := vals.map (·.1)
  let chk := chks.map (·.1)
  let mags := x.mag.zipIdx.map (fun (w, r) =>
    let q := BitVec.ofNat 32 (Fmt.f32.round noBank { mode := .rp } (groupSum (as_.getD r zero) true babs).1).1
    let row := (val.drop (256 * r)).take 256
    BitVec.ofNat 32 (row.foldl (fun m v => Nat.max m (f32Mag v)) (Nat.max (f32Mag w) (Nat.max (f32Mag q) (f32Mag (chk.getD r 0))))))
  ({ x with val := val, chk := chk, mag := mags, g := Nat.min (x.g + 1) (2 ^ 24 - 1) },
   (vals ++ chks).foldl (fun f v => f ||| v.2) 0)

def Entry.zeroed (x : Entry) : Entry :=
  { x with val := List.replicate 4096 0, chk := List.replicate 16 0, mag := List.replicate 16 0, g := 0 }

/-- R257: the sums over the columns of the magnitudes of each row of a K-group. -/
def absSums (cols : List BlockGroup) : List Num :=
  (List.range 48).map (fun i => cols.foldl (fun v b => (v.add false (if b.nan then .nan false else (b.aligned i).abs)).1) (.fin false 0 0))

/-- R265: the K-groups of a slate, ascending, with the groups of A that `row g r` gives. -/
def mulSlate (x : Entry) (sl : Slate) (row : Nat → List BlockGroup) (scaled : Bool) : Entry × Flags :=
  sl.data.zipIdx.foldl (fun (y : Entry × Flags) (cols, g) =>
    let shat := ((sl.sum.drop (48 * g)).take 48).map f32Val
    let (x, f) := stepEntry y.1 (row g) cols shat (absSums cols) scaled
    (x, y.2 ||| f)) (x, 0)

/-! ### Issue (R258, R259) -/

/-- R15, R258: the core has a matrix unit. -/
def State.hasMatrix (s : State) (core : Nat) : Bool :=
  match (s.core? core).bind (·.cls) with
  | some .a | some .b => true
  | _ => false

def State.trapEach (s : State) (ps : Parts) (cause d0 : Nat) (faddr : Nat := 0) : State :=
  ps.foldl (fun s p => s.asThread p.1 (fun s => s.trap cause (BitVec.ofNat 64 faddr) (BitVec.ofNat 64 d0))) s
def State.passEach (s : State) (ps : Parts) (n : Nat) : State := ps.foldl (fun s p => s.asThread p.1 (State.passed n)) s
/-- The members stay at the instruction; `code` is what they wait for: 7 a tile, 8 a claim or a pool entry (R366). -/
def State.waitEach (s : State) (ps : Parts) (code : Nat) : State :=
  let mask := ((s.group? s.me).map (·.started)).getD 0
  ps.foldl (fun s p => s.asThread p.1 (fun s => s.awaitWith { kind := .matrix, mask := mask, data := p.2.2, obj := BitVec.ofNat 64 code })) s

/-- R259: the collective of a matrix instruction. `data` is what each member presents: first what must be equal. DEDUCED (assumption 48). -/
def State.matCollective (s : State) (data : List Dword) (act : Parts → State → State) : State :=
  match s.group? s.me with
  | none => s.trap 7 0 0
  | some g =>
    let mask := g.started
    let here := s.instance_ mask
    let named := s.members.filter (fun t => mask.getLsbD t.member && t.uid != s.me.uid)
    let clash := here.any (fun t => t.pc != s.me.pc || (t.arrival.map (·.mask)) != some mask)
    if mask.toNat + 1 ≠ 2 ^ g.width ∨ named.any (fun t => t.run == .exited || behind s.me.ord t.ord) then
      s.trapAll 7 (s.me.uid :: here.map (·.uid))
    else if clash then s.trapAll 8 (s.me.uid :: here.map (·.uid))
    else match s.participants .matrix mask false data with
      | none => s.awaitWith { kind := .matrix, mask := mask, data := data }
      | some ps =>
        if ps.any (fun p => p.2.2.headD 0 != data.headD 0) then s.trapEach ps 8 0
        else act ps s

/-- What the checks of R259 find. -/
inductive MatChk where
  | ok
  | trap (cause d0 : Nat) (faddr : Nat := 0)
  | wait (code : Nat)
  deriving DecidableEq, Repr
/-- DEDUCED (assumption 48). -/
def MatChk.and (a b : MatChk) : MatChk := match a with | .ok => b | a => a
/-- The first condition that holds gives the detail (R259). DEDUCED (assumption 48). -/
def operandChk (l : List (Nat × Bool)) : MatChk :=
  match l.find? (·.2) with
  | some (d, _) => .trap 17 d
  | none => .ok

/-- R259 steps 1 and 2: ownership, pins, and states of the named tiles. DEDUCED (assumption 48). -/
def State.tileChk (s : State) (tiles : List (Nat × Bool)) : MatChk :=
  let own := tiles.foldl (fun a x => a.and (if s.tileStruck s.me.core x.1 then .trap 5 2 else match s.ownTile x.1 with
    | .error r => .trap 15 (256 * x.1 + r)
    | .ok _ => if x.2 && s.pinned s.me.core x.1 then .trap 15 (256 * x.1 + 3) else .ok)) MatChk.ok
  own.and (if tiles.all (fun x => match s.tile? s.me.core x.1 with
    | some t => if x.2 then (t.st == .ready || t.st == .empty) && !s.tileRead s.me.core x.1 else t.st == .ready
    | none => false) then .ok else .wait 7)

/-- The commands of resident gangs in a core's matrix queue, in arrival order. -/
def State.waits (s : State) (gang : Nat) : Bool := ((s.gang? gang).map (fun g => g.wait.isSome)).getD false
def State.matrixOf (s : State) (core : Nat) : List MatCmd := s.matrix.filter (fun c => c.core == core && !s.away c.g.gang && !s.waits c.g.gang)
def State.matrixFull (s : State) : Bool := decide (32 ≤ (s.matrixOf s.me.core).length)

/-- R256: pool entries of a core that a binding or a shadow holds. -/
def State.poolHeld (s : State) (core : Nat) : Nat :=
  ((s.binds.filter (fun b => b.core = core ∧ !s.away b.g.gang)).map (·.acc)).dedup.length + (s.shadows.filter (fun x => x.core = core ∧ !s.away x.g.gang)).length
/-- R256: the bindings of the issuing thread's group to the entry move on: a handle that an `ACC.ZERO.FREE` in the queue will free keeps its entry, under a binding of its own that outlives
the release. DESIGN CHOICE (assumption 39). -/
def State.keepBinding (s : State) (b : Binding) : State :=
  if b.leaving then { s.bump with binds := s.binds ++ [{ b with id := s.fresh, leaving := false }] } else s
/-- R256: bind a handle of the issuing thread's group; a new entry holds values the manual does not give. DESIGN CHOICE (assumption 39). -/
def State.bindHandle (s : State) (h : Nat) : State :=
  match s.bound? s.me.gkey h with
  | some b => s.keepBinding b
  | none =>
    let s := s.clearEntry s.me.core
    let k := s.fresh
    let e : Entry := { core := s.me.core, id := k, of := s.me.gkey, handle := h, val := (List.range 4096).map (fun i => Config.freeWord (k + i)),
                       chk := (List.range 16).map (fun i => Config.freeWord (k + 4096 + i)),
                       mag := (List.range 16).map (fun i => Config.freeWord (k + 4112 + i)), g := Config.freeWord (k + 4128) % 2 ^ 24 }
    let b : Binding := { id := k, core := s.me.core, g := s.me.gkey, h := h, acc := k, leaving := false }
    { s.setAcc e with binds := s.binds ++ [b], fresh := s.fresh + 4129 }
def State.mayBind (s : State) (h : Nat) : MatChk :=
  if (s.bound? s.me.gkey h).isSome ∨ s.poolHeld s.me.core < 32 then .ok else .wait 8

/-- A command of the issuing thread's group, led by its lowest started member. -/
def State.newMat (s : State) (ps : Parts) (m : EngMod) (op : MatOp) : MatCmd :=
  { id := s.fresh, core := s.me.core, g := s.me.gkey, uid := (ps.map (·.1)).headD 0, pc := s.me.pc, gs := m.gs, op := op, h := 8, slate := 2,
    out := none, t1 := 64, t2 := 64, scale := none, fmt := .f32, off := 0, desc := none, prior := .empty, turn := 0, trig := none, done := 0 }
/-- R259: a matrix instruction that names `tiles` (with whether it writes them), its checks, and what it does when they pass. -/
def matrixOp (i : Checks) (unit : Bool) (tiles : List (Nat × Bool)) (data : State → List Dword) (chk : State → MatChk)
    (act : Parts → State → State) : State → State := fun s =>
  if unit && !s.hasMatrix s.me.core then s.trap 1 0 0
  else issue i (fun s => s.cancelPoint (fun s =>
    match tiles.findSome? (fun x => s.tileFault x.1) with
    | some f => f s
    | none => s.matCollective (data s) (fun ps s =>
      match ((s.tileChk tiles).and (chk s)).and (if s.matrixFull then .wait 4 else .ok) with
      | .trap c d a => s.trapEach ps c d a
      | .wait w => s.waitEach ps w
      | .ok => (act ps s).passEach ps i.syl))) s
/-- A command enters the queue; a tile it writes moves to `FILLING` (R262), and the members whose region logs wait for what it raises (R128). -/
def State.enqueueMat (s : State) (c : MatCmd) (clear : Bool) : State :=
  let prior := ((c.out.bind (fun id => s.tile? c.core id)).map (fun (t : Tile) => t.st)).getD .empty
  let s := match c.out with
    | some id => s.mapTile c.core id (fun t => { t with st := .filling, chk := if clear then none else t.chk })
    | none => s
  let s := s.mapThreads (fun t => if t.gkey = c.g then t.logsCommand s.fresh c.pc (Config.logPcSlip s.fresh % 16) else t)
  { s.bump with matrix := s.matrix ++ [{ c with id := s.fresh, prior := prior }] }

/-! ### The instructions (R263 to R276) -/

/-- R263: the scale tile a field names. -/
def scaleTile (c : Reg) : Option Nat := if c.getLsbD 6 then some (c.toNat % 64) else none
/-- R258: the format a matrix instruction reads or writes a tile in, with the descriptor of a programmable one. -/
def State.matFmt (s : State) (m : EngMod) (t : Tile) : Fmt × BitVec 16 :=
  match m.ty with
  | .f64 => (t.fmt, t.desc)
  | .pf k => (.pf k, (s.bank s.me)[k.toNat])
  | f => (f, 0)
def State.tileD (s : State) (id : Nat) : Tile :=
  (s.tile? s.me.core id).getD { core := s.me.core, id := id, gang := 0, base := 0, rows := 0, cols := 0, fmt := .f64, desc := 0, st := .empty, chk := none }
/-- Detail 1 of a format: the storage width is not the tile's (R258). -/
def widthOff (f : Fmt × BitVec 16) (t : Tile) : Bool := f.1.bits (descBank f.2) != t.width
/-- R259 detail 4. -/
def State.scaleBad (s : State) (sc : Option Nat) (rows cols : Nat) : Bool :=
  match sc with
  | none => false
  | some id => let t := s.tileD id; t.fmt != .e8m0 || t.rows != rows || t.cols != cols

/-- R259 detail 3 at issue. A void slate is void until a load of it has executed, also while one is queued. DESIGN CHOICE (assumption 95). -/
def State.slateD (s : State) (n : Nat) : Option SlateDesc :=
  match s.slate? s.me.core n with
  | some x => if x.claim = some s.me.gang ∧ !x.void then x.want else none
  | none => none

/-- R265, R266: the operand conditions of `MMA` and `MMA.J`. -/
def State.mmaChk (s : State) (o : LOps) (m : EngMod) (reads : Bool) (placed : Bool) : MatChk :=
  let t := s.tileD o.a.toNat
  let f := s.matFmt m t
  let d := s.slateD o.b.toNat
  let aw := aWidth f.1 f.2
  let bw := d.bind (fun d => bWidth d.fmt d.desc)
  let k := (d.map (·.k)).getD 0
  operandChk [(7, !placed), (3, d.isNone), (6, reads && (s.bound? s.me.gkey o.d.toNat).isNone),
    (2, aw.isNone || decide (32 < aw.getD 0 + bw.getD 0)), (1, widthOff f t || t.rows != 16 || t.cols != k),
    (4, s.scaleBad (scaleTile o.c) 16 (k / 48))]

def mmaTiles (o : LOps) : List (Nat × Bool) := (o.a.toNat, false) :: ((scaleTile o.c).map (fun t => (t, false))).toList
def mmaOp (i : Checks) (o : LOps) (m : EngMod) : State → State :=
  matrixOp i true (mmaTiles o) (fun _ => [0])
    (fun s => (s.mmaChk o m (m.sub == 1) true).and (if m.sub = 1 then .ok else s.mayBind o.d.toNat))
    (fun ps s =>
      let f := s.matFmt m (s.tileD o.a.toNat)
      let s := if m.sub = 1 then s else s.bindHandle o.d.toNat
      let c : MatCmd := { s.newMat ps m (.mma (m.sub == 1)) with
        h := o.d.toNat, slate := o.b.toNat, t1 := o.a.toNat, scale := scaleTile o.c, fmt := f.1, off := f.2.toNat, desc := s.slateD o.b.toNat }
      s.enqueueMat c false)

/-- R266: the keys and cores of the four groups of a joint command, in the order of quad positions, if they stand so. -/
def State.quadOf (s : State) (g : GKey) : Option (List Group) :=
  let j := g.gid / 4
  let gs := (List.range 4).filterMap (fun q => s.groupAt? { g with gid := 4 * j + q })
  match gs with
  | [a, b, c, d] =>
    if a.core % 4 = 0 ∧ b.core = a.core + 1 ∧ c.core = a.core + 2 ∧ d.core = a.core + 3 then some gs else none
  | _ => none
/-- R360: each member's trigger is consumed; that of the lowest started member holds the command. -/
def State.takeTrig (s : State) (ps : Parts) : Option Trigger × State :=
  ((ps.head?.bind (fun p => s.thread? p.1)).bind (·.trig.map (Trigger.taken s)), ps.foldl (fun s p => s.mapThread p.1 (fun t => { t with trig := none })) s)
def mmaJOp (i : Checks) (o : LOps) (m : EngMod) : State → State :=
  matrixOp i true (mmaTiles o) (fun _ => [0]) (fun s => s.mmaChk o m true (s.quadOf s.me.gkey).isSome)
    (fun ps s =>
      let f := s.matFmt m (s.tileD o.a.toNat)
      let n := ((s.group? s.me).map (·.joint)).getD 0
      let (tr, s) := s.takeTrig ps
      let s := s.mapGroup s.me (fun g => { g with joint := g.joint + 1, qturn := (g.joint + 1) % 4 })
      let c : MatCmd := { s.newMat ps m (.joint (m.sub == 1)) with
        gs := none, h := o.d.toNat, slate := o.b.toNat, t1 := o.a.toNat, scale := scaleTile o.c, fmt := f.1, off := f.2.toNat,
        desc := s.slateD o.b.toNat, turn := n, trig := tr }
      s.enqueueMat c false)

/-- R267. -/
def mmaF64Op (i : Checks) (o : LOps) (m : EngMod) : State → State :=
  matrixOp i false [(o.d.toNat, true), (o.a.toNat, false), (o.b.toNat, false)] (fun _ => [0])
    (fun s =>
      let d := s.tileD o.d.toNat
      let a := s.tileD o.a.toNat
      let b := s.tileD o.b.toNat
      operandChk [(1, d.fmt != .f64 || a.fmt != .f64 || b.fmt != .f64 || d.rows != a.rows || d.cols != b.cols || a.cols != b.rows
        || decide (64 < d.rows ∨ 64 < d.cols ∨ 1024 < a.cols))])
    (fun ps s => s.enqueueMat { s.newMat ps m (.f64 (m.sub == 1)) with out := some o.d.toNat, t1 := o.a.toNat, t2 := o.b.toNat } true)

/-- R251: the slate is free for the gang. -/
def State.mayClaim (s : State) (n : Nat) : MatChk :=
  match s.slate? s.me.core n with
  | some x => if x.claim = none ∨ x.claim = some s.me.gang then .ok else .wait 8
  | none => .wait 8
/-- A load claims the slate, pins its tiles, and joins the queue (R251, R264). DEDUCED (assumption 41). -/
def State.enqueueLoad (s : State) (ps : Parts) (m : EngMod) (op : MatOp) (n : Nat) (d : SlateDesc) : State :=
  let s := s.mapSlate s.me.core n (fun x =>
    let x := if x.claim = some s.me.gang then x else { x with got := none, void := false, data := [], sum := [] }
    { x with claim := some s.me.gang, pins := d.tiles, want := some d })
  s.enqueueMat { s.newMat ps m op with slate := n, t1 := d.tile, t2 := d.idx.getD 64, scale := d.scale, desc := some d } false
def slateLdOp (i : Checks) (o : LOps) (m : EngMod) : State → State :=
  matrixOp i true ((o.a.toNat, false) :: ((scaleTile o.c).map (fun t => (t, false))).toList) (fun _ => [0])
    (fun s =>
      let t := s.tileD o.a.toNat
      let f := s.matFmt m t
      let bw := bWidth f.1 f.2
      (operandChk [(2, bw.isNone), (1, widthOff f t || t.rows % 48 != 0 || decide (kMax (bw.getD 4) < t.rows ∨ nMax (bw.getD 4) < t.cols)),
        (4, s.scaleBad (scaleTile o.c) (t.rows / 48) t.cols)]).and (s.mayClaim o.d.toNat))
    (fun ps s =>
      let t := s.tileD o.a.toNat
      let f := s.matFmt m t
      s.enqueueLoad ps m .load o.d.toNat { tile := t.id, idx := none, scale := scaleTile o.c, fmt := f.1, desc := f.2, k := t.rows, n := t.cols, sp := 0 })
/-- R263: the stored count of `SLATE.SP`. -/
def spCount (m : EngMod) : Nat := if m.sub = 0 then 12 else if m.sub = 1 then 16 else 24
def slateSpOp (i : Checks) (o : LOps) (m : EngMod) : State → State :=
  matrixOp i true ((o.a.toNat, false) :: (o.b.toNat, false) :: ((scaleTile o.c).map (fun t => (t, false))).toList) (fun _ => [0])
    (fun s =>
      let t := s.tileD o.a.toNat
      let x := s.tileD o.b.toNat
      let f := s.matFmt m t
      let bw := bWidth f.1 f.2
      (operandChk [(2, bw.isNone),
        (1, widthOff f t || t.rows % spCount m != 0 || decide (kMax (bw.getD 4) < t.rows ∨ nMax (bw.getD 4) < t.cols)
          || x.fmt != .n8 || x.rows != t.rows || x.cols != t.cols),
        (4, s.scaleBad (scaleTile o.c) (t.rows / spCount m) t.cols)]).and (s.mayClaim o.d.toNat))
    (fun ps s =>
      let t := s.tileD o.a.toNat
      let f := s.matFmt m t
      s.enqueueLoad ps m .sparse o.d.toNat { tile := t.id, idx := some o.b.toNat, scale := scaleTile o.c, fmt := f.1, desc := f.2,
                                             k := t.rows / spCount m * 48, n := t.cols, sp := spCount m })
/-- R268, R269: the output formats, judged by a tile's recorded format. -/
def outOk (f : Fmt × BitVec 16) : Bool := f.1.epiOk (some (descBank f.2))
/-- R122, R269: `sr.fcr` of the lowest started member. -/
def State.leadFcr (s : State) (ps : Parts) : Word := ((ps.head?.bind (fun p => s.thread? p.1)).map (·.fcr)).getD 0
/-- R268: the descriptor's offset is aligned and within the scratchpad. This is judged before the matrix-operand conditions. DESIGN CHOICE (assumption 90). -/
def State.epiBounds (s : State) (o : LOps) : MatChk :=
  let off := (s.me.rd o.b).toNat
  let size := ((s.pad? s.me.gang s.me.core).map (·.size)).getD 0
  if off % 16 ≠ 0 ∨ size < off + 16 then .trap 13 0 off else .ok
def epiOp (i : Checks) (o : LOps) (m : EngMod) : State → State :=
  matrixOp i true [(o.d.toNat, true)] (fun s => [(s.me.rd o.b).setWidth 64])
    (fun s =>
      let t := s.tileD o.d.toNat
      let f := s.matFmt m t
      (s.epiBounds o).and <| operandChk [(6, (s.bound? s.me.gkey o.a.toNat).isNone), (2, !outOk f), (1, widthOff f t || t.rows != 16 || decide (256 < t.cols))])
    (fun ps s =>
      let f := s.matFmt m (s.tileD o.d.toNat)
      s.enqueueMat { s.newMat ps m .epi with h := o.a.toNat, out := some o.d.toNat, fmt := f.1, turn := f.2.toNat, off := (s.me.rd o.b).toNat, fcr := s.leadFcr ps } false)
def accWrOp (i : Checks) (o : LOps) (m : EngMod) : State → State :=
  matrixOp i true [(o.a.toNat, false)] (fun _ => [0])
    (fun s =>
      let t := s.tileD o.a.toNat
      (operandChk [(1, t.fmt != .f32 || t.rows != 16 || decide (256 < t.cols))]).and (s.mayBind o.d.toNat))
    (fun ps s =>
      let s := s.bindHandle o.d.toNat
      s.enqueueMat { s.newMat ps m .accWr with h := o.d.toNat, t1 := o.a.toNat } false)
def accZeroOp (i : Checks) (o : LOps) (m : EngMod) : State → State :=
  matrixOp i true [] (fun _ => [0]) (fun s => s.mayBind o.d.toNat)
    (fun ps s =>
      let s := s.bindHandle o.d.toNat
      s.enqueueMat { s.newMat ps m .accZero with h := o.d.toNat } false)
def accZeroFreeOp (i : Checks) (o : LOps) (m : EngMod) : State → State :=
  matrixOp i true [] (fun _ => [0]) (fun _ => .ok)
    (fun ps s =>
      match s.bound? s.me.gkey o.d.toNat with
      | none => s
      | some b =>
        let s : State := { s with binds := s.binds.map (fun (x : Binding) => if x.id = b.id then { x with leaving := true } else x) }
        s.enqueueMat { s.newMat ps m .accFree with gs := none, h := o.d.toNat, turn := b.id } false)

/-! ### `ACC.RD` and `MSTAT` (R274, R275) -/

/-- A producer in every member whose value comes once the commands issued before it have executed. -/
def State.lateEach (s : State) (ps : Parts) (d : Reg) (n : Nat) (kind : List Dword → LateKind) : State :=
  let g := s.me.gkey
  let after := s.fresh
  let core := s.me.core
  ps.foldl (fun s p => s.asThread p.1 (fun s =>
    let tag := s.fresh
    let s := s.produce d n none
    { s with lates := s.lates ++ [{ uid := p.1, pc := s.me.pc, tag := tag, core := core, g := g, after := after, kind := kind p.2.2 }] })) s
/-- R275: the word of `MSTAT`. -/
def State.matWord (s : State) (core : Nat) (g : GKey) : Nat :=
  let grp := s.groupAt? g
  let q := Nat.min 32 ((s.matrix.filter (·.g = g)).length)
  let turn := ((grp.map (·.qturn)).getD 0) * 2 ^ 24
  if !s.hasMatrix core then turn + q
  else
    let claimed (n : Nat) : Nat := if ((s.slate? core n).map (fun x => x.claim == some g.gang)).getD false then 2 ^ (22 + n) else 0
    let bits (f : Nat → Bool) (lo : Nat) : Nat := ((List.range 8).filter f).foldl (fun a h => a + 2 ^ (lo + h)) 0
    (32 - s.poolHeld core) * 2 ^ 26 + turn + claimed 0 + claimed 1
      + bits (fun h => s.shadows.any (fun x => x.g = g ∧ x.h = h)) 14 + bits (fun h => (s.bound? g h).isSome) 6 + q
/-- The value of a producer arrives. -/
def Thread.receive (t : Thread) (tag : Nat) (ws : List Word) : Thread :=
  match t.prods.find? (·.tag = tag) with
  | some p => t.arrive p ws
  | none => t
/-- R69, R275: the word is the same for every member, and arrives in each as that of a long-latency producer; at once for `MSTAT`, which has waited for it before it issued, so that
a later `EXIT` finds it there (R84, R299). DEDUCED (assumption 40). -/
def State.giveWord (s : State) (ps : Parts) (d : Reg) (now : Bool) : State :=
  let v := natWords 2 (s.matWord s.me.core s.me.gkey)
  ps.foldl (fun s p => s.asThread p.1 (fun s =>
    let t := s.produce d 2 (some v)
    if now then t.upd (fun m => m.receive s.fresh v) else t)) s
/-- R275, R367: the wait for the group's commands comes before the instruction issues. DEDUCED (assumption 40). -/
def mstatOp (i : Checks) (o : LOps) : State → State :=
  issue i (fun s => s.cancelPoint (fun s =>
    if s.matrix.any (fun c => c.g == s.me.gkey) || s.shadows.any (fun x => x.g == s.me.gkey) then s.await .queue
    else s.matCollective [0] (fun ps s => (s.giveWord ps o.d true).passEach ps i.syl)))
def mstatNowOp (i : Checks) (o : LOps) : State → State :=
  issue i (fun s => s.cancelPoint (fun s => s.matCollective [0] (fun ps s => (s.giveWord ps o.d false).passEach ps i.syl)))

/-- R274, R356: the value of a read that waited, once it has it. DEDUCED (assumption 40). -/
def State.lateValue (s : State) (l : Late) : Option (List Word) :=
  match l.kind with
  | .accRd h sub idx =>
    if s.matrix.any (fun c => c.g == l.g && c.h == h && decide (c.id < l.after)) || s.shadows.any (fun x => x.g == l.g && x.h == h) then none
    else
      match (s.boundAt? l.g h l.after).bind (fun b => s.acc? b.core b.acc) with
      | none => some [Config.freeWord s.fresh]
      | some x => some [match sub with
        | 0 => x.val.getD (idx / 256 % 16 * 256 + idx % 256) 0
        | 1 => x.chk.getD (idx % 16) 0
        | _ => BitVec.ofNat 32 x.g]
  | .collWait pa => if readNat s.mem pa 4 = 1 then none else some [BitVec.ofNat 32 (readNat s.mem pa 4)]
/-- R398: a read of an accumulator that holds an error: its thread takes the machine check at its next boundary. DESIGN CHOICE (assumption 26). -/
def State.lateStruck (s : State) (l : Late) : State :=
  match l.kind with
  | .accRd h _ _ =>
    if ((s.boundAt? l.g h l.after).bind (fun b => s.acc? b.core b.acc)).any (fun e => s.struck.contains (.acc e.core e.id)) then
      s.holdTrap l.uid { cause := 5, pc := l.pc, d0 := 2 }
    else s
  | _ => s
/-- Every read that can have its value gets it, all in the same state. DEDUCED (assumption 40). -/
def State.settle (s : State) : State :=
  let vs := s.lates.filterMap (fun l => (s.lateValue l).map (fun v => (l, v)))
  if vs.isEmpty then s else
  let s' := vs.foldl (fun s v => (s.mapThread v.1.uid (·.receive v.1.tag v.2)).lateStruck v.1) s
  { s' with lates := s.lates.filter (fun l => (s.lateValue l).isNone), fresh := s'.fresh + 1 }

/-- R274. DEDUCED (assumption 40). -/
def accRdOp (i : Checks) (o : LOps) (m : EngMod) : State → State := fun s =>
  if !s.hasMatrix s.me.core then s.trap 1 0 0
  else issue i (fun s => s.cancelPoint (fun s => s.matCollective [0, (s.me.rd o.b).setWidth 64] (fun ps s =>
    if (s.bound? s.me.gkey o.a.toNat).isNone then s.trapEach ps 17 6
    else (s.lateEach ps o.d 1 (fun x => .accRd o.a.toNat m.sub.toNat ((x.getD 1 0).toNat))).settle.passEach ps i.syl))) s

/-! ### Execution (R260, R261, R264 to R273) -/

/-- What the execution of a command leaves: a fault with its code and element, or the flags and the state. -/
inductive MatEnd where
  | fault (cause code elem : Nat)
  | done (fl : Flags) (s : State)

/-- The groups of A of a row set (R265): row r of K-group g. -/
def State.rowGroups (s : State) (c : MatCmd) (t : Tile) : List (List (BlockGroup × Flags)) :=
  let desc := BitVec.ofNat 16 c.off
  let w := (aWidth c.fmt desc).getD 4
  let sc := c.scale.bind (s.tile? c.core)
  (List.range (t.cols / 48)).map (fun g => (List.range 16).map (fun r =>
    groupFrom w c.fmt desc (sc.map (fun x => s.getElem x r g)) (fun i => some (s.getElem t r (48 * g + i)))))
/-- DEDUCED (assumption 49). -/
def rowFlags (l : List (List (BlockGroup × Flags))) : Flags := l.foldl (fun f x => x.foldl (fun f y => f ||| y.2) f) 0

/-- R264: what is wrong with the slate a command reads, at execution. -/
def State.slateFault (s : State) (c : MatCmd) : Option Nat :=
  match s.slate? c.core c.slate with
  | none => some 3
  | some x =>
    if x.void then some 5
    else match x.got with
      | none => some 3
      | some d =>
        let shape (d : SlateDesc) := (d.k, d.n, bWidth d.fmt d.desc)
        if c.desc.map shape = some (shape d) then none else some 1

/-- R265: the product of a command into entry `x`. -/
def State.mulInto (s : State) (c : MatCmd) (x : Entry) : Entry × Flags :=
  match s.slate? c.core c.slate, s.tile? c.core c.t1 with
  | some sl, some t =>
    let rows := s.rowGroups c t
    let scaled := c.scale.isSome || ((sl.got.map (·.scale.isSome)).getD false)
    let (x, f) := mulSlate x sl (fun g => (rows.getD g []).map (·.1)) scaled
    (x, f ||| rowFlags rows)
  | _, _ => (x, 0)

/-- R267. -/
def State.mulF64 (s : State) (c : MatCmd) (acc : Bool) : State × Flags :=
  match c.out.bind (s.tile? c.core), s.tile? c.core c.t1, s.tile? c.core c.t2 with
  | some d, some a, some b =>
    let v (t : Tile) (r k : Nat) : Num := Fmt.f64.value noBank (s.getElem t r k)
    let rnd (x : Num × Flags) : Nat × Flags := roundWith noBank .f64 { mode := .rn } x
    let el (i j : Nat) : Nat × Flags :=
      let start : Nat × Flags := if acc then (s.getElem d i j, 0) else rnd ((v a i 0).mul (v b 0 j))
      (List.range a.cols).foldl (fun (x : Nat × Flags) l =>
        if !acc && l == 0 then x
        else let (z, f) := rnd (Num.fma false (v a i l) (v b l j) (Fmt.f64.value noBank x.1)); (z, x.2 ||| f)) start
    let all := (List.range d.rows).map (fun i => (List.range d.cols).map (el i))
    (s.fillTile d (fun i j => ((all.getD i []).getD j (0, 0)).1), all.foldl (fun f l => l.foldl (fun f x => f ||| x.2) f) 0)
  | _, _, _ => (s, 0)

/-- R273: an accumulator from an F32 tile. -/
def State.accFrom (s : State) (t : Tile) (x : Entry) : Entry × Flags :=
  let row (r : Nat) : List Word := (List.range 256).map (fun c => if c < t.cols then BitVec.ofNat 32 (s.getElem t r c) else 0)
  let rows := (List.range 16).map row
  let chks := rows.map (fun l => let v := l.map f32Val; roundWith noBank .f32 { mode := .rn } (exactSum v, v.foldl (fun f x => f ||| x.snan) 0))
  let chk := chks.map (fun y => BitVec.ofNat 32 y.1)
  ({ x with val := rows.flatten, chk := chk, g := 0,
            mag := (rows.zip chk).map (fun y => BitVec.ofNat 32 (y.1.foldl (fun m v => Nat.max m (f32Mag v)) (f32Mag y.2))) },
   chks.foldl (fun f y => f ||| y.2) 0)

/-! ### The epilogue (R268 to R272) -/

/-- The tiles an epilogue descriptor names: bias and column scale. DEDUCED (assumption 49). -/
def epiTile (code : Nat) : Option Nat := if code / 128 % 2 = 1 then some (code % 64) else none
/-- R268: the checks of a descriptor, in order; `wait` when a named tile is not `READY`. -/
def State.epiChk (s : State) (c : MatCmd) (d : Nat) : MatChk :=
  let bad := MatChk.trap 17 1
  let cscl := bitsOf d 127 120
  let bias := bitsOf d 119 112
  let lo := f32Val (BitVec.ofNat 32 (bitsOf d 63 32))
  let hi := f32Val (BitVec.ofNat 32 (bitsOf d 95 64))
  let cols := ((c.out.bind (s.tile? c.core)).map (·.cols)).getD 0
  let tiles := (epiTile cscl).toList ++ (epiTile bias).toList
  let own (id : Nat) : MatChk := match s.tile? c.core id with
    | none => .trap 15 (256 * id + 2)
    | some t => if t.gang = c.g.gang then .ok else .trap 15 (256 * id + 1)
  let form (id : Nat) : MatChk := match s.tile? c.core id with
    | some t => if t.fmt != .f32 || t.rows != 1 || decide (t.cols < cols) then bad else .ok
    | none => bad
  let st (id : Nat) : MatChk := if (s.tile? c.core id).all (fun t => t.st != .ready) then .wait 7 else .ok
  let first (f : Nat → MatChk) : MatChk := tiles.foldl (fun a id => a.and (f id)) .ok
  ((((if bitsOf d 98 96 ≠ 0 ∨ bitsOf d 111 109 ≠ 0 ∨ 5 < bitsOf d 107 105 ∨ bitsOf d 103 102 = 3 ∨ bitOf cscl 6 ∨ bitOf bias 6 then bad else .ok).and
    (if bitOf d 108 && (match lo.cmp hi with | some .gt | none => true | _ => false) then bad else .ok)).and (first own)).and (first form)).and (first st)

/-- R271: an activation on F32 bits. Functions 2 and 3 are approximations whose bits the manual does not give, within the larger of 4 ulp and 2^-22; at −∞,
where their formulas have no value, the result and its flags are free. DESIGN CHOICE (assumption 1). DESIGN CHOICE (assumption 17). -/
def activate (act y : Nat) : Nat × Flags :=
  let v := Fmt.f32.value noBank y
  let rnd (x : Num) : Nat × Flags := Fmt.f32.round noBank { mode := .rn } x
  let (k, e) := Config.actApprox act y
  let cand : Num := .ofInt false k e
  let approx : Nat × Flags := match v with
    | .nan _ => ((rnd (.nan false)).1, 0)
    | .inf false => (y, 0)
    | .inf true => ((rnd cand).1, Config.actFlags act)
    | _ =>
      let c := if act = 2 then v.gelu else v.silu
      let (r, f) := rnd (c.near ((((Fmt.f32.spec noBank).ulpAt c).scale 2).max (.fin false 1 (-22))) cand)
      (r, f ||| (if v.isZero ∧ r % 2 ^ 31 = 0 then 0 else flagNX))
  match act with
  | 0 => (y, 0)
  | 1 => (match v with
    | .nan _ => (y, 0)
    | v => (if v.cmp (.fin false 0 0) = some .gt then y else 0, 0))
  | 4 => sfuValue .tanh (FpMod.s .f32) { mode := .rn } y
  | 5 => sfuValue .exp2 (FpMod.s .f32) { mode := .rn } y
  | _ => approx

/-- R270: the bound of a row's check, as a number. DEDUCED (assumption 49). -/
def checkBound (x : Entry) (r : Nat) : Num :=
  let ex := f32Mag (x.mag.getD r 0) / 2 ^ 23
  .fin false (2 * (257 * x.g + 1)) ((Nat.max ex 1 : Int) - 150)
/-- R269 step 1: the row's sum disagrees with its check entry. -/
def rowBad (x : Entry) (r : Nat) : Bool :=
  let row := ((x.val.drop (256 * r)).take 256).map f32Val
  let k := f32Val (x.chk.getD r 0)
  let fin (v : Num) : Bool := match v with | .fin _ _ _ => true | _ => false
  (k :: row).all fin && ((((exactSum row).add false k.neg).1.abs).cmp (checkBound x r) == some .gt)

/-- R269 step 2: an output element, as bits of the output format. -/
def epiElem (d : Nat) (bank : FBank) (f : Fmt) (rnd : RoundBy) (x cs b : Num) : Nat × Flags :=
  let (v, f1) := x.mul (f32Val (BitVec.ofNat 32 (bitsOf d 31 0)))
  let (v, f2) := v.mul cs
  let (v, f3) := v.add false b
  let (y, f4) := Fmt.f32.round noBank { mode := .rn } v
  let (z, f5) := activate (bitsOf d 107 105) y
  let (z, f6) := if bitOf d 108 then
      let (a, g) := minMaxBits noBank .f32 true z (bitsOf d 63 32)
      let (a, h) := minMaxBits noBank .f32 false a (bitsOf d 95 64)
      (a, g ||| h)
    else (z, 0)
  let (o, f7) := f.round bank rnd (Fmt.f32.value noBank z)
  (o, f1 ||| f2 ||| f3 ||| f4 ||| f5 ||| f6 ||| f7)

def satOfCode (n : Nat) : Sat := if n = 1 then .sat else if n = 2 then .sati else .none
def rndOfCode (n : Nat) : Rnd :=
  match n with
  | 0 => .rn | 1 => .rz | 2 => .rp | 3 => .rm | 4 => .ra | 5 => .rs | 6 => .ro | _ => .dyn

/-- R269: the epilogue of entry `x` under descriptor `d`. DEDUCED (assumption 49). -/
def State.epilogue (s : State) (c : MatCmd) (x : Entry) (d : Nat) : MatEnd :=
  match c.out.bind (s.tile? c.core) with
  | none => .done 0 s
  | some t =>
    match (List.range 16).find? (rowBad x) with
    | some r => .fault 19 1 r
    | none =>
      let lead := s.thread? c.uid
      let fcr := (lead.map (·.fcr)).getD 0
      let mode := resolveRnd c.fcr (rndOfCode (bitsOf d 101 99))
      let bank := descBank (BitVec.ofNat 16 c.turn)
      let aux (code : Nat) (dflt : Num) (k : Nat) : Num := match (epiTile code).bind (s.tile? c.core) with
        | some a => Fmt.f32.value noBank (s.getElem a 0 k)
        | none => dflt
      let el (r k : Nat) : Nat × Flags :=
        epiElem d bank c.fmt { mode := mode, sat := satOfCode (bitsOf d 103 102), ftz := bitOf d 104, dither := ditherAt r k (fcrPhase fcr) }
          (f32Val (x.val.getD (256 * r + k) 0)) (aux (bitsOf d 127 120) one k) (aux (bitsOf d 119 112) (.fin false 0 0) k)
      let all := (List.range 16).map (fun r => (List.range t.cols).map (el r))
      let chks := all.map (fun l => roundWith noBank .f32 { mode := .rn } (exactSum (l.map (fun y => c.fmt.value bank y.1)), 0))
      let s := s.fillTile t (fun r k => ((all.getD r []).getD k (0, 0)).1)
      let s := s.mapTile c.core t.id (fun t => { t with chk := some (chks.map (fun y => BitVec.ofNat 32 y.1)) })
      let ph := (fcrPhase fcr + fcrPstep fcr) % 64
      let s := if mode = .rs then (s.membersOf c.g).foldl (fun s m => s.mapThread m.uid (fun t =>
          { t with fcr := (t.fcr &&& ~~~ (0x3F#32 <<< 16)) ||| (BitVec.ofNat 32 ph <<< 16) })) s else s
      .done (all.foldl (fun f l => l.foldl (fun f y => f ||| y.2) f) (chks.foldl (fun f y => f ||| y.2) 0)) s

/-! ### The queue -/

def State.dropMat (s : State) (c : MatCmd) : State := { s with matrix := s.matrix.filter (·.id ≠ c.id) }
/-- The tile that the command wrote reaches a state (R281); a thread that observes it `READY` acquires the command's writes at `.CORE` (R262). -/
def State.tileOut (s : State) (c : MatCmd) (st : TState) : State :=
  match c.out with
  | some id => (s.mapTile c.core id (fun t => { t with st := st, copied := if st = .ready then some (0, .core) else none })).wakeTile c.core id
  | none => s
/-- R260: a command that ends in a fault: every member gets the trap; a tile it wrote is `EMPTY`. -/
def State.matFault (s : State) (c : MatCmd) (cause code elem : Nat) : State :=
  let s := (s.dropMat c).tileOut c .empty
  (s.faultGroup c.g (cmdTrap cause code elem c.pc)).reapGroup c.g
/-- R260: a command completes. -/
def State.matDone (s : State) (c : MatCmd) (fl : Flags) : State :=
  let s := (s.dropMat c).tileOut c .ready
  (s.giveGroup c.g fl c.pc).reapGroup c.g

/-- The entry that a command which stands under no shadow acts on. -/
def State.entryOf (s : State) (c : MatCmd) : Option Entry := (s.boundAt? c.g c.h c.id).bind (fun b => s.acc? b.core b.acc)

/-- R398: a tile, the slate, or the accumulator that a command reads holds an uncorrectable error. DESIGN CHOICE (assumption 26). -/
def State.matStruck (s : State) (c : MatCmd) : Bool :=
  let slate : Bool := match c.op with | .mma _ | .joint _ => true | _ => false
  let reads : Bool := match c.op with | .mma a | .joint a | .f64 a => a | .epi => true | _ => false
  !s.struck.isEmpty && (c.sources.any (s.srcStruck c.core) || (slate && s.struck.contains (.slate c.core c.slate))
    || (reads && (s.entryOf c).any (fun e => s.struck.contains (.acc e.core e.id))))
/-- R265: `MMA` outside a shadow, or inside one. -/
def State.mmaRun (s : State) (c : MatCmd) (acc : Bool) (sh : Option Shadow) : State :=
  match s.slateFault c with
  | some d => s.matFault c 17 d 0
  | none =>
    match sh with
    | some x =>
      match s.acc? x.core x.acc with
      | none => s.matFault c 17 6 0
      | some e =>
        let (e, fl) := s.mulInto c (if acc then e else e.zeroed)
        let s := (s.setAcc e).dropMat c
        ({ s with shadows := s.shadows.map (fun (y : Shadow) => if y.g = c.g ∧ y.h = c.h then { y with flags := y.flags ||| fl, pc := c.pc } else y) : State }).reapGroup c.g
    | none =>
      match s.entryOf c with
      | none => s.matFault c 17 6 0
      | some e =>
        let (e, fl) := s.mulInto c (if acc then e else e.zeroed)
        (s.setAcc e).matDone c fl
/-- R261: `MMA` under an unresolved slot. -/
def State.mmaAhead (s : State) (c : MatCmd) (acc : Bool) (k : BitVec 4) : State :=
  match s.shadows.find? (fun x => x.g = c.g ∧ x.h = c.h) with
  | some x => if x.slot = k then (if s.matStruck c then s.matFault c 5 2 0 else s.mmaRun c acc (some x)) else s
  | none =>
    if 32 ≤ s.poolHeld c.core then s
    else if s.matStruck c then s.matFault c 5 2 0
    else if (s.slateFault c).isSome then s.mmaRun c acc none
    else
      match s.entryOf c with
      | none => s.matFault c 17 6 0
      | some e =>
        let s := s.clearEntry c.core
        let e : Entry := { e with id := s.fresh, of := c.g, handle := c.h }
        let x : Shadow := { core := c.core, g := c.g, h := c.h, slot := k, acc := s.fresh, flags := 0, pc := c.pc }
        let s : State := { (s.setAcc (if acc then e else e.zeroed)).bump with shadows := s.shadows ++ [x] }
        s.mmaRun c acc (some x)

/-- R266: the four commands of a joint command, in the order of quad positions, when each stands at the head of its queue. -/
def State.jointOf (s : State) (c : MatCmd) : Option (List MatCmd) :=
  match s.quadOf c.g with
  | none => none
  | some gs =>
    let cs := gs.filterMap (fun g => ((s.matrixOf g.core).head?).bind (fun x =>
      match x.op with
      | .joint _ => if x.turn = c.turn ∧ x.g = { gang := g.gang, role := g.role, gid := g.gid } then some x else none
      | _ => none))
    if cs.length = 4 then some cs else none
/-- R262: the members' earlier accesses have performed at `.CORE`. DEDUCED (assumption 73). -/
def State.matWaits (s : State) (c : MatCmd) : Bool :=
  let uids := (s.membersOf c.g).map (·.uid)
  s.ops.any (fun o => uids.contains o.uid && decide (o.id < c.id) && (o.space != .glb || decide (2 ≤ o.scope.code)))
/-- A pending read of the handle that comes before the command (R274). -/
def State.readFirst (s : State) (c : MatCmd) : Bool :=
  s.lates.any (fun l => l.g == c.g && decide (l.after < c.id) && (match l.kind with | .accRd h _ _ => h == c.h | _ => false))

/-- R266: the four commands could start, but for their triggers (R360). -/
def State.jointCan (s : State) (cs : List MatCmd) : Bool :=
  !cs.any (fun x => s.matWaits x || s.readFirst x || s.shadows.any (fun y => y.g = x.g ∧ y.h = x.h))
/-- R360: the joint command starts at the latest of the four ticks, and every word says whether it could not. -/
def lastTrigger (cs : List MatCmd) : List MatCmd :=
  let ts := cs.filterMap (·.trig)
  let late := ts.any (fun t => t.late && ts.all (fun u => decide (u.tick ≤ t.tick)))
  cs.map (fun x => { x with trig := x.trig.map (fun t => { t with late := late }) })
def State.jointRun (s : State) (c : MatCmd) (acc : Bool) : State :=
  match s.jointOf c with
  | none => s
  | some cs =>
    let aw (c : MatCmd) := aWidth c.fmt (BitVec.ofNat 16 c.off)
    let key (c : MatCmd) := (c.h, c.op, aw c, c.desc.map (fun d => (d.k, bWidth d.fmt d.desc)))
    let faultAll (cause code : Nat) (s : State) : State := cs.foldl (fun s x => s.matFault x cause code 0) s
    if !s.jointCan cs ∨ cs.any (fun x => !trigReady s x.trig) then s
    else if cs.any (fun x => key x != key c) then faultAll 8 0 s
    else if cs.any s.matStruck then faultAll 5 2 s
    else match cs.findSome? s.slateFault with
      | some d => faultAll 17 d s
      | none =>
        match (cs[c.turn % 4]?).bind s.entryOf with
        | none => faultAll 17 6 s
        | some e =>
          let s := (lastTrigger cs).foldl (fun s x => s.writeTrigger x.core x.trig (s.engCause x.uid x.pc)) s
          let (e, fl) := cs.foldl (fun (y : Entry × Flags) x => let (e, f) := s.mulInto x y.1; (e, y.2 ||| f)) (if acc then e else e.zeroed, 0)
          cs.foldl (fun s x => s.matDone x fl) (s.setAcc e)

/-- R264: a load or a release of a slate at execution; a load of the gang that was issued after the release keeps the claim. -/
def State.loadRun (s : State) (c : MatCmd) : State :=
  match c.desc with
  | none => s.matDone c 0
  | some d =>
    let x := s.convert c.core d
    let s := { s with struck := s.struck.filter (· ≠ Struck.slate c.core c.slate) }
    let s := s.mapSlate c.core c.slate (fun y => { y with got := some d, void := x.void, data := if x.void then [] else x.data, sum := x.sum })
    if x.void then s.matFault c 17 5 0 else s.matDone c x.flags
def State.relRun (s : State) (c : MatCmd) : State :=
  let s := s.dropMat c
  let again := s.matrix.any (fun x => x.core == c.core && x.slate == c.slate && (x.op == .load || x.op == .sparse) && x.g.gang == c.g.gang)
  (s.mapSlate c.core c.slate (fun y =>
    if again then { y with got := none, void := false, data := [], sum := [] }
    else { y with claim := none, pins := [], want := none, got := none, void := false, data := [], sum := [] })).reapGroup c.g

/-- R268, R398: an epilogue at the head: its descriptor is read once, then it waits for the tiles it names. -/
def State.epiRun (s : State) (c : MatCmd) : State :=
  if c.done = 0 ∧ s.scratchStruck c.g.gang c.core c.off 16 then s.matFault c 5 2 0 else
  let d := if c.done = 0 then bytesNat (s.scrRead c.g.gang c.core c.off 16) else c.done - 1
  let c := { c with done := d + 1, t1 := (epiTile (bitsOf d 127 120)).getD 64, t2 := (epiTile (bitsOf d 119 112)).getD 64 }
  match s.epiChk c d with
  | .trap cause code _ => s.matFault c cause code 0
  | .wait _ => { s with matrix := s.matrix.map (fun x => if x.id = c.id then c else x) }
  | .ok =>
    if s.matStruck c then s.matFault c 5 2 0 else
    match s.entryOf c with
    | none => s.matFault c 17 6 0
    | some e => match s.epilogue c e d with
      | .fault cause code elem => s.matFault c cause code elem
      | .done fl s => s.matDone c fl

/-- R260, R261: the head of a core's matrix queue executes, if it can start. -/
def State.matrixRun (s : State) (core : Nat) : State :=
  let s := s.settle
  match s.matrixOf core with
  | [] => s
  | c :: _ =>
    let sh := s.shadows.any (fun x => x.g = c.g ∧ x.h = c.h)
    if s.readFirst c ∨ s.matWaits c then s
    else match s.cmdSlot c.g c.gs, c.gs with
      | some false, _ => (s.discardMat c).reapGroup c.g
      | none, some k => (match c.op with
        | .mma acc => s.mmaAhead c acc k
        | _ => s)
      | _, _ =>
        if sh then s
        else if s.matStruck c then s.matFault c 5 2 0
        else match c.op with
          | .mma acc => s.mmaRun c acc none
          | .joint acc => s.jointRun c acc
          | .f64 acc => let (s, fl) := s.mulF64 c acc; s.matDone c fl
          | .load | .sparse => s.loadRun c
          | .rel => s.relRun c
          | .epi => s.epiRun c
          | .accWr => (match s.entryOf c, s.tile? c.core c.t1 with
            | some e, some t => let (e, fl) := s.accFrom t e; (s.setAcc e).matDone c fl
            | _, _ => s.matDone c 0)
          | .accZero => (match s.entryOf c with
            | some e => (s.setAcc e.zeroed).matDone c 0
            | none => s.matDone c 0)
          | .accFree => (match s.binds.find? (·.id = c.turn) with
            | some b => (s.unbind b).matDone c 0
            | none => s.matDone c 0)

/-- R264: a release takes effect at once when no queued command names the slate, and behind them in the queue otherwise. DEDUCED (assumption 41). -/
def slateRelOp (i : Checks) (o : LOps) (m : EngMod) : State → State :=
  matrixOp i true [] (fun _ => [0])
    (fun s => operandChk [(3, (s.slate? s.me.core o.d.toNat).all (fun x => x.claim != some s.me.gang))])
    (fun ps s =>
      let c : MatCmd := { s.newMat ps m .rel with gs := none, slate := o.d.toNat }
      if s.matrix.any (fun x => x.core == c.core && x.slate == c.slate && !s.away x.g.gang) then s.enqueueMat c false else s.bump.relRun c)

/-! ### MRESET (R276) -/

/-- R276: the matrix state of a core is lost, with every `MMA.J` that a quad partner has issued for a joint command of a group of the core; the groups that held any, and the
partners of lost joint commands, take the matrix-reset trap.
The number of groups trapped. DEDUCED (assumption 50). -/
def State.matrixReset (s : State) (core : Nat) : Nat × State :=
  let here := s.groups.filter (fun g => g.core = core ∧ !s.away g.gang)
  let lost := s.matrix.filter (fun c => c.core == core && !s.away c.g.gang)
  let joints := s.matrix.filter (fun x => !s.away x.g.gang && (match x.op with
    | .joint _ => here.any (fun g => x.g.gang == g.gang && x.g.role == g.role && x.g.gid / 4 == g.gid / 4)
    | _ => false))
  let gone := s.matrix.filter (fun x => lost.any (·.id == x.id) || joints.any (·.id == x.id))
  let keyOf (g : Group) : GKey := { gang := g.gang, role := g.role, gid := g.gid }
  let claims := s.slates.filter (fun x => x.core = core)
  let held := here.filter (fun g => s.binds.any (fun b => b.g = keyOf g) || claims.any (fun x => x.claim == some g.gang) || lost.any (·.g == keyOf g))
  let shares (g : Group) : Bool := joints.any (fun c => c.g.gang == g.gang && c.g.role == g.role && c.g.gid / 4 == g.gid / 4)
  let keys := (held.map keyOf ++ gone.map (·.g) ++ (s.groups.filter shares).map keyOf).dedup
  let zero (g : Group) : Bool :=
    joints.any (fun c => c.g.gang == g.gang && c.g.role == g.role && (g.gid / 4 == c.g.gid / 4 || (g.core / 4 == core / 4 && g.core != core)))
  let s1 := gone.foldl (fun s c => match c.out with | some id => s.setTileSt c.core id .empty | none => s) s
  let mine (g : GKey) : Bool := here.any (fun x => keyOf x == g)
  let s1 := (s1.binds.filter (fun b => mine b.g)).foldl State.unbind s1
  let s1 := (s1.shadows.filter (fun x => mine x.g)).foldl State.discardShadow s1
  let s1 : State := { s1 with
    matrix := s1.matrix.filter (fun x => !(gone.any (·.id == x.id))),
    accs := s1.accs.filter (fun e => e.core ≠ core ∨ s.away e.of.gang),
    slates := s1.slates.map (fun x => if x.core = core then
      { x with claim := none, pins := [], want := none, got := none, void := false, data := [], sum := [] } else x),
    groups := s1.groups.map (fun g => if zero g then { g with joint := 0, qturn := 0 } else g) }
  (keys.length, keys.foldl (fun s g => s.faultGroup g { cause := 18, pc := 0, d0 := BitVec.ofNat 64 core }) s1)
/-- DEDUCED (assumption 50). -/
def mresetOp (i : Checks) (o : LOps) : State → State :=
  issue i (fun s =>
    let w := (s.me.rd o.a).toNat
    if 256 ≤ w ∨ ((s.core? w).bind (·.cls)).isNone then (s.wr o.d 0xFFFFFFFF).advance i
    else if !s.hasMatrix w then (s.wr o.d 0).advance i
    else
      let (n, s) := s.matrixReset w
      (s.wr o.d (BitVec.ofNat 32 n)).advance i)

/-! ### The meanings that `exec` calls -/

def execMma (o : LOps) (m : EngMod) (s : State) : Out := .next (mmaOp (Instr.mma o m).checks o m s)
def execMmaJ (o : LOps) (m : EngMod) (s : State) : Out := .next (mmaJOp (Instr.mmaJ o m).checks o m s)
def execMmaF64 (o : LOps) (m : EngMod) (s : State) : Out := .next (mmaF64Op (Instr.mmaF64 o m).checks o m s)
def execSlateLd (o : LOps) (m : EngMod) (s : State) : Out := .next (slateLdOp (Instr.slateLd o m).checks o m s)
def execSlateSp (o : LOps) (m : EngMod) (s : State) : Out := .next (slateSpOp (Instr.slateSp o m).checks o m s)
def execSlateRel (o : LOps) (m : EngMod) (s : State) : Out := .next (slateRelOp (Instr.slateRel o m).checks o m s)
def execEpi (o : LOps) (m : EngMod) (s : State) : Out := .next (epiOp (Instr.epi o m).checks o m s)
def execAccRd (o : LOps) (m : EngMod) (s : State) : Out := .next (accRdOp (Instr.accRd o m).checks o m s)
def execAccWr (o : LOps) (m : EngMod) (s : State) : Out := .next (accWrOp (Instr.accWr o m).checks o m s)
def execAccZero (o : LOps) (m : EngMod) (s : State) : Out := .next (accZeroOp (Instr.accZero o m).checks o m s)
def execAccZeroFree (o : LOps) (m : EngMod) (s : State) : Out := .next (accZeroFreeOp (Instr.accZeroFree o m).checks o m s)
def execMstat (o : LOps) (m : EngMod) (s : State) : Out := .next (mstatOp (Instr.mstat o m).checks o s)
def execMstatNow (o : LOps) (m : EngMod) (s : State) : Out := .next (mstatNowOp (Instr.mstatNow o m).checks o s)
def execMreset (o : LOps) (m : EngMod) (s : State) : Out := .next (mresetOp (Instr.mreset o m).checks o s)

end Sys2Proof.Machine
end

