-- ==== Sys2Proof/Machine/Graph.lean ====
section
/-! DEFINITION. Regions, stage graphs and launches: states (R303), launch blocks (R304), placement and start (R305 to R307, R314), the end of a
gang (R308), batches (R309 to R313), job cards (R315 to R318), cancellation (R319, R320), and the instructions of R321. -/
namespace Sys2Proof.Machine

/-! ### Reading structures from memory -/

/-- The `n` bytes that a range of the issuing thread's global space holds, read at the L2 line by line; a line that does not translate parks the thread
or traps it. DESIGN CHOICE (assumption 26). -/
def State.readSpan (s : State) : Nat → Dword → Nat → List Byte → Except State (List Byte × State)
  | 0, _, _, acc => .ok (acc, s)
  | k + 1, va, n, acc =>
    if n = 0 then .ok (acc, s)
    else
      let m := Nat.min n (64 - va.toNat % 64)
      match s.translate va .read with
      | (.ok pa, s) =>
        if s.physKind pa = .bad then .error (s.trap 5 va 3)
        else if s.inError pa m then .error (s.trap 5 va 2)
        else if s.lineHeld (pa / 64) then .error (s.await .order)
        else
          let (bs, s) := s.l2ReadBytes s.me.core s.me.part pa m s.myCause
          s.readSpan k (va + BitVec.ofNat 64 m) (n - m) (acc ++ bs)
      | (r, s) => .error (s.untranslated va .read r)
/-- `k` runs of 64 bytes. DEDUCED (assumption 51). -/
def State.readRuns (s : State) (va : Dword) (k : Nat) (acc : List Byte) : Except State (List Byte × State) := s.readSpan (k + 1) va (64 * k) acc
/-- A thread that reads structures waits for its own earlier accesses. DEDUCED (assumption 51). -/
def State.drained (s : State) (k : State → State) : State := if s.busy then s.await .order else k s

/-! ### Launch blocks (R304) -/

def roleOf (n k : Nat) : Option Role :=
  let r := n / 2 ^ (128 * k)
  if bitOf r 64 then
    some { entry := BitVec.ofNat 64 r, width := 8 * 2 ^ bitsOf r 66 65, regs := 8 * (bitsOf r 71 67 + 1), groups := bitsOf r 81 72 + 1 }
  else none
def tileDeclOf (x : Nat) : TileDecl :=
  { id := bitsOf x 5 0, base := 64 * bitsOf x 19 6, cols := bitsOf x 31 20 + 1, rows := bitsOf x 41 32 + 1, ty := Fmt.ofCode (BitVec.ofNat 5 (bitsOf x 46 42)) }
def classBits (cls : CoreClass) : Nat := match cls with | .a => 0 | .b => 1 | .c => 2 | .d => 3
/-- A launch block from its 256 bytes and its tile entries. -/
def launchBlockOf (addr : Dword) (n : Nat) (tiles : List Nat) : LaunchBlock :=
  { addr := addr, roles := (List.range 3).map (roleOf n), handler := BitVec.ofNat 64 (bitsOf n 447 384), scratch := bitsOf n 479 448,
    priv := bitsOf n 511 480, classes := BitVec.ofNat 4 (bitsOf n 515 512), joint := BitVec.ofNat 3 (bitsOf n 518 516),
    l1min := 65536 * (bitsOf n 521 519 + 1), lpc := 8 * (bitsOf n 526 522 + 1), tiles := tiles.map tileDeclOf,
    fbank := Vector.ofFn (fun k : Fin 8 => BitVec.ofNat 16 (bitsOf n (640 + 16 * k.val + 15) (640 + 16 * k.val))) }
/-- R305: the record role. -/
def LaunchBlock.recRole (b : LaunchBlock) : Option (Nat × Role) :=
  match (b.roles[1]?).join with
  | some r => some (1, r)
  | none => match (b.roles[0]?).join with
    | some r => some (0, r)
    | none => ((b.roles[2]?).join).map (fun r => (2, r))
def LaunchBlock.recWidth (b : LaunchBlock) : Nat := (b.recRole.map (·.2.width)).getD 8
def LaunchBlock.capacity (b : LaunchBlock) : Nat := (b.recRole.map (fun x => x.2.width * x.2.groups)).getD 0
def TileDecl.span (b : LaunchBlock) (t : TileDecl) : Nat :=
  let desc : BitVec 16 := match t.ty with | .pf k => b.fbank[k.toNat] | _ => 0
  t.base + t.rows * pitch (t.ty.bits (descBank desc)) t.cols
/-- R304, R321 status 4: the launch block has no reserved or out-of-range value, some role, and admits a class of `classes`. -/
def LaunchBlock.valid (b : LaunchBlock) (ntile : Nat) (classes : BitVec 4) (pad : Bool) : Bool :=
  b.recRole.isSome && decide (ntile ≤ 64) && b.addr.toNat % 256 == 0 && b.scratch % 64 == 0 && decide (b.scratch ≤ 704 * 1024)
  && b.priv % 64 == 0 && decide (b.priv ≤ 1048576) && decide ((b.tiles.map (·.id)).Nodup)
  && b.tiles.all (fun t => decide (t.span b ≤ b.scratch) && (match t.ty with | .pf k => pfValid b.fbank[k.toNat] | _ => true))
  && b.classes &&& classes != 0 && (!pad || decide (b.recWidth ≤ 32))

/-- Read a launch block and its tile entries. DEDUCED (assumption 51). -/
def State.readLb (s : State) (va : Dword) : Except State (LaunchBlock × Nat × State) :=
  match s.readRuns va 4 [] with
  | .error s => .error s
  | .ok (bs, s) =>
    let n := bytesNat bs
    let nt := bitsOf n 535 528
    match s.readSpan 10 (BitVec.ofNat 64 (bitsOf n 639 576)) (8 * Nat.min nt 64) [] with
    | .error s => .error s
    | .ok (ts, s) =>
      .ok (launchBlockOf va n ((List.range (Nat.min nt 64)).map (fun i => bytesNat ((ts.drop (8 * i)).take 8))), nt, s)

/-! ### Region states (R303) -/

/-- A region and its descendants, parent before child. -/
def State.subtreeFrom (s : State) : Nat → List Nat → List Nat
  | 0, l => l
  | k + 1, l => l ++ (let kids := (s.regions.filter (fun r => r.parent ≠ 0 ∧ l.contains r.parent)).map (·.num); if kids.isEmpty then [] else s.subtreeFrom k kids)
def State.subtree (s : State) (r : Nat) : List Nat := s.subtreeFrom s.regions.length [r]

/-! ### Batches (R309 to R312) -/

def Node.recSize (n : Node) : Nat := n.rsz
def State.node? (s : State) (r n : Nat) : Option Node := (s.region? r).bind (·.nodes[n]?)
def State.mapNode (s : State) (r n : Nat) (f : Node → Node) : State :=
  s.mapRegion r (fun x => { x with nodes := x.nodes.zipIdx.map (fun (y, i) => if i = n then f y else y) })
def State.mapBatch (s : State) (id : Nat) (f : Batch → Batch) : State :=
  { s with batches := s.batches.map (fun b => if b.id = id then f b else b) }

/-- R314: the locality bin of a first field. -/
def binOf (a : Nat) : Nat := bitsOf a 24 21 ^^^ bitsOf a 28 25 ^^^ bitsOf a 32 29 ^^^ bitsOf a 36 33
/-- The bin of work whose first record lies at `va` in the region's space; none while a release holds a table entry or the record (R230, R389), and 0 where it does not translate. DEDUCED (assumption 65). -/
def State.binAt (s : State) (die : Nat) (r : Region) (va : Dword) : Option Nat × State :=
  match s.regionTranslate (die * 64) r va .read with
  | (.ok pa, s) => (if s.lineHeld (pa / 64) then none else some (binOf (readNat s.mem pa 8)), s)
  | (.held, s) => (none, s)
  | (_, s) => (some 0, s)

/-- R310: sealed batches enter the node's ring, oldest first, while it has room and their first record can be read; each entry is a ready gang. DESIGN CHOICE (assumption 52). -/
def State.fillRing (s : State) (r n : Nat) : Nat → State
  | 0 => s
  | k + 1 =>
    match s.region? r, s.node? r n, s.batches.find? (fun b => b.region = r ∧ b.node = n ∧ b.st = .sealed) with
    | some x, some nd, some b =>
      if (s.batches.filter (fun b => b.region = r ∧ b.node = n ∧ b.st = .ring)).length < 2 ^ nd.qlog2 then
        match s.binAt b.die x (BitVec.ofNat 64 b.base) with
        | (none, s) => s
        | (some bin, s) =>
          ({ (s.mapBatch b.id (fun b => { b with st := .ring })) with
            ready := s.ready ++ [{ die := b.die, region := r, bin := bin, src := .batch b.id }] : State }).fillRing r n k
      else s
    | _, _, _ => s
/-- R310, R311: seal a batch; under PAD the slots to the end of the last group are zero. -/
def State.sealBatch (s : State) (id : Nat) (timed : Bool) : State :=
  match s.batches.find? (·.id = id) with
  | none => s
  | some b =>
    if b.st ≠ .gathering then s
    else
      let s := s.mapBatch id (fun b => { b with st := .sealed, timed := timed })
      let s : State := match s.region? b.region, s.node? b.region b.node with
        | some r, some n =>
          if n.pad then
            let last := roundUp b.slots n.blk.recWidth
            (List.range (last - b.slots)).foldl (fun s i =>
              s.deviceWrite (b.die * 64) r (BitVec.ofNat 64 (b.base + (b.slots + i) * n.recSize)) (List.replicate n.recSize 0)) s
          else s
        | _, _ => s
      s.fillRing b.region b.node s.batches.length
/-- Seal every open batch that `p` picks. -/
def State.sealWhere (s : State) (p : Batch → Bool) : State :=
  (s.batches.filter (fun b => b.st = .gathering ∧ p b)).foldl (fun s b => s.sealBatch b.id false) s

/-! ### QUIESCE, RESUME, CANCEL (R303, R324) -/

inductive RegionEvent where
  | quiesce | resume | cancel
  deriving DecidableEq, Repr
/-- R303: one region takes an event; the flag says status 2. -/
def State.regionEvent (s : State) (e : RegionEvent) (r : Nat) : Bool × State :=
  match s.region? r with
  | none => (false, s)
  | some x =>
    match e, x.state with
    | .quiesce, .active =>
      (false, ((s.mapRegion r (fun x => { x with state := .quiescing })).sealWhere (·.region == r)).settleRegion r)
    | .quiesce, .quiescing | .quiesce, .halted => (false, s)
    | .resume, .active => (false, s)
    | .resume, .quiescing | .resume, .halted => (false, (s.mapRegion r (fun x => { x with state := .active })).settleRegion r)
    | .cancel, .active | .cancel, .quiescing =>
      (false, ((s.mapRegion r (fun x => { x with state := .cancelling, cancelAt := s.time })).discardWork r).settleRegion r)
    | .cancel, .cancelling | .cancel, .halted => (false, s)
    | _, _ => (true, s)
/-- R324: the event acts on the region and every descendant. -/
def State.regionWalk (s : State) (e : RegionEvent) (r : Nat) : Bool × State :=
  (s.subtree r).foldl (fun (x : Bool × State) n => let (b, s) := x.2.regionEvent e n; (x.1 || b, s)) (false, s)

/-- The region an operand names: 0 is the thread's own (R321). -/
def State.regionArg (s : State) (w : Word) : Nat := if w = 0 then s.regionNum s.me else w.toNat
def State.reachable (s : State) (r : Nat) : Bool := (s.region? r).isSome && s.reaches (s.regionNum s.me) r
/-- The operand B or LIT32 (R321). -/
def State.bArg (s : State) (o : LOps) : Word := o.lit.getD (s.me.rd o.b)

def regionCtlOp (e : RegionEvent) (i : Checks) (o : LOps) : State → State :=
  issue i (fun s =>
    let r := s.regionArg (s.bArg o)
    if !s.reachable r then (s.wr o.d 1).advance i
    else
      let (b, s) := s.regionWalk e r
      (s.wr o.d (if b then 2 else 0)).advance i)
def cancelOp (i : Checks) (o : LOps) : State → State := regionCtlOp .cancel i o
def quiesceOp (i : Checks) (o : LOps) : State → State := regionCtlOp .quiesce i o
def resumeOp (i : Checks) (o : LOps) : State → State := regionCtlOp .resume i o

/-! ### NODE.CTL (R325), QSTAT (R327) -/

def timerPassed (s : State) (r n : Nat) (b : Batch) : Bool :=
  b.region == r && b.node == n && (match s.node? r n with | some x => x.timer != 0 && decide (b.t0 + x.timer ≤ s.time) | none => false)
def nodeCtlOp (sub : Nat) (i : Checks) (o : LOps) : State → State :=
  issue i (fun s =>
    let r := s.regionNum s.me
    let n := (s.bArg o).toNat
    if (s.node? r n).isNone then (s.wr o.d 1).advance i
    else
      let s : State := match sub with
        | 0 => s.mapNode r n (fun x => { x with en := false })
        | 1 =>
          let s := s.mapNode r n (fun x => { x with en := true })
          (s.batches.filter (fun (b : Batch) => b.st = .gathering ∧ timerPassed s r n b)).foldl (fun (s : State) (b : Batch) => s.sealBatch b.id true) s
        | _ => s.sealWhere (fun b => b.region == r && b.node == n)
      (s.wr o.d 0).advance i)

/-- R327. -/
def State.qstat (s : State) (sel : Nat) (w : Word) : Nat :=
  let none_ := 2 ^ 64 - 1
  let own := s.regionNum s.me
  let ofNode (f : Node → Nat) : Nat := ((s.node? own w.toNat).map f).getD none_
  let r := s.regionArg w
  let ofRegion (f : Region → Nat) : Nat := if s.reachable r then ((s.region? r).map f).getD none_ else none_
  match sel with
  | 0 => ofNode (fun _ => ((s.batches.filter (fun b => b.region = own ∧ b.node = w.toNat ∧ b.st ≠ .gang)).map (·.slots)).sum)
  | 1 => ofNode (·.ngang)
  | 2 => ofNode (·.ntimer)
  | 3 => ofRegion (·.state.code)
  | 4 => ofRegion (·.accepted)
  | 5 => ofRegion (·.consumed)
  | 6 => ofRegion (·.dropped)
  | 7 => ofRegion (fun _ => s.poolFree (s.allot 2 r))
  | _ => ofRegion (fun _ => (s.cards.filter (·.region = r)).length)
def qstatOp (i : Checks) (o : LOps) (m : CtlMod) : State → State :=
  issue i (fun s => (s.produce o.d 2 (some (natWords 2 (s.qstat m.sel.toNat (s.bArg o))))).advance i)

/-! ### EMIT (R322) -/

/-- The batch an `EMIT` of depth `d` takes a slot of. -/
def State.openBatch (s : State) (r n d : Nat) : Option Batch :=
  s.batches.find? (fun b => b.region = r ∧ b.node = n ∧ b.die = s.me.die ∧ b.depth = d ∧ b.st = .gathering)
/-- R310: the bytes of a batch. -/
def Node.batchSize (n : Node) : Nat := roundUp ((if n.pad then roundUp n.thr n.blk.recWidth else n.thr) * n.recSize) 64
/-- The address of the slot an `EMIT` would take, with the batch it opens for it. -/
def State.slotFor (s : State) (r n d : Nat) (nd : Node) : Option (Nat × Option Batch) :=
  match s.openBatch r n d with
  | some b => some (b.base + b.slots * nd.recSize, none)
  | none => (s.poolPlace r nd.batchSize).map (fun a =>
      (a, some { id := s.fresh, region := r, node := n, die := s.me.die, depth := d, base := a, size := nd.batchSize, slots := 0, t0 := s.time, timed := false, st := .gathering }))
/-- R322: the code of an `EMIT` at the region's state word. -/
def State.emitCode (s : State) (x : Region) (n d : Nat) (nd : Node) : Nat :=
  if x.state = .cancelling then 3 else if !nd.en then 4 else if nd.maxd < d then 2 else if (s.slotFor x.num n d nd).isNone then 1 else 0

/-- The bytes the issuing thread reads, with its own earlier stores (R183). -/
def State.ownRead (s : State) (segs : List (Nat × Nat)) : List Byte × State :=
  let x := s.newOp (.load false) .glb segs [] .th .rlx 0 none
  segs.foldl (fun (y : List Byte × State) seg => let (b, s) := y.2.readSeg x seg.1 seg.2; (y.1 ++ b, s)) ([], s)
/-- R394: what an auditable gang emits is kept. DEDUCED (assumption 27). -/
def State.captureRecord (s : State) (pa : Nat) (bs : List Byte) : State :=
  { s with audits := s.audits.map (fun a => if a.gang = s.me.gang then { a with records := a.records ++ [(s.me.tid, bs)], recLines := a.recLines ++ [pa / 64] } else a) }

/-- R322: an `EMIT` up to its code; `deliver` acts on the delivered record's state, `refuse` on a code that is not 0. DESIGN CHOICE (assumption 52). -/
def emitWith (i : Checks) (o : LOps) (deliver : State → State) (refuse : Nat → Nat → State → State) : State → State :=
  fun s =>
    let n := (s.bArg o).toNat
    let k := (s.me.rd o.c).toNat
    let a := s.me.rd2 o.a
    let r := s.regionNum s.me
    match s.region? r, s.node? r n with
    | some x, some nd =>
      if nd.recSize < k then s.trap 13 a 0
      else if a.toNat % 16 ≠ 0 then s.trap 12 a 0
      else
        match (if k = 0 then .ok ({ space := .glb, segs := [] }, s) else s.locate .glb 0 a k false .read true) with
        | .error s => s
        | .ok (src, s) =>
          let d := ((s.gang? s.me.gang).map (·.depth)).getD 0 + 1
          let code := s.emitCode x n d nd
          if code ≠ 0 then refuse code n s
          else match s.slotFor r n d nd with
            | none => refuse 1 n s
            | some (slot, new) =>
              match s.locate .glb 0 (BitVec.ofNat 64 slot) nd.recSize false .write false with
              | .error s => s
              | .ok (dst, s) =>
                let id := match new with | some b => b.id | none => ((s.openBatch r n d).map (·.id)).getD 0
                let w := s.newOp (.store false) .glb dst.segs [] .dev .rel 0 (some id)
                s.whenAdmitted { w with id := w.id + 1 } .order (fun s =>
                  let (v, s) := s.ownRead src.segs
                  let bs := v ++ List.replicate (nd.recSize - v.length) 0
                  let s : State := match new with
                    | some b => { ((s.poolTake r b.id nd.batchSize).map (fun (x : Nat × State) => x.2)).getD s with batches := s.batches ++ [b] }
                    | none => s
                  let s := (s.bump).bump
                  let s := s.mapBatch id (fun b => { b with slots := b.slots + 1, t0 := if b.slots = 0 then s.time else b.t0 })
                  let s := (s.mapRegion r (fun x => { x with accepted := (x.accepted + 1) % 2 ^ 64 })).mapNode r n (fun y => { y with nrec := (y.nrec + 1) % 2 ^ 64 })
                  let s := (s.perform { w with id := w.id + 1, data := bs.map some }).captureRecord ((dst.segs.map (·.1)).headD 0) bs
                  let full := ((s.batches.find? (·.id = id)).map (fun b => decide (nd.thr ≤ b.slots))).getD false
                  let s := if full ∨ x.state = .quiescing then s.sealBatch id false else s
                  (deliver s).advance i)
    | _, _ => refuse 5 n s

/-- R319, R322: the blocking form. In a `CANCELLING` region the cancel trap, where it is due, comes before the checks of the node, the size and the address. DESIGN CHOICE (assumption 52). -/
def emitOp (i : Checks) (o : LOps) : State → State :=
  issue i (fun s => s.cancelPoint (emitWith i o id (fun code n s =>
    match code with
    | 1 => s.awaitWith { kind := .pool, obj := BitVec.ofNat 64 n, limit := s.wdogLimit s.me }
    | 3 => s.advance i
    | c => s.trap 25 0 (BitVec.ofNat 64 c))))
def emitTryOp (i : Checks) (o : LOps) (m : CtlMod) : State → State :=
  let done (code : Nat) (s : State) : State := (s.wr o.d (BitVec.ofNat 32 code)).setPred (m.sel.setWidth 3) (code == 0)
  issue i (emitWith i o (done 0) (fun code _ s => (done code s).advance i))

/-! ### Job cards (R315 to R317, R323) -/

/-- R323 check 3: the card has no reserved or out-of-range value. -/
def cardOk (n : Nat) (lb : LaunchBlock) (nt : Nat) (classes : BitVec 4) : Bool :=
  decide (1 ≤ bitsOf n 159 128) && decide (2 ≤ bitsOf n 167 165) && bitsOf n 127 64 % 16 == 0 && bitsOf n 255 192 % 8 == 0
  && lb.valid nt classes (bitOf n 164)
/-- R315: the card of 64 bytes `n` for a region, with its launch block; `uid` is the launching thread. -/
def jobCard (id region uid n : Nat) (lb : LaunchBlock) : Card :=
  { id := id, region := region, uid := uid, lb := lb, args := BitVec.ofNat 64 (bitsOf n 127 64), n := bitsOf n 159 128,
    stride := 16 * (bitsOf n 163 160 + 1), pad := bitOf n 164, dscope := bitsOf n 167 165,
    done := BitVec.ofNat 64 (bitsOf n 255 192), dealt := 0, chunks := 0, live := 0 }
/-- R317. -/
def State.accept (s : State) (region n : Nat) : State := s.mapRegion region (fun x => { x with accepted := (x.accepted + n) % 2 ^ 64 })
/-- R323. DEDUCED (assumption 51). -/
def launchJobOp (i : Checks) (o : LOps) : State → State :=
  issue i (fun s =>
    let a := s.me.rd2 o.a
    let r := s.regionArg (s.bArg o)
    if a.toNat % 64 ≠ 0 then s.trap 12 a 0
    else s.drained (fun s =>
      match s.readRuns a 1 [] with
      | .error s => s
      | .ok (bs, s) =>
        let n := bytesNat bs
        match s.readLb (BitVec.ofNat 64 (bitsOf n 63 0)) with
        | .error s => s
        | .ok (lb, nt, s) =>
          let done (w : Word) (s : State) : State := (s.wr o.d w).advance i
          match if s.reachable r then s.region? r else none with
          | none => done 1 s
          | some x =>
            if x.state ≠ .active then done 2 s
            else if !cardOk n lb nt x.classes then done 4 s
            else if 64 ≤ (s.cards.filter (·.region = r)).length then done 3 s
            else
              let c := jobCard s.fresh r s.me.uid n lb
              let w := { s.newOp .fence .glb [] [] .dev .rel 0 none with id := s.fresh + 1 }
              s.whenAdmitted w .order (fun s =>
                let s := ((s.bump.bump).accept r c.n).perform w
                done 0 { s with cards := s.cards ++ [c] })))

/-- R316: the next chunk of a card. -/
def chunkSize (remaining cap width cores : Nat) : Nat :=
  Nat.min (Nat.min remaining cap) (roundUp (Nat.max width ((remaining + 2 * cores - 1) / (2 * cores))) width)
def State.dealChunk (s : State) (card : Nat) : State :=
  match s.cards.find? (·.id = card) with
  | none => s
  | some c =>
    match s.region? c.region with
    | none => s
    | some r =>
      if c.n ≤ c.dealt ∨ s.holds.any (fun h => h.op.uid == c.uid && h.op.isFence && decide (h.op.id < c.id + 2)) then s
      else
        let k := chunkSize (c.n - c.dealt) c.lb.capacity c.lb.recWidth (Nat.max 1 r.cores)
        let die := r.vdt.getD (c.chunks % Nat.max 1 r.vdt.length) 0
        match s.binAt die r (c.args + BitVec.ofNat 64 (c.dealt * c.stride)) with
        | (none, s) => s
        | (some bin, s) =>
        { s with cards := s.cards.map (fun x => if x.id = card then { x with dealt := x.dealt + k, chunks := x.chunks + 1, live := x.live + 1 } else x),
                 ready := s.ready ++ [{ die := die, region := c.region, bin := bin, src := .chunk card c.dealt k }] }

/-! ### What a ready gang needs (R305 to R307) -/

/-- A gang to be placed. -/
structure Spec where
  region : Region
  die : Nat
  lb : LaunchBlock
  recAddr : Dword
  nrec : Nat
  depth : Nat
  pad : Bool
  origin : Origin
  classes : BitVec 4
  node : Option (Nat × Nat)
  timed : Bool
  deriving DecidableEq, Repr

def State.specOf (s : State) (x : Ready) : Option Spec :=
  match s.region? x.region with
  | none => none
  | some r =>
    match x.src with
    | .batch id =>
      match s.batches.find? (·.id = id) with
      | none => none
      | some b => (s.node? b.region b.node).map (fun n =>
          { region := r, die := b.die, lb := n.blk, recAddr := BitVec.ofNat 64 b.base, nrec := b.slots, depth := b.depth, pad := n.pad,
            origin := .batch b.region b.node b.id, classes := n.classes &&& r.classes &&& n.blk.classes, node := some (b.region, b.node), timed := b.timed })
    | .chunk card first count =>
      (s.cards.find? (·.id = card)).map (fun c =>
        { region := r, die := x.die, lb := c.lb, recAddr := c.args + BitVec.ofNat 64 (first * c.stride), nrec := count, depth := 0, pad := c.pad,
          origin := .card card, classes := r.classes &&& c.lb.classes, node := none, timed := false })
    | .saved _ => none

/-- A group to be placed: role, index, width, registers, entry, started members, and whether its role is joint. -/
structure GSpec where
  role : Nat
  gid : Nat
  r : Role
  started : BitVec 64
  pad : Bool
  joint : Bool
  base : Nat
  deriving DecidableEq, Repr
/-- R307, R311: the groups of a gang that start, in linear order (R64). DEDUCED (assumption 53). -/
def Spec.groups (p : Spec) : List GSpec :=
  let recRole := (p.lb.recRole.map (·.1)).getD 3
  let all (w : Nat) : BitVec 64 := BitVec.ofNat 64 (2 ^ w - 1)
  (p.lb.roles.zipIdx.foldl (fun (x : List GSpec × Nat) (r, k) =>
    match r with
    | none => x
    | some r =>
      let joint := p.lb.joint.getLsbD k
      let gs := (List.range r.groups).filterMap (fun g =>
        let left := p.nrec - g * r.width
        let mk (started : BitVec 64) (pad : Bool) : GSpec := { role := k, gid := g, r := r, started := started, pad := pad, joint := joint, base := x.2 + g * r.width }
        if k ≠ recRole ∨ joint then some (mk (all r.width) false)
        else if left = 0 then none
        else if r.width ≤ left then some (mk (all r.width) false)
        else if p.pad then some (mk (all r.width) true)
        else some (mk (all left) false))
      (x.1 ++ gs, x.2 + r.groups * r.width)) ([], 0)).1

/-- R13, R15: the partitions of a class, numbered from 0. DESIGN CHOICE (assumption 83). -/
def partitionsOf : CoreClass → Nat
  | .a | .c => 4
  | .b | .d => 3
/-- Threads of resident gangs on a core. -/
def State.onCore (s : State) (core : Nat) : List Thread :=
  s.threads.filter (fun t => t.core = core ∧ (s.gang? t.gang).isSome ∧ !s.away t.gang)
/-- The home lane of a thread within its partition (R63). -/
def lanesOf (p : Place) (w : Nat) : List Nat := (List.range w).map (fun i => p.k * w + i)

/-- The lanes of a group whose members start (R311). -/
def GSpec.lanes (g : GSpec) (p : Place) : List Nat := (((List.range g.r.width).filter (fun i => g.started.getLsbD i))).map (fun i => p.k * g.r.width + i)
/-- R306: a joint role restricts every core that the gang uses. -/
def LaunchBlock.anyJoint (b : LaunchBlock) : Bool := b.roles.zipIdx.any (fun x => x.1.isSome && b.joint.getLsbD x.2)
/-- R306 items 1 to 3: one group at one place, beside the groups already placed. -/
def State.groupFits (s : State) (p : Spec) (g : GSpec) (x : Place) (before : List (GSpec × Place)) : Bool :=
  match (s.core? x.core).bind (·.cls) with
  | none => false
  | some cls =>
    let same := before.filter (fun y => y.2.core = x.core)
    let w := g.r.width
    x.core / 64 == p.die && p.classes.getLsbD (classBits cls)
    && (decide (p.lb.lpc ≤ 192) || cls == .a || cls == .c) && (!p.lb.anyJoint || cls == .a || cls == .b)
    && decide (x.part < partitionsOf cls) && decide (x.k * w + w ≤ 64)
    && decide ((same.map (fun y => y.1.r.width)).sum + w ≤ p.lb.lpc)
    && same.all (fun y => y.2.part != x.part || (lanesOf y.2 y.1.r.width).all (fun l => !(lanesOf x w).contains l))
    && (!g.joint || (x.core % 4 == g.gid % 4 && before.all (fun y => !(y.1.role == g.role && y.1.gid / 4 == g.gid / 4) || y.2.core / 4 == x.core / 4)))
    && (g.lanes x).all (fun l =>
        decide ((((s.onCore x.core).filter (fun t => t.part = x.part ∧ t.lane = l)).map (·.budget)).sum + g.r.regs ≤ 1024))
    && decide ((((s.onCore x.core).filter (·.part = x.part)).length) + ((same.filter (fun y => y.2.part = x.part)).map (fun y => (y.1.lanes y.2).length)).sum + (g.lanes x).length ≤ 2048)

/-- R181: the L1 size that a core would have for a gang: its own if it suits, or, on an empty core, the least that does. DESIGN CHOICE (assumption 34). -/
def State.splitFor (s : State) (core : Nat) (lb : LaunchBlock) : Option Nat :=
  match s.core? core with
  | none => none
  | some c =>
    let used := ((s.pads.filter (fun p => p.core = core ∧ !s.away p.gang)).map (·.size)).sum
    let need := roundUp lb.scratch 64
    if lb.l1min ≤ c.l1size ∧ used + need ≤ 786432 - c.l1size then some c.l1size
    else if (s.onCore core).isEmpty ∧ lb.l1min + need ≤ 786432 then some lb.l1min
    else none
/-- R306 item 4. -/
def State.coreFits (s : State) (core : Nat) (lb : LaunchBlock) : Bool :=
  (s.splitFor core lb).isSome && lb.tiles.all (fun t => (s.tile? core t.id).isNone)

/-- The cores and threads in use under the allotment of a region for budget group `bit` (R302). -/
def State.coresUsed (s : State) (o : Nat) : List Nat :=
  ((s.threads.filter (fun t => (s.gang? t.gang).isSome ∧ !s.away t.gang ∧ s.allot 0 (s.regionNum t) = o)).map (·.core)).dedup
def State.slotsUsed (s : State) (o : Nat) : Nat :=
  (s.threads.filter (fun t => (s.gang? t.gang).isSome ∧ !s.away t.gang ∧ s.allot 1 (s.regionNum t) = o)).length
/-- R306 item 5. -/
def State.budgetFits (s : State) (r : Nat) (cores : List Nat) (threads : Nat) : Bool :=
  let o0 := s.allot 0 r
  let o1 := s.allot 1 r
  let kept (f : Region → Nat) (bit o : Nat) : Nat := ((s.reserving bit o).map f).sum
  decide ((s.coresUsed o0 ++ cores).dedup.length + kept (·.cores) 0 o0 ≤ ((s.region? o0).map (·.cores)).getD 0) &&
  decide (s.slotsUsed o1 + threads + kept (·.slots) 1 o1 ≤ ((s.region? o1).map (·.slots)).getD 0)

/-- R306: the placement is one the dispatcher may make. DESIGN CHOICE (assumption 34). -/
def State.placeOk (s : State) (p : Spec) (place : List Place) : Bool :=
  let gs := p.groups
  let pairs := gs.zip place
  let cores := (place.map (·.core)).dedup
  let threads := (gs.map (fun g => ((List.range 64).filter (fun i => g.started.getLsbD i)).length)).sum
  decide (place.length = gs.length) && !gs.isEmpty && p.region.vdt.contains p.die
  && (pairs.zipIdx.all (fun (x, i) => s.groupFits p x.1 x.2 (pairs.take i)))
  && cores.all (fun c => s.coreFits c p.lb) && s.budgetFits p.region.num cores threads
  && (s.poolPlace p.region.num ((p.lb.priv + 1152) * threads)).isSome

/-- A placement where the event names none: groups in order, each at the first place that suits, cores ascending. DESIGN CHOICE (assumption 34). -/
def State.defaultPlace (s : State) (p : Spec) : List Place :=
  (p.groups.foldl (fun (acc : List (GSpec × Place)) g =>
    let try_ := (List.range 64).flatMap (fun c => (List.range 4).flatMap (fun q => (List.range (64 / Nat.max 1 g.r.width)).map (fun k =>
      ({ core := p.die * 64 + c, part := q, k := k } : Place))))
    match try_.find? (fun x => s.coreFits x.core p.lb && s.groupFits p g x acc) with
    | some x => acc ++ [(g, x)]
    | none => acc) []).map (·.2)

/-! ### Dispatch order (R314) -/

/-- The die whose dispatcher a ready gang is for; a saved gang's follows its virtual die (R371). -/
def State.readyDie (s : State) (x : Ready) : Nat :=
  match x.src with
  | .saved id => ((s.gang? id).bind (fun g => (s.region? g.region).bind (·.vdt[g.vdie]?))).getD x.die
  | _ => x.die
/-- The node of a ready batch is enabled (R325), and its region is not under hold (R381). -/
def State.offered (s : State) (x : Ready) : Bool :=
  !((s.region? x.region).map (·.hold)).getD true &&
  match x.src with
  | .batch id => ((s.batches.find? (·.id = id)).bind (fun b => s.node? b.region b.node)).any (·.en)
  | .chunk _ _ _ => true
  | .saved id => (s.gang? id).any (fun g => g.res == .saved && !g.forced)
def WorkSrc.isSaved : WorkSrc → Bool
  | .saved _ => true
  | _ => false
/-- R314 items 3 and 4: the gang at the head of a region's order on a die, with its bin and whether it stays in the current bin. A saved gang is ahead of all
that arrived after it (R371), and one that could not be placed keeps its place. -/
def State.headOf (s : State) (die region : Nat) : Option (Ready × Bool) :=
  let l : List Ready := s.ready.filter (fun x => s.readyDie x = die ∧ x.region = region ∧ s.offered x)
  let cap := ((s.region? region).map (fun r => if r.bincap = 0 then 1024 else r.bincap)).getD 1024
  let cur : Option (Nat × Nat) := ((s.region? region).bind (fun r => r.cursors.find? (·.1 = die))).map (·.2)
  let b0 := (cur.map (fun (x : Nat × Nat) => x.1)).getD 0
  let more := (cur.map (fun (x : Nat × Nat) => decide (x.2 < cap))).getD true
  let held := ((s.die? die).map (·.passed)).getD []
  match (l.find? (fun (x : Ready) => x.src.isSaved)).or (l.find? (fun (x : Ready) => held.contains x.src)) |>.or (if more then l.find? (fun (x : Ready) => x.bin = b0) else none) with
  | some x => some (x, x.src.isSaved || (more && x.bin == b0))
  | none =>
    ((List.range 16).findSome? (fun k => l.find? (fun (x : Ready) => x.bin = (b0 + 1 + k) % 16))).map (fun x => (x, false))
/-- Where a region stands in the order of a die: by PRIO, then a region whose head was passed over, then those that follow the region of its PRIO that was
served last. -/
def State.offerKey (s : State) (d : Die) (r : Nat) : List Nat :=
  let prio := ((s.region? r).map (·.prio)).getD 0
  let last := ((d.last.find? (·.1 = prio)).map (·.2)).getD 0
  let held : Bool := ((s.headOf d.id r).map (fun x => d.passed.contains x.1.src)).getD false
  [15 - prio, if held then 0 else 1, if r ≤ last then 1 else 0, r]
/-- R314 items 1 and 2: the ready gangs of a die that are offered a placement, one of each region, in the order in which they are. DESIGN CHOICE (assumption 34). -/
def State.offers (s : State) (d : Die) : List (Ready × Bool) :=
  let nums := ((s.ready.filter (fun x => s.readyDie x = d.id)).map (·.region)).dedup
  (nums.insertionSort (fun a b => decide (s.offerKey d a ≤ s.offerKey d b))).filterMap (s.headOf d.id)

/-! ### The start of a gang (R307) -/

/-- R62, R307: one thread at the start. DESIGN CHOICE (assumption 4). DESIGN CHOICE (assumption 34). -/
def startThread (p : Spec) (gang uid : Nat) (g : GSpec) (x : Place) (member privBase trapf : Nat) : Thread :=
  { uid := uid, gang := gang, role := g.role, gid := g.gid, member := member, tid := g.base + member, core := x.core, part := x.part,
    lane := x.k * g.r.width + member, budget := g.r.regs, pc := g.r.entry, regs := Vector.replicate 256 0, fe := Vector.replicate 256 true,
    preds := 1, ord := 0, stk := BitVec.ofNat 32 p.lb.priv,
    fcr := (p.region.fcr0 &&& 0x003FFFF7) ||| (if p.region.logm then 0x00400000 else 0), fsr := 0, trapf := BitVec.ofNat 64 trapf,
    asid := p.region.asid, ptel := p.region.ptel, priv := [], privSize := p.lb.priv, privBase := privBase, prods := [], run := .ready, halted := (p.region.debugOn p.die).halted,
    handler := none, entering := none, held := [], cancelTaken := false, psn := 0, resv := none, trig := none, resume := none, light := false, warned := false, wrote := [],
    stepping := false, starting := true, asks := none, syncs := [], since := 0, logs := [], struck := [] }
def startGroup (gang : Nat) (g : GSpec) (x : Place) : Group :=
  { gang := gang, role := g.role, gid := g.gid, width := g.r.width, core := x.core, part := x.part, k := x.k, started := g.started, pad := g.pad,
    guards := Vector.replicate 16 none, edgeUp := none, edgeDown := none, joint := 0, qturn := 0 }
/-- R232, R238: the lines of a core whose dirty bytes a save or a new L1 split writes back: failing records of them are verified first. DESIGN CHOICE (assumption 15). -/
def State.flushL1 (s : State) (core : Nat) (c : Cause) : State :=
  let lines := (((s.core? core).map (·.l1)).getD []).map (·.line)
  (lines.foldl State.settled s).wbAll core c
/-- R181: the core's store is split anew: nothing is left in its L1, nor an error of what was there (R398). -/
def State.emptyL1 (s : State) (core l1 : Nat) : State :=
  { s.mapCore core (fun c => { c with l1 := [], l1size := l1 }) with struck := s.struck.filter (fun x => match x with | .l1 c _ => c != core | _ => true) }
/-- R181, R199, R279: a core receives the gang, before its threads join: its split, its scratchpad, whose dynamic part follows the declared tiles, and its tile entries.
DESIGN CHOICE (assumption 4). -/
def State.openCore (s : State) (gang : Nat) (lb : LaunchBlock) (core : Nat) : State :=
  let s : State := match s.splitFor core lb with
    | some l1 =>
      if ((s.core? core).map (·.l1size)).getD 0 = l1 then s
      else (s.flushL1 core {}).emptyL1 core l1
    | none => s
  let size := roundUp lb.scratch 64
  let dyn := (lb.tiles.map (·.span lb)).foldl Nat.max 0
  { s with
    pads := s.pads ++ [{ gang := gang, core := core, size := size, dynBase := dyn, dynPtr := dyn, bytes := [] }],
    tiles := s.tiles ++ lb.tiles.map (fun t =>
      { core := core, id := t.id, gang := gang, base := t.base, rows := t.rows, cols := t.cols, fmt := t.ty,
        desc := match t.ty with | .pf k => lb.fbank[k.toNat] | _ => 0, st := .empty, chk := none }) }

/-- R394: the bytes of a range of a region's space, as the auditor keeps them. DEDUCED (assumption 27). -/
def State.peek (s : State) (r : Region) (va : Dword) (n : Nat) : List Byte :=
  (List.range n).map (fun i =>
    let a := va + BitVec.ofNat 64 i
    match (s.regionTranslate (r.vdt.headD 0 * 64) r (BitVec.ofNat 64 (a.toNat / 4096 * 4096)) .read).1 with
    | .ok pa => readByte s.mem (pa + a.toNat % 4096)
    | _ => 0)
/-- R307: the gang starts at its places. -/
def State.startGang (s : State) (p : Spec) (place : List Place) : State :=
  let id := s.fresh
  let pairs := p.groups.zip place
  let slots := pairs.flatMap (fun x => ((List.range 64).filter (fun i => x.1.started.getLsbD i)).map (fun i => (x.1, x.2, i)))
  let n := slots.length
  match s.poolTake p.region.num id ((p.lb.priv + 1152) * n) with
  | none => s
  | some (base, s) =>
    let threads := slots.zipIdx.map (fun (x, j) => startThread p id (id + 1 + j) x.1 x.2.1 x.2.2 (base + p.lb.priv * j) (base + p.lb.priv * n + 1152 * j))
    let cores := (place.map (·.core)).dedup
    let gang : Gang := { id := id, region := p.region.num, die := p.die, vdie := (p.region.vdt.findIdx? (· = p.die)).getD 0, lb := p.lb, recAddr := p.recAddr,
                         nrec := p.nrec, depth := p.depth, origin := p.origin, res := .running, forced := false, wait := none, kept := [] }
    let s := cores.foldl (fun s c => s.openCore id p.lb c) s
    let threads := threads.map (fun t => { t with since := s.cycle })
    let s : State := { s with others := s.others ++ threads, gangs := s.gangs ++ [gang], groups := s.groups ++ pairs.map (fun x => startGroup id x.1 x.2),
                              fresh := s.fresh + 1 + n }
    let s := (pairs.map (·.2)).foldl (fun s x => s.acquireL1 x.core x.part 5) s
    match p.origin, p.node with
    | .batch _ _ b, some (r, k) =>
      let s := (s.mapBatch b (fun b => { b with st := .gang })).mapNode r k (fun y =>
        { y with ngang := (y.ngang + 1) % 2 ^ 64, ntimer := if p.timed then (y.ntimer + 1) % 2 ^ 64 else y.ntimer })
      let replay := ((s.node? r k).map (·.replay)).getD false
      let s : State := if replay then
          { s with audits := s.audits ++ [{ gang := id, die := p.die, quad := ((place.map (·.core)).headD 0) / 4, region := r, fdom := p.region.fdom, lb := p.lb, classes := p.classes,
                                            batch := s.peek p.region p.recAddr (p.nrec * ((s.node? r k).map (·.recSize)).getD 0), selected := false, stores := [],
                                            records := [], lines := [], seen := [], recAddr := p.recAddr, nrec := p.nrec, depth := p.depth, pad := p.pad }] }
        else s
      s.fillRing r k s.batches.length
    | _, _ => s

/-- R311, R313: the releases that the gang's start follows have been confirmed, and the padding of its batch is zero. DESIGN CHOICE (assumption 52). -/
def State.released (s : State) (x : Ready) : Bool :=
  match x.src with
  | .batch id => !s.holds.any (fun h => h.op.tag == some id && !h.op.isRmw) && !(s.batches.filter (·.id = id)).any (fun b => s.devWrites.any b.padding)
  | _ => true
/-! ### The end of a gang (R308) -/

/-- R308: nothing of the gang is left to do. DEDUCED (assumption 54). -/
def State.gangOver (s : State) (gang : Nat) : Bool :=
  let ts := s.threads.filter (·.gang = gang)
  let uids := ts.map (·.uid)
  ts.all (fun t => t.run == .exited) && !s.ops.any (fun o => uids.contains o.uid) && !s.holds.any (fun h => uids.contains h.op.uid)
  && !s.copies.any (fun c => uids.contains c.uid && c.st.live) && !s.streams.any (fun c => uids.contains c.uid && c.st.live)
  && !s.matrix.any (·.g.gang == gang) && !s.remotes.any (fun r => uids.contains r.uid && r.st.live) && !s.colls.any (fun c => uids.contains c.uid)

/-- R393, R394: an auditable gang steps the selection register of its region on its die. -/
def State.auditEnd (s : State) (g : Gang) (forced : Bool) : State :=
  match s.audits.find? (·.gang = g.id), s.region? g.region with
  | some a, some r =>
    let drop (s : State) : State := { s with audits := s.audits.filter (·.gang ≠ g.id) }
    if forced ∨ r.audit = 0 then drop s
    else
      let init := r.lseed.toNat ^^^ g.die
      let S := ((r.sel.find? (·.1 = g.die)).map (·.2)).getD (if init = 0 then 1 else init)
      let bit := (S.testBit 63 ^^ S.testBit 62) ^^ (S.testBit 60 ^^ S.testBit 59)
      let S' := (S * 2 + (if bit then 1 else 0)) % 2 ^ 64
      let s := s.mapRegion r.num (fun r => { r with sel := (g.die, S') :: r.sel.filter (·.1 ≠ g.die) })
      let count (k : Fin 5) (s : State) : State := s.mapDie g.die (fun d => { d with galliard := d.galliard.set k ((d.galliard[k] + 1) % 2 ^ 64) })
      if S' % 1024 < r.audit.toNat then
        if 256 ≤ (s.audits.filter (fun x => x.die = g.die ∧ x.selected)).length then drop (count 4 s)
        else count 0 { s with audits := s.audits.map (fun x => if x.gang = g.id then { a with selected := true } else x) }
      else drop s
  | _, _ => s

/-- A thread that stands where no gang is left: it has ended. -/
def Thread.gone (t : Thread) : Thread := { t with uid := 0, gang := 0, run := .exited, prods := [], held := [], entering := none, handler := none, priv := [] }
/-- The threads of a gang leave the machine. -/
def State.dropThreads (s : State) (gang : Nat) : State :=
  let rest := s.others.filter (·.gang ≠ gang)
  if s.me.gang ≠ gang then { s with others := rest }
  else match rest with
    | t :: ts => { s with me := t, others := ts }
    | [] => { s with me := s.me.gone, others := [] }

/-- R251, R278: the claims of a gang end. -/
def State.endClaims (s : State) (gang : Nat) : State :=
  { s with slates := s.slates.map (fun x => if x.claim = some gang then
      { x with claim := none, pins := [], want := none, got := none, void := false, data := [], sum := [] } else x) }

/-- R308, R318, R320: the gang ends: its records are consumed or dropped, and what it held is freed. DEDUCED (assumption 54). -/
def State.endGang (s : State) (g : Gang) : State :=
  let s := s.auditEnd g g.forced
  let s := s.mapRegion g.region (fun r => if g.forced then { r with dropped := (r.dropped + g.nrec) % 2 ^ 64 } else { r with consumed := (r.consumed + g.nrec) % 2 ^ 64 })
  let s := (s.dropCommands g.id).endClaims g.id
  let s := (s.binds.filter (·.g.gang = g.id)).foldl State.unbind s
  let s : State := { s with
    gangs := s.gangs.filter (·.id ≠ g.id), groups := s.groups.filter (·.gang ≠ g.id), pads := s.pads.filter (·.gang ≠ g.id),
    tiles := s.tiles.filter (·.gang ≠ g.id) }
  let s := (s.poolGive g.id).dropThreads g.id
  let s : State := { s with ready := s.ready.filter (fun x => x.src ≠ .saved g.id) }
  let s : State := match g.origin with
    | .batch _ _ b => { s.poolGive b with batches := s.batches.filter (·.id ≠ b) }
    | .card c => s.endChunk c
    | .none => s
  s.settleRegion g.region
def State.gangEnd (s : State) (gang : Nat) : State :=
  match s.gang? gang with
  | some g => if s.gangOver gang then s.endGang g else s
  | none => s

/-! ### Timers (R310, R319) -/

/-- Pavane time reaches at least `t`. DESIGN CHOICE (assumption 30). -/
def State.reach (s : State) (t : Nat) : State := if s.time < t then s.elapse (t - s.time) else s
/-- R310, R325: the timer of the `k`-th batch seals it; a timer of a disabled node is held. -/
def State.timerSeal (s : State) (k : Nat) : State :=
  match s.batches[k]? with
  | none => s
  | some b =>
    match s.node? b.region b.node with
    | some n => if b.st = .gathering ∧ n.timer ≠ 0 ∧ n.en then (s.reach (b.t0 + n.timer)).sealBatch b.id true else s
    | none => s
/-- R319: the grace of a cancelling region is over: its gangs are retired by force. -/
def State.graceOver (s : State) (region : Nat) : State :=
  match s.region? region with
  | some r =>
    if r.state = .cancelling then
      let s := s.reach (r.cancelAt + r.grace * 1024)
      (s.gangs.filter (·.region = region)).foldl (fun s g => s.retire g.id) s
    else s
  | none => s

/-! ### REGION.NEW (R301, R302, R326) -/

/-- R375: a virtual-die table. -/
def vdtOf (w : Nat) : List Nat := (List.range (bitsOf w 2 0)).map (fun v => bitsOf w (9 + 2 * v) (8 + 2 * v))
def State.vdtOk (s : State) (w : Nat) : Bool :=
  let nv := bitsOf w 2 0
  decide (1 ≤ nv ∧ nv ≤ 4) && decide ((vdtOf w).Nodup) && (vdtOf w).all (fun d => ((s.die? d).map (·.enabled)).getD false)
  && (List.range 4).all (fun v => decide (v < nv) || bitsOf w (9 + 2 * v) (8 + 2 * v) == 0) && bitsOf w 63 16 == 0 && bitsOf w 7 3 == 0

/-- R309: a node descriptor with its launch block. -/
def nodeOf (n : Nat) (blk : LaunchBlock) : Node :=
  { lb := BitVec.ofNat 64 (bitsOf n 63 0), blk := blk, rsz := 16 * (bitsOf n 67 64 + 1), maxd := bitsOf n 73 68, pad := bitOf n 74, en := bitOf n 75,
    replay := bitOf n 76, thr := bitsOf n 95 80, timer := bitsOf n 127 96, classes := BitVec.ofNat 4 (bitsOf n 131 128), qlog2 := bitsOf n 135 132,
    qbase := BitVec.ofNat 64 (bitsOf n 255 192), nrec := 0, ngang := 0, ntimer := 0 }
/-- R309, R326 check 2: a node is valid for a region of classes `classes` whose rings lie in the pool `(pool, size)`. -/
def nodeOk (x : Node) (nt : Nat) (classes : BitVec 4) (pool : Nat × Nat) : Bool :=
  x.blk.valid nt (classes &&& x.classes) x.pad && decide (1 ≤ x.thr ∧ x.thr ≤ x.blk.capacity) && decide (4 ≤ x.qlog2) && x.qbase.toNat % 64 == 0
  && decide (pool.1 ≤ x.qbase.toNat ∧ x.qbase.toNat + 16 * 2 ^ x.qlog2 ≤ pool.1 + pool.2)

/-- Read the node descriptors and their launch blocks. -/
def State.readNodes (s : State) (tab : Dword) : Nat → List (Node × Nat) → Except State (List (Node × Nat) × State)
  | 0, acc => .ok (acc, s)
  | k + 1, acc =>
    match s.readRuns tab 1 [] with
    | .error s => .error s
    | .ok (bs, s) =>
      let n := bytesNat bs
      match s.readLb (BitVec.ofNat 64 (bitsOf n 63 0)) with
      | .error s => .error s
      | .ok (lb, nt, s) => s.readNodes (tab + 64) k (acc ++ [(nodeOf n lb, nt)])

/-- R301: a region from the fields of an image that are its own, before inheritance. -/
def regionOf (num parent vif : Nat) (image : Dword) (n : Nat) (nodes : List Node) (vdt : List Nat) : Region :=
  { num := num, parent := parent, image := image, vif := vif, state := .active, ovr := BitVec.ofNat 16 (bitsOf n 95 80), cores := bitsOf n 159 128,
    slots := bitsOf n 191 160, pool := bitsOf n 255 192, poolb := bitsOf n 319 256, tdir := bitsOf n 351 320, prio := bitsOf n 355 352,
    classes := BitVec.ofNat 4 (bitsOf n 359 356), logm := bitOf n 361, sys := bitOf n 362, fdom := bitsOf n 383 368, vdtAddr := BitVec.ofNat 64 (bitsOf n 447 384),
    vdt := vdt, pasid := BitVec.ofNat 20 (bitsOf n 467 448), ptroot := bitsOf n 575 512, ptel := BitVec.ofNat 64 (bitsOf n 639 576),
    asid := BitVec.ofNat 32 (bitsOf n 671 640), audit := BitVec.ofNat 32 (bitsOf n 703 672), wdog := BitVec.ofNat 32 (bitsOf n 735 704), grace := bitsOf n 767 736,
    fcr0 := BitVec.ofNat 32 (bitsOf n 799 768), bincap := bitsOf n 815 800, nodes := nodes, nodetab := BitVec.ofNat 64 (bitsOf n 895 832),
    handler := BitVec.ofNat 64 (bitsOf n 959 896), logring := BitVec.ofNat 64 (bitsOf n 1023 960), logn := bitsOf n 1039 1024, logdrop := 0,
    lseed := BitVec.ofNat 64 (bitsOf n 1151 1088), accepted := 0, consumed := 0, dropped := 0, tdwoff := [none, none, none, none], cancelAt := 0,
    hold := false, log := [], logTail := 0, cursors := [], sel := [], dbg := [] }
/-- R302: what a child takes from its parent. -/
def inherit_ (c p : Region) : Region :=
  let own (i : Nat) : Bool := c.ovr.getLsbD i
  { c with
    cores := if own 0 then c.cores else p.cores, slots := if own 1 then c.slots else p.slots, pool := if own 2 then c.pool else p.pool,
    poolb := if own 2 then c.poolb else p.poolb, tdir := if own 3 then c.tdir else p.tdir, prio := if own 4 then c.prio else p.prio,
    fdom := if own 5 then c.fdom else p.fdom, classes := if own 6 then c.classes else p.classes,
    vdtAddr := if own 7 then c.vdtAddr else p.vdtAddr, vdt := if own 7 then c.vdt else p.vdt, pasid := if own 8 then c.pasid else p.pasid,
    ptroot := if own 8 then c.ptroot else p.ptroot, ptel := if own 8 then c.ptel else p.ptel, asid := if own 8 then c.asid else p.asid,
    audit := if own 9 then c.audit else p.audit, lseed := if own 9 then c.lseed else p.lseed, wdog := if own 10 then c.wdog else p.wdog,
    grace := if own 11 then c.grace else p.grace, handler := if own 12 then c.handler else p.handler, logm := if own 13 then c.logm else p.logm,
    logring := if own 13 then c.logring else p.logring, logn := if own 13 then c.logn else p.logn, bincap := if own 14 then c.bincap else p.bincap,
    fcr0 := if own 15 then c.fcr0 else p.fcr0 }

def isPow2 (n : Nat) : Bool := n != 0 && n == 2 ^ n.log2
/-- R301, R326 check 2: no field of the image is out of range. Bits that R301 reserves are not looked at, here and in the other structures. DESIGN CHOICE (assumption 82). -/
def imageOk (r : Region) : Bool :=
  let own (i : Nat) : Bool := r.ovr.getLsbD i
  (!own 0 || decide (1 ≤ r.cores ∧ r.cores ≤ 256)) && (!own 2 || (r.pool % 65536 == 0 && r.poolb % 65536 == 0)) && (!own 3 || decide (r.tdir ≤ 384))
  && (!own 6 || r.classes != 0) && (!own 7 || r.vdtAddr.toNat % 8 == 0) && (!own 9 || decide (r.audit.toNat ≤ 1024))
  && (!own 13 || r.logn == 0 || (isPow2 r.logn && decide (16 ≤ r.logn) && r.logring.toNat % 64 == 0)) && (r.nodes.isEmpty || r.nodetab.toNat % 64 == 0)

/-- R302, R326 check 4: what the image reserves fits the parent's free allotments. -/
def State.budgetOk (s : State) (r : Region) : Bool :=
  let own (i : Nat) : Bool := r.ovr.getLsbD i
  let o (i : Nat) : Nat := s.allot i r.parent
  let has (i : Nat) (f : Region → Nat) : Nat := ((s.region? (o i)).map f).getD 0 - ((s.reserving i (o i)).map f).sum
  (!own 0 || decide (r.cores + (s.coresUsed (o 0)).length ≤ has 0 (·.cores))) && (!own 1 || decide (r.slots + s.slotsUsed (o 1) ≤ has 1 (·.slots)))
  && (!own 2 || (decide (r.poolb ≤ s.poolFree (o 2)) &&
      ((s.region? (o 2)).map (fun p => decide (p.pool ≤ r.pool ∧ r.pool + r.poolb ≤ p.pool + p.poolb))).getD false &&
      (s.poolTaken (o 2)).all (fun b => decide (r.pool + r.poolb ≤ b.1 ∨ b.1 + b.2 ≤ r.pool))))
  && (!own 3 || decide (r.tdir ≤ has 3 (·.tdir)))

/-- R189: the lowest run of `n` free units on a die. DEDUCED (assumption 53). -/
def State.carveRun (s : State) (die n : Nat) : Option Nat :=
  (List.range (385 - n)).find? (fun u => (List.range n).all (fun k => !s.regions.any (·.carved die (u + k))))
/-- R326 check 5: the carves of a region with its own Thatch-direct allotment. DEDUCED (assumption 53). -/
def State.carve (s : State) (r : Region) : Option (List (Option Nat)) :=
  if !(r.ovr.getLsbD 3 || r.parent == 0) || r.tdir == 0 then some [none, none, none, none]
  else if 384 < r.tdir then none
  else (List.range 4).foldlM (fun acc d => if r.vdt.contains d then (s.carveRun d r.tdir).map (fun u => acc ++ [some u]) else some (acc ++ [none])) []
/-- R189: a carved unit reads as zero when first carved: no L1 holds older bytes of it. -/
def State.clearRun (s : State) (die u n : Nat) : State :=
  let lo := s.mbase + die * 2 ^ 40 + 0xC000000000 + u * 2 ^ 21
  let out (a : Nat) : Bool := decide (a < lo ∨ lo + n * 2 ^ 21 ≤ a)
  { s with mem := s.mem.filter (fun c => out c.1), badWords := s.badWords.filter (fun w => out (8 * w)), weak := s.weak.filter (fun w => out (8 * w)),
           cores := s.cores.map (fun c => { c with l1 := c.l1.filter (fun l => out (64 * l.line)) }) }
/-- A region number that is not in use. DEDUCED (assumption 53). -/
def State.freeNum (s : State) : Nat := (((List.range 4097).drop 1).find? (fun n => (s.region? n).isNone)).getD 0

/-- A checked region joins the table. -/
def State.addRegion (s : State) (r : Region) (runs : List (Option Nat)) : State :=
  let s := runs.zipIdx.foldl (fun s (u, d) => match u with | some u => s.clearRun d u r.tdir | none => s) s
  ({ s with regions := s.regions ++ [{ r with tdwoff := runs }] : State }).writeBack s.me.core r.num

/-- R326: the checks in order; a status, or the region and its carves. -/
def State.checkRegion (s : State) (p r : Region) (nodes : List (Node × Nat)) (vdtWord : Option Nat) : Except Nat (Region × List (Option Nat)) :=
  let pool := if r.ovr.getLsbD 2 then (r.pool, r.poolb) else ((s.region? (s.allot 2 p.num)).map (fun x => (x.pool, x.poolb))).getD (0, 0)
  if p.state ≠ .active then .error 2
  else if !imageOk r || !nodes.all (fun x => nodeOk x.1 x.2 r.classes pool) || (r.sys && !p.sys) || (vdtWord.map (fun w => !s.vdtOk w)).getD false then .error 4
  else if !ptValid r.ptel then .error 7
  else if !s.budgetOk r then .error 5
  else match s.carve r with
    | none => .error 6
    | some runs => if 4096 ≤ s.regions.length then .error 9 else .ok (r, runs)

/-- R326. An image whose address is not aligned takes the misaligned-access trap, as the card of `LAUNCH.JOB` does (R323). DEDUCED (assumption 51). DESIGN CHOICE (assumption 93). -/
def regionNewOp (i : Checks) (o : LOps) : State → State :=
  issue i (fun s =>
    let a := s.me.rd2 o.a
    if a.toNat % 256 ≠ 0 then s.trap 12 a 0
    else s.drained (fun s =>
      match s.readRuns a 4 [] with
      | .error s => s
      | .ok (bs, s) =>
        let n := bytesNat bs
        match s.readNodes (BitVec.ofNat 64 (bitsOf n 895 832)) (bitsOf n 831 816) [] with
        | .error s => s
        | .ok (nodes, s) =>
          let va := BitVec.ofNat 64 (bitsOf n 447 384)
          match (if bitOf n 87 then (s.readRuns (BitVec.ofNat 64 (va.toNat / 64 * 64)) 1 []).map (fun x => (some (bytesNat ((x.1.drop (va.toNat % 64)).take 8)), x.2))
                 else .ok (none, s)) with
          | .error s => s
          | .ok (vw, s) =>
            match s.regionOf s.me with
            | none => (s.wrNat o.d 2 2).advance i
            | some p =>
              let r := inherit_ (regionOf s.freeNum p.num p.vif a n (nodes.map (·.1)) ((vw.map vdtOf).getD [])) p
              match s.checkRegion p r nodes vw with
              | .error c => (s.wrNat o.d 2 c).advance i
              | .ok (r, runs) => ((s.addRegion r runs).wrNat o.d 2 (r.num * 2 ^ 32)).advance i))

/-! ### The meanings that `exec` calls -/

def execEmit (o : LOps) (m : CtlMod) (s : State) : Out := .next (emitOp (Instr.emit o m).checks o s)
def execEmitTry (o : LOps) (m : CtlMod) (s : State) : Out := .next (emitTryOp (Instr.emitTry o m).checks o m s)
def execLaunchJob (o : LOps) (m : CtlMod) (s : State) : Out := .next (launchJobOp (Instr.launchJob o m).checks o s)
def execCancel (o : LOps) (m : CtlMod) (s : State) : Out := .next (cancelOp (Instr.cancel o m).checks o s)
def execQuiesce (o : LOps) (m : CtlMod) (s : State) : Out := .next (quiesceOp (Instr.quiesce o m).checks o s)
def execResume (o : LOps) (m : CtlMod) (s : State) : Out := .next (resumeOp (Instr.resume o m).checks o s)
def execNodeCtlOff (o : LOps) (m : CtlMod) (s : State) : Out := .next (nodeCtlOp 0 (Instr.nodeCtlOff o m).checks o s)
def execNodeCtlOn (o : LOps) (m : CtlMod) (s : State) : Out := .next (nodeCtlOp 1 (Instr.nodeCtlOn o m).checks o s)
def execNodeCtlFlush (o : LOps) (m : CtlMod) (s : State) : Out := .next (nodeCtlOp 2 (Instr.nodeCtlFlush o m).checks o s)
def execRegionNew (o : LOps) (m : CtlMod) (s : State) : Out := .next (regionNewOp (Instr.regionNew o m).checks o s)
def execQstat (o : LOps) (m : CtlMod) (s : State) : Out := .next (qstatOp (Instr.qstat o m).checks o m s)

end Sys2Proof.Machine
end

