-- ==== Sys2Proof/Machine/Fabric.lean ====
section
/-! DEFINITION. Parcels (R331 to R344), remote memory access (R345 to R353), collectives between modules (R354 to R357), Pavane time (R358 to R360),
links and their death (R330, R361, R395 to R397), and the freeing of a region (R326). -/
namespace Sys2Proof.Machine

/-! ### The parcel table (R331 to R337) -/

def PState.code : PState → Nat
  | .free => 0 | .opened => 1 | .sealed => 2 | .inTransit => 3 | .arrived => 4 | .returned => 5
/-- R332. -/
def State.handle (s : State) (p : Parcel) : Dword := BitVec.ofNat 64 (s.chip.toNat * 2 ^ 48 + p.num * 2 ^ 24 + p.gen)
/-- R332: header bits [63:0]. -/
def Parcel.stateWord (p : Parcel) : Nat := p.st.code + 2 ^ 8 * p.dwin + 2 ^ 32 * p.lsz + 2 ^ 40 * p.gen
/-- R332: header bits [383:320]. -/
def Parcel.routeWord (p : Parcel) : Nat := p.schip + 2 ^ 16 * p.dchip + 2 ^ 32 * p.key.toNat
/-- R332: a number whose parcel has been freed or has left: the next generation, and zero in every other field. -/
def Parcel.gone (p : Parcel) : Parcel :=
  { num := p.num, gen := (p.gen + 1) % 2 ^ 24, st := .free, lsz := 0, region := 0, base := 0, map := [], schip := 0, dchip := 0, dwin := 0, key := 0,
    sealing := none, charge := 0, dropped := false }

def overlapping (a n b m : Nat) : Bool := decide (a < b + m ∧ b < a + n)
/-- An access that has been admitted to the range has not performed. -/
def State.accessed (s : State) (a n : Nat) : Bool :=
  s.ops.any (fun o => o.space == .glb && o.segs.any (fun x => overlapping a n x.1 x.2))
def Parcel.size (p : Parcel) : Nat := 2 ^ p.lsz
def State.parcelBusy (s : State) (p : Parcel) : Bool := s.accessed p.base p.size

/-- R331: the lowest place in the heap for a parcel of 2^l bytes, aligned to its size. DESIGN CHOICE (assumption 55). -/
def State.heapPlace (s : State) (l : Nat) : Option Nat :=
  let n := 2 ^ l
  let used := s.parcels.filter (·.st ≠ .free)
  let fits (a : Nat) : Bool :=
    decide (s.heap ≤ a ∧ a + n ≤ s.heap + s.heapSize) && used.all (fun p => !overlapping a n p.base p.size) && !s.accessed a n
  (((s.heap :: used.map (fun p => p.base + p.size)).map (fun a => roundUp a n)).filter fits).min?
/-- R332: the lowest number that is free; number 0 is never allocated. DESIGN CHOICE (assumption 55). -/
def State.freeParcel (s : State) : Option Nat :=
  (((List.range (s.parcels.length + 2)).drop 1).filter (fun n => decide (n < 2 ^ 24))).find? (fun n => (s.parcel n).st = .free)
/-- R339: bytes of memory become zero, and nothing of what they held is left in a cache. DESIGN CHOICE (assumption 55). -/
def State.wipe (s : State) (a n : Nat) : State :=
  let inside (x : Nat) : Bool := decide (a ≤ x ∧ x < a + n)
  { s with mem := s.mem.filter (fun c => !inside c.1), badWords := s.badWords.filter (fun w => !inside (8 * w)),
           counted := s.counted.filter (fun x => !inside (64 * x.line)),
           cores := s.cores.map (fun c => { c with l1 := c.l1.filter (fun l => !inside (64 * l.line)) }) }
/-- R337, R339: a number and a place for a new parcel of 2^l bytes charged to the allotment that region `r` draws on. DESIGN CHOICE (assumption 55). -/
def State.newParcel (s : State) (r l : Nat) : Option (Nat × Nat × Nat) :=
  let charge := s.allot 2 r
  if 16 ≤ l ∧ l ≤ 34 ∧ 2 ^ l ≤ s.poolFree charge then
    match s.freeParcel, s.heapPlace l with
    | some n, some base => some (n, base, charge)
    | _, _ => none
  else none

/-! ### PCL.NEW, PCL.FREE (R339) -/

def pclNewOp (i : Checks) (o : LOps) : State → State :=
  issue i (fun s =>
    let l := (s.me.rd o.a).toNat
    let own := s.regionNum s.me
    match s.newParcel own l with
    | none => (s.wr2 o.d 0).advance i
    | some (n, base, charge) =>
      let p : Parcel := { s.parcel n with st := .opened, lsz := l, region := own, base := base, map := [], schip := s.chip.toNat, charge := charge }
      (((s.wipe base (2 ^ l)).setParcel p).wr2 o.d (s.handle p)).advance i)

/-- R335: the first four checks for an instruction that names a handle and no offset. -/
def State.onParcel (s : State) (h : Dword) (k : Parcel → State → State) : State :=
  match s.ownParcel h with
  | .error d => s.trap 26 0 (BitVec.ofNat 64 d)
  | .ok p => k p s

def pclFreeOp (i : Checks) (o : LOps) : State → State :=
  issue i (fun s => s.onParcel (s.me.rd2 o.a) (fun p s =>
    match p.st with
    | .opened | .sealed | .returned => (s.setParcel p.gone).advance i
    | _ => s.trap 27 0 0))

/-! ### ST.PREF, LD.PREF (R340) -/

def stPrefOp (i : Checks) (o : LOps) (m : MemMod) : State → State :=
  issue i (fun s =>
    let a := s.effAddr .par o
    let v := (s.me.rd2 o.c).toNat
    if 2 ^ 48 ≤ v then s.trap 28 a 4
    else match s.locate .par (s.me.rd2 o.a) a 8 true .write false (s.parcelOff o) with
      | .ok (p, s) =>
        ((s.push (s.newOp (.store true) p.space p.segs ((natBytes 8 (2 ^ 63 + v)).map some) m.scope m.ord m.evict.toNat none)).event).advance i
      | .error s => s)

/-- R340: what a load of a reference finds, from the word and its map bit: a detail of the trap, or the offset. -/
def refOf (p : Parcel) (w : Nat) (marked : Bool) : Except Nat Nat :=
  if !marked || !w.testBit 63 || bitsOf w 62 48 != 0 then .error 2
  else if bitsOf w 47 0 < 64 ∨ p.mapOff ≤ bitsOf w 47 0 then .error 3
  else .ok (bitsOf w 47 0)
/-- The thread has stores to a range that have not performed. -/
def State.ownStores (s : State) (a n : Nat) : Bool :=
  s.ops.any (fun o => o.uid == s.me.uid && o.isWrite && o.space == .glb && o.segs.any (fun x => overlapping a n x.1 x.2))

/-- The traps of R340 are precise, so the word is read when the instruction issues. DEDUCED (assumption 22). -/
def ldPrefOp (i : Checks) (o : LOps) (m : MemMod) : State → State :=
  issue i (fun s =>
    let a := s.effAddr .par o
    let h := s.me.rd2 o.a
    match s.locate .par h a 8 true .read true (s.parcelOff o) with
    | .ok (spot, s) =>
      let pa := (spot.segs.headD (0, 0)).1
      let p := s.parcel (handleNum h)
      let x := s.newOp (.load false) spot.space spot.segs [] m.scope m.ord m.evict.toNat none
      if s.ownStores pa 8 then s.await .order
      else s.whenAdmitted x .order (fun s =>
        let (bs, s) := s.readSeg x pa 8
        match refOf p (bytesNat bs) (p.map.contains ((pa - p.base) / 8)) with
        | .error d => s.trap 28 a (BitVec.ofNat 64 d)
        | .ok v => ((((s.countBatten s.me.core 0).acquireOf x).produce o.d 2 (some (natWords 2 v))).event).advance i)
    | .error s => s)

/-! ### SEAL (R341) -/

/-- The word at an offset of a parcel: dirty bytes in an L1, the sealing thread's core first, over memory. -/
def State.parcelWord (s : State) (p : Parcel) (w : Nat) : Nat :=
  let at_ (k : Nat) : Byte :=
    let a := p.base + 8 * w + k
    let dirty (c : Nat) : Option Byte := (s.l1? c (a / 64)).bind (fun l => if l.dirty.getLsbD (a % 64) then some (l.byte (a % 64)) else none)
    ((s.me.core :: s.cores.map (·.id)).findSome? dirty).getD (readByte s.mem a)
  bytesNat ((List.range 8).map at_)
/-- The lowest marked word whose offset leaves the body. -/
def State.badRef (s : State) (p : Parcel) : Option Nat :=
  (p.map.filter (fun w => let v := bitsOf (s.parcelWord p w) 47 0; decide (v < 64 ∨ p.mapOff ≤ v))).min?

/-- A `SEAL` in progress: the admitted accesses perform, the map is scanned, and the thread's release completes. One that is cut short, as its thread ends, leaves
the parcel `SEALED` and the `SEAL` in progress. DESIGN CHOICE (assumption 42). -/
def State.sealOn (s : State) (i : Checks) (p : Parcel) (rel : Option Nat) : State :=
  match rel with
  | none =>
    if s.parcelBusy p then s.await .order
    else match s.badRef p with
      | some w => (s.setParcel { p with st := .opened, sealing := none }).trap 28 (BitVec.ofNat 64 (8 * w)) 3
      | none =>
        let x := s.newOp .fence .glb [] [] .fab .rel 0 none
        ((s.push x).setParcel { p with sealing := some (s.me.uid, some x.id) }).await .order
  | some id =>
    if s.ops.any (·.id == id) || s.holds.any (·.op.id == id) then s.await .order
    else (s.setParcel { p with sealing := none }).advance i
def sealOp (i : Checks) (o : LOps) : State → State :=
  issue i (fun s => s.onParcel (s.me.rd2 o.a) (fun p s =>
    match p.st, p.sealing with
    | .opened, _ =>
      let p : Parcel := { p with st := .sealed, sealing := some (s.me.uid, none) }
      (s.setParcel p).sealOn i p none
    | .sealed, some (u, rel) => if u = s.me.uid then s.sealOn i p rel else s.advance i
    | .sealed, none => s.advance i
    | _, _ => s.trap 27 0 0))

/-! ### POST (R342). DESIGN CHOICE (assumption 42). -/

def State.setPost (s : State) (num status : Nat) : State :=
  { s with posts := s.posts.map (fun x => if x.num = num ∧ x.status.isNone then { x with status := some status } else x) }
/-- R342: the transition of `POST`, which records the destination; status 1 at once where there is no route (R337). -/
def State.postParcel (s : State) (p : Parcel) (dst : Dword) : State :=
  let chip := bitsOf dst.toNat 63 48
  let ok := s.routes.contains chip
  s.setParcel { p with st := if ok then .inTransit else .returned, dchip := chip, dwin := bitsOf dst.toNat 47 36, key := dst.setWidth 32 }
def State.postRoute (s : State) (dst : Dword) : Bool := s.routes.contains (bitsOf dst.toNat 63 48)
/-- The checks that both forms make; a `SEAL` in progress is waited for. DESIGN CHOICE (assumption 42). -/
def State.whenSealed (s : State) (h dst : Dword) (k : Parcel → State → State) : State :=
  if bitsOf dst.toNat 35 32 ≠ 0 then s.trap 1 0 0
  else s.onParcel h (fun p s =>
    match p.st with
    | .sealed => if p.sealing.isSome then s.await .order else k p s
    | .opened => s.trap 26 0 6
    | _ => s.trap 27 0 0)
/-- DESIGN CHOICE (assumption 42). -/
def postOp (i : Checks) (o : LOps) : State → State :=
  issue i (fun s =>
    let dst := s.me.rd2 o.c
    match s.posts.find? (·.uid = s.me.uid) with
    | some x =>
      (match x.status with
      | none => s.await .post
      | some v => (({ s with posts := s.posts.filter (·.uid ≠ s.me.uid) : State }).wr o.d (BitVec.ofNat 32 v)).advance i)
    | none => s.whenSealed (s.me.rd2 o.a) dst (fun p s =>
        if s.postRoute dst then
          { s.postParcel p dst with posts := s.posts ++ [{ uid := s.me.uid, num := p.num, status := none }] : State }.await .post
        else ((s.postParcel p dst).wr o.d 1).advance i))
def postNbOp (i : Checks) (o : LOps) : State → State :=
  issue i (fun s => s.whenSealed (s.me.rd2 o.a) (s.me.rd2 o.c) (fun p s => (s.postParcel p (s.me.rd2 o.c)).advance i))

/-! ### ACCEPT (R343), PCL.STAT (R344) -/

def State.window? (s : State) (num : Nat) : Option Window := s.windows.find? (·.num = num)
def State.mapWindow (s : State) (num : Nat) (f : Window → Window) : State :=
  { s with windows := s.windows.map (fun w => if w.num = num then f w else w) }
/-- R343, R348: the window that a register names, if its upper bits are zero. -/
def State.windowArg (s : State) (a : Word) : Option Window := if a.toNat < 4096 then s.window? a.toNat else none
/-- A wait whose expiry writes 0 keeps the destination and the length of the instruction. -/
def State.awaitZero (s : State) (k : WaitKind) (i : Checks) (o : LOps) : State :=
  s.awaitWith { kind := k, data := [o.d.setWidth 64, BitVec.ofNat 64 i.syl], limit := s.wdogLimit s.me }

/-- R343: take the oldest parcel that has arrived; `empty` acts where there is none. -/
def acceptWith (i : Checks) (o : LOps) (empty : State → State) : State → State :=
  issue i (fun s =>
    match s.windowArg (s.me.rd o.a) with
    | none => (s.wr2 o.d 0).advance i
    | some w =>
      if !s.reaches w.region (s.regionNum s.me) then (s.wr2 o.d 0).advance i
      else match w.arrivals with
        | [] => empty s
        | n :: rest =>
          let p : Parcel := { s.parcel n with st := .opened, schip := s.chip.toNat }
          let s := ((s.mapWindow w.num (fun w => { w with arrivals := rest })).setParcel p).acquireL1 s.me.core s.me.part 7
          (s.wr2 o.d (s.handle p)).advance i)
def acceptOp (i : Checks) (o : LOps) : State → State := acceptWith i o (fun s => s.awaitZero .accept i o)
def acceptTryOp (i : Checks) (o : LOps) : State → State := acceptWith i o (fun s => (s.wr2 o.d 0).advance i)
/-- R343: an acquire at `.FAB` of the parcel's bytes. -/
def acceptBackOp (i : Checks) (o : LOps) : State → State :=
  issue i (fun s => s.onParcel (s.me.rd2 o.a) (fun p s =>
    match p.st with
    | .returned => (((s.setParcel { p with st := .sealed }).acquireL1 s.me.core s.me.part 7).wr2 o.d (s.handle p)).advance i
    | .opened | .sealed => s.trap 26 0 6
    | _ => s.trap 27 0 0))

def State.pclStat (s : State) (h : Dword) (sel : Nat) : Nat :=
  let p := s.parcel (handleNum h)
  if handleChip h ≠ s.chip then 2 ^ 64 - 1
  else match sel with
    | 0 => p.stateWord
    | 1 => p.routeWord
    | _ => if p.st = .opened ∨ p.st = .sealed then p.map.length else 0
def pclStatOp (i : Checks) (o : LOps) (m : SyncMod) : State → State :=
  issue i (fun s => (s.produce o.d 2 (some (natWords 2 (s.pclStat (s.me.rd2 o.a) m.sub.toNat)))).advance i)

/-! ### Delivery (R337) -/

/-- R337: a parcel arrives: it is entered as `ARRIVED`, or the sender gets it back and nothing changes here. DESIGN CHOICE (assumption 55). -/
def State.parcelArrives (s : State) (x : ParcelImage) : State :=
  match s.window? x.win with
  | none => s
  | some w =>
    if !w.rights.getLsbD 3 || w.key != x.key || decide (64 ≤ w.arrivals.length) then s
    else match s.newParcel w.region x.lsz with
      | none => s
      | some (n, base, charge) =>
        let p : Parcel := { s.parcel n with st := .arrived, lsz := x.lsz, region := w.region, base := base, map := x.map.dedup, schip := x.src.toNat,
                                            dchip := s.chip.toNat, dwin := x.win, key := x.key, charge := charge }
        let s := (s.wipe base (2 ^ x.lsz)).setParcel p
        let body := x.bytes.filter (fun b => decide (64 ≤ b.1 ∧ b.1 < p.mapOff))
        let s := body.foldl (fun s b => s.l2Write (s.homeDie base) (base + b.1) [some b.2] {}) s
        s.mapWindow w.num (fun w => { w with arrivals := w.arrivals ++ [n] })
/-- R396: the drain of its link has ended, and the parcel is lost. -/
def State.parcelLost (s : State) (p : Parcel) : Bool := s.drains.any (fun d => d.round == 3 && d.parcels.contains (p.num, p.gen))
/-- R336, R337: the receiver's acknowledgement frees the sender's entry, once the admitted reads have performed. -/
def State.delivered (s : State) (num : Nat) : State :=
  let p := s.parcel num
  if p.st ≠ .inTransit ∨ s.parcelBusy p ∨ s.parcelLost p then s else (s.setParcel p.gone).setPost num 0
/-- R336, R337, R326: the parcel comes back, or is freed at once where its region has been freed. -/
def State.sendBack (s : State) (num status : Nat) : State :=
  let p := s.parcel num
  if p.st ≠ .inTransit ∨ s.parcelBusy p ∨ status = 0 ∨ 3 < status then s
  else (s.setParcel (if p.dropped then p.gone else { p with st := .returned })).setPost num status
/-- R337: delivery of a parcel fails, unless the drain of its link has lost it. -/
def State.undelivered (s : State) (num status : Nat) : State := if s.parcelLost (s.parcel num) then s else s.sendBack num status

/-! ### Windows (R345, R349) -/

/-- R349: the descriptor's own values: 0x8000_0001 where one is out of range. DEDUCED (assumption 57). -/
def windowOk (n : Nat) : Bool :=
  let q := bitsOf n 263 260
  let size := bitsOf n 127 64
  (q == 0 || decide (4 ≤ q)) && (q == 0 || bitsOf n 255 192 % 64 == 0) && size % 4096 == 0 && decide (4096 ≤ size ∧ size ≤ 64 * 2 ^ 30)
  && bitsOf n 63 0 % 4096 == 0

/-- How pinning pages ends. -/
inductive PinEnd where
  | ok (frames : List Nat)
  | held
  | park (id : Nat)
  | bad
  deriving DecidableEq, Repr
/-- R345: translate `k` pages from `va` in a region's space. DEDUCED (assumption 57). -/
def State.pinPages (s : State) (r : Region) (acc : Acc) (va : Dword) : Nat → List Nat → PinEnd × State
  | 0, l => (.ok l.reverse, s)
  | k + 1, l =>
    match s.translateIn s.me.core s.myCause r.asid r.ptel r.ptroot (!r.sys) va acc with
    | (.held, s) => (.held, s)
    | (.ok pa, s) => if s.physKind pa = .bad then (.bad, s) else s.pinPages r acc (va + 4096) k (pa :: l)
    | (.park, s) => let (id, s) := s.request s.me.die r.asid va (acc == .write); (.park id, s)
    | (.fault _, s) | (.mchk _, s) => (.bad, s)

/-- The thread parks on a request whose refusal the instruction answers with a value or a status, not with a trap. DEDUCED (assumption 57). -/
def State.parkAsking (s : State) (i : Checks) (d : Reg) (id : Nat) : State :=
  s.upd (fun t => { t with run := .parked id, resv := none, asks := some (d, i.syl) })
def State.freeWindow (s : State) : Nat := ((List.range 4096).find? (fun n => (s.window? n).isNone)).getD 0
/-- R349. DEDUCED (assumption 57). -/
def rmaRegOp (i : Checks) (o : LOps) : State → State :=
  issue i (fun s =>
    let a := s.effAddr .glb o
    if a.toNat % 64 ≠ 0 then s.trap 12 a 0
    else s.drained (fun s =>
      match s.readRuns a 1 [] with
      | .error s => s
      | .ok (bs, s) =>
        let n := bytesNat bs
        let err (e : Word) (s : State) : State := (s.wr o.d (0x80000000 + e)).advance i
        let num := s.regionArg (BitVec.ofNat 32 (bitsOf n 159 128))
        if !windowOk n then err 1 s
        else if 4096 ≤ s.windows.length then err 2 s
        else match if s.reachable num then s.region? num else none with
          | none => err 4 s
          | some r =>
            let base : Dword := BitVec.ofNat 64 (bitsOf n 63 0)
            let nq : Dword := BitVec.ofNat 64 (bitsOf n 255 192)
            let q := bitsOf n 263 260
            let acc : Acc := if bitOf n 257 || bitOf n 258 then .write else .read
            let first := nq.toNat / 4096
            let pages := if q = 0 then 0 else (nq.toNat + 8 * 2 ^ q - 1) / 4096 - first + 1
            match s.pinPages r acc base (bitsOf n 127 64 / 4096) [] with
            | (.bad, s) => err 3 s
            | (.held, s) => s.await .order
            | (.park id, s) => s.parkAsking i o.d id
            | (.ok frames, s) =>
              match s.pinPages r .write (BitVec.ofNat 64 (first * 4096)) pages [] with
              | (.bad, s) => err 3 s
              | (.held, s) => s.await .order
              | (.park id, s) => s.parkAsking i o.d id
              | (.ok qframes, s) =>
                let w : Window := { num := s.freeWindow, region := num, base := base.toNat, size := bitsOf n 127 64, key := BitVec.ofNat 32 (bitsOf n 191 160),
                                    rights := BitVec.ofNat 4 (bitsOf n 259 256), nq := nq.toNat, nqlog2 := q, asid := r.asid, frames := frames,
                                    qframes := qframes, broken := false, arrivals := [], head := 0, count := 0 }
                (({ s with windows := s.windows ++ [w] : State }).wr o.d (BitVec.ofNat 32 w.num)).advance i))

/-- R403: a window of the thread's virtual interface. DEDUCED (assumption 57). -/
def State.sees (s : State) (w : Window) : Bool :=
  ((s.region? w.region).map (·.vif)) == ((s.regionOf s.me).map (·.vif))
/-- R349: the window goes, with the parcels that have arrived at it. -/
def State.closeWindow (s : State) (w : Window) : State :=
  let s := w.arrivals.foldl (fun (s : State) n => s.setParcel (s.parcel n).gone) s
  { s with windows := s.windows.filter (·.num ≠ w.num) }
/-- DEDUCED (assumption 57). -/
def rmaDeregOp (i : Checks) (o : LOps) : State → State :=
  issue i (fun s =>
    match s.windowArg (s.me.rd o.a) with
    | some w => if s.sees w then ((s.closeWindow w).wr o.d 0).advance i else (s.wr o.d 1).advance i
    | none => (s.wr o.d 1).advance i)

/-! ### Issuing remote operations (R346, R348) -/

/-- R346, R348: the block is read, STATUS := 1, and the operation is on its way. `dst` counts the registers of D. The release of an operation
completes before the operation does (R350), and an acquiring operation keeps the thread's later accesses back until it has completed (R352). DEDUCED (assumption 56). -/
def remoteOp (i : Checks) (o : LOps) (dst : Nat) (ord : Ord) (op : State → RmaOp) : State → State :=
  issue i (fun s =>
    let a := s.effAddr .glb o
    if a.toNat % 32 ≠ 0 then s.trap 12 a 0
    else s.drained (fun s =>
      match s.locate .glb 0 a 32 true .write true with
      | .error s => s
      | .ok (spot, s) =>
        let pa := (spot.segs.headD (0, 0)).1
        if s.lineHeld (pa / 64) then s.await .order else
        let (bs, s) := s.l2ReadBytes s.me.core s.me.part pa 32 s.myCause
        let n := bytesNat bs
        let s := s.throughWrite s.me.core (pa + 16) ((natBytes 4 1).map some) s.myCause
        let kind := op s
        let tag := s.fresh
        let s := if dst = 0 then s else s.produce o.d dst none
        let r : Remote := { id := s.fresh, uid := s.me.uid, core := s.me.core, pc := s.me.pc, op := kind, ord := ord, status := pa + 16, chip := bitsOf n 127 112,
                            win := bitsOf n 111 100, key := BitVec.ofNat 32 (bitsOf n 223 192), off := bitsOf n 99 64, len := bitsOf n 191 160,
                            laddr := BitVec.ofNat 64 (bitsOf n 63 0), imm := BitVec.ofNat 32 (bitsOf n 255 224),
                            tag := if dst = 0 then none else some tag, st := .queued }
        let s : State := { s.bump with remotes := s.remotes ++ [r] }
        let s := if ord = .rel ∨ ord = .ar then s.push (s.newOp .fence .glb [] [] .fab .rel 0 (some r.id)) else s
        let s := if ord = .acq ∨ ord = .ar then s.push (s.newOp .fence .glb [] [] .fab .acq 0 (some r.id)) else s
        s.event.advance i))
def rmaWrOp (i : Checks) (o : LOps) : State → State := remoteOp i o 0 .rlx (fun _ => .wr)
def rmaWriOp (i : Checks) (o : LOps) : State → State := remoteOp i o 0 .rel (fun _ => .wri)
def rmaRdOp (i : Checks) (o : LOps) (m : SyncMod) : State → State := remoteOp i o m.ty.regs .rlx (fun _ => .rd m.ty.bytes)
def rmaRdBlkOp (i : Checks) (o : LOps) : State → State := remoteOp i o 0 .rlx (fun _ => .rdBlk)
def rmaAtomOp (i : Checks) (o : LOps) (m : SyncMod) : State → State :=
  remoteOp i o m.ty.regs m.ord (fun s => .atom m.sub.toNat m.ty (s.me.rdNat o.c m.ty.regs))

/-! ### Completing remote operations (R346, R347, R361) -/

/-- How the device finds a range of a thread's space for a remote operation or a round. -/
inductive RangeEnd where
  | ok (runs : List (Nat × Nat))
  | park (id : Nat)
  | fault
  | held
  deriving DecidableEq, Repr
/-- Translate a range page by page; a line that a release holds against the access is waited for (R230), and a word in error is none that can be read (R399). -/
def State.findRange (s : State) (core uid : Nat) (t : Thread) (acc : Acc) : Nat → Dword → Nat → List (Nat × Nat) → RangeEnd × State
  | 0, _, _, l => (.ok l.reverse, s)
  | k + 1, va, n, l =>
    if n = 0 then (.ok l.reverse, s)
    else
      let m := Nat.min n (4096 - va.toNat % 4096)
      match s.engTranslate core t va acc with
      | (.held, s) => (.held, s)
      | (.park, s) => let (id, s) := s.request (core / 64) t.asid va (acc == .write); (.park id, s)
      | (.fault _, s) | (.mchk _, s) => (.fault, s)
      | (.ok pa, s) =>
        if s.physKind pa = .bad || (acc == .read && (s.inError pa m || s.l1Struck core pa m)) then (.fault, s)
        else if (linesOf pa m).any (fun l => s.heldFor uid l acc) then (.held, s)
        else s.findRange core uid t acc k (va + BitVec.ofNat 64 m) (n - m) ((pa, m) :: l)
def State.rangeOf (s : State) (core uid : Nat) (acc : Acc) (va : Dword) (n : Nat) : RangeEnd × State :=
  match s.thread? uid with
  | none => (.fault, s)
  | some t => s.findRange core uid t acc (n / 4096 + 2) va n []
/-- Read the runs as the thread's core reads them at `.FAB` (R347). -/
def State.readRange (s : State) (core uid : Nat) (pc : Dword) (runs : List (Nat × Nat)) : List Byte × State :=
  runs.foldl (fun (x : List Byte × State) r => let (bs, s) := x.2.engRead core uid pc 7 r.1 r.2; (x.1 ++ bs, s)) ([], s)
/-- Write bytes to the runs, for the operation or round `id`. -/
def State.writeRange (s : State) (core uid id : Nat) (pc : Dword) (runs : List (Nat × Nat)) (bs : List Byte) : State :=
  (runs.foldl (fun (x : List Byte × State) r => (x.1.drop r.2, x.2.engWrite core uid id pc r.1 (x.1.take r.2))) (bs, s)).2

/-- R346: the final STATUS, a release RMW at `.DEV` of the device. -/
def State.finalStatus (s : State) (core uid : Nat) (pc : Dword) (pa status : Nat) : State :=
  s.deviceSend { space := none, core := core, va := BitVec.ofNat 64 pa, kind := .word (natBytes 4 status), parked := none, uid := some uid, pc := pc }
def RmaOp.width : RmaOp → Nat
  | .rd n => n
  | .atom _ ty _ => ty.bytes
  | _ => 0
/-- R351, R352: D, with all ones on failure. -/
def State.fillRemote (s : State) (r : Remote) (v : Nat) : State :=
  match r.tag with
  | some tag => s.mapThread r.uid (·.fill tag (natWords (Nat.max 1 (r.op.width / 4)) v))
  | none => s
/-- The operation ends: D is filled, and STATUS is written. -/
def State.endRemote (s : State) (r : Remote) (status v : Nat) : State :=
  ({ s.fillRemote r v with remotes := s.remotes.filter (·.id ≠ r.id) : State }).finalStatus r.core r.uid r.pc r.status status
def State.failRemote (s : State) (r : Remote) (status : Nat) : State := s.endRemote r status (2 ^ 128 - 1)

/-- R350, R352: an operation that must follow the thread's earlier ones. DEDUCED (assumption 56). -/
def Remote.ordered (r : Remote) : Bool := r.ord == .rel || r.ord == .ar
/-- R350, R352: the release of the operation has not completed. DEDUCED (assumption 56). -/
def State.releasing (s : State) (r : Remote) : Bool :=
  s.ops.any (fun o => o.releases && o.tag == some r.id) || s.holds.any (fun h => h.op.tag == some r.id)
/-- R346: LEN is one that the block may hold. DEDUCED (assumption 56). -/
def Remote.lenOk (r : Remote) : Bool :=
  match r.op with
  | .wr | .rdBlk => r.len != 0
  | .wri => r.len != 0 && decide (r.len ≤ 4096)
  | _ => true
/-- R346: the offset is aligned to the size of the access, where it has one. -/
def Remote.aligned (r : Remote) : Bool := decide (r.off % Nat.max 1 r.op.width = 0)
/-- R346: the final codes that a target may answer. DEDUCED (assumption 56). -/
def Remote.mayEnd (r : Remote) (status : Nat) : Bool :=
  decide (status = 0 ∨ 3 ≤ status ∧ status ≤ 5) || (status == 7 && r.op == .wri)

/-- R396, R401: the operation is on a link that drains. -/
def State.draining (s : State) (id : Nat) : Bool :=
  s.drains.any (·.remotes.contains id) || s.ports.any (fun p => p.training.any (·.remotes.contains id))
/-- R346, R347: the result of the `k`-th operation in progress comes back, with what the target read. Its local accesses are made here: they park and
fault as a copy command's do. DEDUCED (assumption 56). -/
def State.rmaDone (s : State) (k status : Nat) (data : List Byte) : State :=
  match s.remotes[k]? with
  | none => s
  | some r =>
    let before := s.remotes.take k
    if r.st ≠ .queued ∨ s.releasing r ∨ (r.ordered && before.any (·.uid = r.uid)) ∨ before.any (fun x => x.uid == r.uid && x.chip == r.chip && x.st.live) then s
    else if !s.routes.contains r.chip && !s.draining r.id then s.failRemote r 3
    else if status = 0 && !r.aligned then s.failRemote r 4
    else if !r.lenOk then s.bump.failRemote r (Config.freeWord s.fresh % 2 ^ 32)
    else if !r.mayEnd status then s
    else
      let ended (s : State) (v : Nat) : State := if status = 0 then s.endRemote r 0 v else s.failRemote r status
      let park (id : Nat) (s : State) : State := { s with remotes := s.remotes.map (fun x => if x.id = r.id then { x with st := .parked id } else x) }
      match r.op with
      | .wr | .wri =>
        (match s.rangeOf r.core r.uid .read r.laddr r.len with
        | (.ok runs, s) => ended (s.readRange r.core r.uid r.pc runs).2 0
        | (.park id, s) => park id s
        | (.fault, s) => s.failRemote r 6
        | (.held, s) => s)
      | .rdBlk =>
        if status ≠ 0 then s.failRemote r status
        else (match s.rangeOf r.core r.uid .write r.laddr r.len with
          | (.ok runs, s) => s.writeRange r.core r.uid r.id r.pc runs (data.take r.len ++ List.replicate (r.len - data.length) 0) |>.endRemote r 0 0
          | (.park id, s) => park id s
          | (.fault, s) => s.failRemote r 6
          | (.held, s) => s)
      | _ => ended s (bytesNat (data.take r.op.width))

/-! ### Remote operations that arrive (R347, R350 to R352) -/

/-- The physical runs of a range of a window. -/
def Window.runs (w : Window) : Nat → Nat → Nat → List (Nat × Nat)
  | 0, _, _ => []
  | k + 1, off, n =>
    if n = 0 then []
    else
      let m := Nat.min n (4096 - off % 4096)
      (w.frames.getD (off / 4096) 0 + off % 4096, m) :: w.runs k (off + m) (n - m)
def Window.range (w : Window) (off n : Nat) : List (Nat × Nat) := w.runs (n / 4096 + 2) off n
/-- The physical address of entry `e` of a window's queue. DEDUCED (assumption 43). -/
def Window.entryAt (w : Window) (e : Nat) : Nat :=
  let a := w.nq % 4096 + 8 * (e % 2 ^ w.nqlog2)
  w.qframes.getD (a / 4096) 0 + a % 4096
def remoteSize (x : RemoteOp) : Nat := match x.kind with | .atom _ ty => ty.bytes | _ => x.len
def remoteRight (x : RemoteOp) : Nat := match x.kind with | .rd _ => 0 | .atom _ _ => 2 | _ => 1
/-- R346, R350: the final code with which the target answers. DEDUCED (assumption 57). -/
def State.remoteCode (s : State) (x : RemoteOp) : Nat :=
  match s.window? x.win with
  | none => 3
  | some w =>
    if w.key ≠ x.key ∨ !w.rights.getLsbD (remoteRight x) then 3
    else if w.broken then 5
    else if w.size < x.off + (remoteSize x) then 4
    else match x.kind with
      | .atom _ _ => if x.off % (remoteSize x) ≠ 0 then 4 else 0
      | .rd n => if x.off % Nat.max 1 n ≠ 0 then 4 else 0
      | .wri => if w.nqlog2 = 0 ∨ 2 ^ w.nqlog2 ≤ w.count then 7 else 0
      | _ => 0
/-- A write at the home L2 of each run. -/
def State.homeWrite (s : State) (runs : List (Nat × Nat)) (bs : List Byte) (c : Cause) : State :=
  (runs.foldl (fun (x : List Byte × State) r => (x.1.drop r.2, x.2.l2Write (x.2.homeDie r.1) r.1 ((x.1.take r.2).map some) c)) (bs, s)).2
/-- R350: the notification entry: the immediate, the source chip, and bit 63. -/
def noteEntry (x : RemoteOp) : Nat := x.imm.toNat + 2 ^ 32 * x.src.toNat + 2 ^ 63
/-- R217, R352: a line goes to the atomic point of a remote operation: the near-memory unit, or the L2 of a die for memory of the host. -/
def State.remotePoint (s : State) (pa n : Nat) (c : Cause) : State :=
  (linesOf pa n).foldl (fun s l => match s.physKind pa with
    | .host => s.writeLine (s.homeDie pa) l c
    | _ => s.atomicLine l c) s
/-- R347: a remote operation performs at its target, unless a held release keeps its lines, or it would read a word in error (R399). DEDUCED (assumption 43). -/
def State.remoteArrives (s : State) (x : RemoteOp) : State :=
  if s.remoteCode x ≠ 0 then s
  else match s.window? x.win with
    | none => s
    | some w =>
      let runs := w.range x.off (remoteSize x)
      let c : Cause := { region := BitVec.ofNat 32 w.region }
      let bs := x.data.take (remoteSize x) ++ List.replicate ((remoteSize x) - x.data.length) 0
      let entry := match x.kind with | .wri => [(w.entryAt (w.head + w.count), 8)] | _ => []
      let reads : Bool := match x.kind with | .rd _ | .atom _ _ => true | _ => false
      if (runs ++ entry).any (fun r => (linesOf r.1 r.2).any s.lineHeld) then s
      else if reads && runs.any (fun r => s.inError r.1 r.2) then s
      else match x.kind with
        | .wr => s.homeWrite runs bs c
        | .rd _ => runs.foldl (fun s r => s.l2Read (s.homeDie r.1) r.1 r.2 c) s
        | .wri =>
          let s := s.homeWrite runs bs c
          let s := s.homeWrite [(w.entryAt (w.head + w.count), 8)] (natBytes 8 (noteEntry x)) c
          s.mapWindow w.num (fun w => { w with count := w.count + 1 })
        | .atom op ty =>
          let pa := (runs.headD (0, 0)).1
          let f : RmwFn := if ty.isFloat then .flt op ty (bytesNat bs) else .int op ty (bytesNat bs)
          let s := s.remotePoint pa ty.bytes c
          match f.apply (readNat s.mem pa ty.bytes) with
          | some v => s.atomicWrite pa (natBytes ty.bytes v) none
          | none => s

/-! ### NOTE (R353) -/

def noteWith (i : Checks) (o : LOps) (empty : State → State) : State → State :=
  issue i (fun s =>
    match s.windowArg (s.me.rd o.a) with
    | none => (s.wr2 o.d 0).advance i
    | some w =>
      if w.region ≠ s.regionNum s.me then (s.wr2 o.d 0).advance i
      else if w.count = 0 then empty s
      else
        let pa := w.entryAt w.head
        if s.lineHeld (pa / 64) then s.await .order
        else if s.inError pa 8 then s.trap 5 (BitVec.ofNat 64 (w.nq + 8 * (w.head % 2 ^ w.nqlog2))) 2
        else
        let s := (s.l2Read s.me.die pa 8 s.myCause).acquireL1 s.me.core s.me.part 7
        let v := readNat s.mem pa 8
        ((s.mapWindow w.num (fun w => { w with head := (w.head + 1) % 2 ^ w.nqlog2, count := w.count - 1 })).wr2 o.d (BitVec.ofNat 64 v)).advance i)
def noteWaitOp (i : Checks) (o : LOps) : State → State := noteWith i o (fun s => s.awaitZero .note i o)
def noteTryOp (i : Checks) (o : LOps) : State → State := noteWith i o (fun s => (s.wr2 o.d 0).advance i)

/-! ### COLL (R354 to R357) -/

/-- R355: bytes of an element, and the type of an integer or a floating-point element. -/
def collBytes (dt : Nat) : Nat := match dt with | 0 => 8 | 1 => 4 | 2 => 2 | 3 => 4 | _ => 8
/-- R356: the reduction of two elements. DEDUCED (assumption 58). -/
def collOp (dt red x y : Nat) : Nat :=
  match dt with
  | 0 => atomFloat1 red .f64 x y
  | 1 => atomFloat1 red .f32 x y
  | 2 => atomFloat1 red .bf16 x y
  | _ => atomInt (match red with | 0 => 1 | 1 => 6 | _ => 7) true (collBytes dt) x y
/-- Elements in SEND and in RECV of a member (R356). -/
def Coll.sendCount (c : Coll) : Nat := if c.op = 2 then c.count * c.nmem else c.count
def Coll.recvCount (c : Coll) : Nat := if c.op = 1 then c.count * c.nmem else c.count
def Coll.sendBytes (c : Coll) : Nat := c.sendCount * collBytes c.dt
def Coll.recvBytes (c : Coll) : Nat := c.recvCount * collBytes c.dt
def elemAt (dt : Nat) (bs : List Byte) (i : Nat) : Nat := bytesNat ((bs.drop (collBytes dt * i)).take (collBytes dt))
/-- R356: what one round writes, from the SEND buffers of all ranks. DEDUCED (assumption 58). -/
def Coll.result (c : Coll) (xs : List (List Byte)) : List Byte :=
  let fold (i : Nat) : Nat := match xs with
    | [] => 0
    | x :: rest => rest.foldl (fun a y => collOp c.dt c.red a (elemAt c.dt y i)) (elemAt c.dt x i)
  match c.op with
  | 0 => (List.range c.count).flatMap (fun i => natBytes (collBytes c.dt) (fold i))
  | 1 => (xs.flatMap (fun x => x.take c.sendBytes))
  | 2 => (List.range c.count).flatMap (fun i => natBytes (collBytes c.dt) (fold (c.rank * c.count + i)))
  | _ => (xs.getD c.root []).take c.recvBytes

/-- R355, R357: the block and the team have no invalid value. `entry` is the member entry of RANK. DEDUCED (assumption 58). -/
def State.collBad (s : State) (c : Coll) (team entry : Nat) : Bool :=
  let n := bitsOf team 287 272
  let w := s.window? (bitsOf entry 47 36)
  !(decide (c.op ≤ 3 ∧ c.dt ≤ 4 ∧ 1 ≤ c.count ∧ 1 ≤ n ∧ n ≤ 4096 ∧ c.rank < n) && (decide (c.red ≤ 2) || decide (c.op = 1 ∨ c.op = 3))
    && (c.op != 3 || decide (c.root < n)) && bitsOf entry 63 48 == s.chip.toNat && bitsOf team 383 320 % 8 == 0
    && (match w with
        | some w => s.sees w && w.key.toNat == bitsOf team 255 224 && decide (c.sendBytes ≤ w.size)
        | none => false)
    && (c.send == c.recv || !overlapping c.send.toNat c.sendBytes c.recv.toNat c.recvBytes))

/-- The team record, and the entries of its members: `bad` where a page of them faults, which is status 4 (R357). -/
inductive TeamEnd where
  | got (team : Nat) (entries : List Nat) (s : State)
  | park (id : Nat) (s : State)
  | held (s : State)
  | bad (s : State)
/-- DEDUCED (assumption 58). -/
def State.readTeam (s : State) (team : Dword) : TeamEnd :=
  if team.toNat % 64 ≠ 0 then .bad s
  else match s.rangeOf s.me.core s.me.uid .read team 64 with
    | (.park id, s) => .park id s
    | (.fault, s) => .bad s
    | (.held, s) => .held s
    | (.ok runs, s) =>
      let (bs, s) := s.readRange s.me.core s.me.uid s.me.pc runs
      let t := bytesNat bs
      let n := Nat.min (bitsOf t 287 272) 4096
      match s.rangeOf s.me.core s.me.uid .read (BitVec.ofNat 64 (bitsOf t 383 320)) (8 * n) with
      | (.park id, s) => .park id s
      | (.fault, s) => .bad s
      | (.held, s) => .held s
      | (.ok runs, s) =>
        let (bs, s) := s.readRange s.me.core s.me.uid s.me.pc runs
        .got t ((List.range n).map (elemAt 4 bs)) s

def State.newColl (s : State) (pa n : Nat) : Coll :=
  { id := s.fresh, uid := s.me.uid, core := s.me.core, pc := s.me.pc, status := pa, send := BitVec.ofNat 64 (bitsOf n 447 384),
    recv := BitVec.ofNat 64 (bitsOf n 511 448), count := bitsOf n 319 288, seq := bitsOf n 287 256, root := bitsOf n 255 240, rank := bitsOf n 239 224,
    dt := bitsOf n 211 208, red := bitsOf n 207 204, op := bitsOf n 203 200, nmem := 0, limit := none, since := s.time, frozen := 0, trig := s.me.trig.map (Trigger.taken s),
    bad := true, parked := none }
/-- The thread executes `COLL` again after the host has refused a page of it (R357). -/
def Thread.denied (t : Thread) : Bool := t.asks == some (0, 0)
/-- R357: the block is read, STATUS := 1. A block that cannot be reached is no trap and has no status to write. DEDUCED (assumption 58). -/
def collOpIssue (i : Checks) (o : LOps) : State → State :=
  issue i (fun s =>
    let a := s.effAddr .glb o
    if a.toNat % 64 ≠ 0 then s.trap 12 a 0
    else s.drained (fun s =>
      match s.rangeOf s.me.core s.me.uid .write a 64 with
      | (.park id, s) => if s.me.denied then (s.upd (fun t => { t with asks := none })).advance i else s.parkAsking i 0 id
      | (.fault, s) => (s.upd (fun t => { t with asks := none })).advance i
      | (.held, s) => s.await .order
      | (.ok runs, s) =>
        let pa := (runs.headD (0, 0)).1
        let (bs, s) := s.readRange s.me.core s.me.uid s.me.pc runs
        let n := bytesNat bs
        let c := s.newColl pa n
        let start (c : Coll) (s : State) : State :=
          let s := s.throughWrite s.me.core pa ((natBytes 4 1).map some) s.myCause
          ({ (s.upd (fun t => { t with trig := none, asks := none })).bump with colls := s.colls ++ [c] }).advance i
        match s.readTeam (BitVec.ofNat 64 (bitsOf n 383 320)) with
        | .park id s => if s.me.denied then start c s else s.parkAsking i 0 id
        | .bad s => start c s
        | .held s => s.await .order
        | .got t es s =>
          let c : Coll := { c with nmem := bitsOf t 287 272, chips := es.map (fun e => bitsOf e 63 48) }
          start { c with bad := s.collBad c t (es.getD c.rank 0), limit := if bitsOf t 319 288 = 0 then s.wdogLimit s.me else some (bitsOf t 319 288 * 1024) } s))
/-- R357: the destination fills once STATUS has left 1. DEDUCED (assumption 40). -/
def collWaitOp (i : Checks) (o : LOps) : State → State :=
  issue i (fun s =>
    let a := s.effAddr .glb o
    if a.toNat % 64 ≠ 0 then s.trap 12 a 0
    else match s.locate .glb 0 a 4 true .read false with
      | .error s => s
      | .ok (spot, s) =>
        let l : Late := { uid := s.me.uid, pc := s.me.pc, tag := s.fresh, core := s.me.core, g := s.me.gkey, after := 0, kind := .collWait (spot.segs.headD (0, 0)).1 }
        ({ s.produce o.d 1 none with lates := s.lates ++ [l] : State }).advance i)

def State.endColl (s : State) (c : Coll) (status : Nat) : State :=
  let s : State := { s with colls := s.colls.filter (·.id ≠ c.id) }
  let s := s.finalStatus c.core c.uid c.pc c.status status
  if status = 0 then s.acquireL1 c.core (((s.thread? c.uid).map (·.part)).getD 0) 7 else s
def State.parkColl (s : State) (c : Coll) (id : Nat) : State :=
  { s with colls := s.colls.map (fun x => if x.id = c.id then { x with parked := some id } else x) }
/-- R360: a round whose tick has come starts, and its trigger word is written. -/
def State.startColl (s : State) (c : Coll) : State :=
  if c.trig.isSome && trigReady s c.trig then
    { s.writeTrigger c.core c.trig (s.engCause c.uid c.pc) with colls := s.colls.map (fun x => if x.id = c.id then { x with trig := none } else x) }
  else s
/-- R356, R357: the `k`-th round of this module ends: with the fold where every member has joined and they agree, else with a status. `sends` are the
SEND buffers of the ranks; that of this member is read here, before RECV is written. DEDUCED (assumption 58). -/
def State.collDone (s : State) (k status : Nat) (sends : List (List Byte)) : State :=
  match s.colls[k]? with
  | none => s
  | some c0 =>
    if c0.parked.isSome ∨ !trigReady s c0.trig then s
    else
      let s := s.startColl c0
      let c : Coll := { c0 with trig := none }
      if c.bad then s.endColl c 4
      else if 3 ≤ status ∧ status ≤ 5 then s.endColl c status
      else if status ≠ 0 then s
      else match s.rangeOf c.core c.uid .read c.send c.sendBytes with
        | (.park id, s) => s.parkColl c id
        | (.fault, s) => s.endColl c 4
        | (.held, s) => s
        | (.ok src, s) =>
          match s.rangeOf c.core c.uid .write c.recv c.recvBytes with
          | (.park id, s) => s.parkColl c id
          | (.fault, s) => s.endColl c 4
          | (.held, s) => s
          | (.ok dst, s) =>
            let (bs, s) := s.readRange c.core c.uid c.pc src
            let xs := (List.range c.nmem).map (fun r => if r = c.rank then bs else sends.getD r [])
            (s.writeRange c.core c.uid c.id c.pc dst (c.result xs)).endColl c 0
/-- R357: the time of the `k`-th round passes before every member has joined. -/
def State.collTimeout (s : State) (k : Nat) : State :=
  match s.colls[k]? with
  | none => s
  | some c =>
    if c.bad then (s.startColl c).endColl c 4
    else match c.limit with
    | none => s
    | some n =>
      if s.anyHalted ((s.thread? c.uid).getD s.me) then s
      else
        let s := s.reach (c.since + c.frozen + n)
        (s.startColl c).endColl c 2

/-! ### Time (R358 to R360) -/

def timeRdOp (i : Checks) (o : LOps) : State → State :=
  issue i (fun s =>
    let (v, s) := s.readClock
    (s.produce o.d 2 (some (natWords 2 v.toNat))).advance i)
/-- R360. -/
def trigAtOp (i : Checks) (o : LOps) : State → State :=
  issue i (fun s =>
    match s.locate .glb 0 (s.effAddr .glb o) 8 true .write false with
    | .error s => s
    | .ok (spot, s) =>
      (s.upd (fun t => { t with trig := some { pa := (spot.segs.headD (0, 0)).1, tick := (s.me.rd2 o.c).toNat, va := s.effAddr .glb o } })).advance i)
/-- R359: the wait keeps its tick. -/
def waitUntilOp (i : Checks) (o : LOps) : State → State :=
  issue i (fun s =>
    let t := s.me.rd2 o.a
    if t.toNat ≤ s.time then s.advance i else s.awaitWith { kind := .time, obj := t })
/-- R10: the Eave link between two neighbouring dies is in service. DEDUCED (assumption 61). -/
def State.eave (s : State) (a b : Nat) : Bool :=
  let up (d : Nat) : Bool := ((s.die? d).map (·.enabled)).getD false
  up a && up b && !s.eaves.contains (a, b) && !s.eaves.contains (b, a)
/-- R10: the length of the route in use between two dies, where one of those that R10 gives is in service. DEDUCED (assumption 61). -/
def State.distance (s : State) (a b : Nat) : Option Nat :=
  if a = b then some 0
  else if a ^^^ b ≠ 3 then (if s.eave a b then some 1 else none)
  else if (s.eave a (a ^^^ 1) && s.eave (a ^^^ 1) b) || (s.eave a (a ^^^ 2) && s.eave (a ^^^ 2) b) then some 2 else none
/-- R10: what `HOPS` reports: 0, 1 or 2; which, is a free value where no such route is left. DEDUCED (assumption 61). -/
def State.hops (s : State) (a b : Nat) : Nat := (s.distance a b).getD (Config.freeWord s.fresh % 3)
/-- DEDUCED (assumption 61). -/
def hopsOp (i : Checks) (o : LOps) : State → State :=
  issue i (fun s =>
    let vdt := ((s.regionOf s.me).map (·.vdt)).getD []
    match vdt[(s.me.rd o.a).toNat]?, vdt[(s.me.rd o.c).toNat]? with
    | some a, some b => (s.bump.wr o.d (BitVec.ofNat 32 (s.hops a b))).advance i
    | _, _ => (s.wr o.d 0xFFFFFFFF).advance i)

/-! ### Links (R330, R361, R395 to R397) -/

/-- The Eave links of the module, after the 24 peer ports (R10). DESIGN CHOICE (assumption 38). -/
def eaveLinks : List (Nat × Nat) := [(0, 1), (2, 3), (0, 2), (1, 3)]
def State.port? (s : State) (port : Nat) : Option Port := s.ports.find? (·.port = port)
def State.mapPort (s : State) (port : Nat) (f : Port → Port) : State :=
  { s with ports := s.ports.map (fun p => if p.port = port then f p else p) }
/-- A packet of an operation or parcel that is outstanding, as it stands when a link dies: the link held it, which the manual leaves open, or no route
reaches its chip any more. DESIGN CHOICE (assumption 59). -/
def State.stranded (s : State) (chip : Nat) (id : Nat) : Bool := !s.routes.contains chip || decide (Config.freeWord (s.fresh + id) % 2 = 1)
/-- R361: a round that uses the link, or one of whose members no route reaches. DESIGN CHOICE (assumption 59). -/
def State.roundStranded (s : State) (c : Coll) : Bool :=
  c.chips.any (fun k => k != s.chip.toNat && !s.routes.contains k) || decide (Config.freeWord (s.fresh + c.id) % 2 = 1)
/-- R396: the traffic that stands on a link. DESIGN CHOICE (assumption 59). -/
def State.linkTraffic (s : State) : Traffic :=
  { remotes := (s.remotes.filter (fun r => s.stranded r.chip r.id)).map (·.id),
    colls := (s.colls.filter s.roundStranded).map (·.id),
    parcels := (s.parcels.filter (fun p => p.st = .inTransit ∧ s.stranded p.dchip (s.fresh + p.num))).map (fun p => (p.num, p.gen)) }
/-- The counter of free values moves past those that `linkTraffic` has used. -/
def State.pastTraffic (s : State) : State := { s with fresh := s.fresh + 2 ^ 24 + s.fresh }
/-- R396: a link has died: what is outstanding on it begins to drain. DESIGN CHOICE (assumption 59). -/
def State.startDrain (s : State) (chip : BitVec 16) (port : Nat) : State :=
  { s.pastTraffic with drains := s.drains ++ [{ toTraffic := s.linkTraffic, chip := chip, port := port, since := s.time, round := 0 }] }
/-- R395: an update is applied if its number is newer; the routes are rebuilt, by rules that the manual does not give, and a dead link's traffic drains. DESIGN CHOICE (assumption 59). -/
def State.applyLink (s : State) (u : LinkUpdate) : State :=
  let old := s.links.find? (fun l => l.chip = u.chip ∧ l.port = u.port)
  if (old.map (fun l => decide (l.seq.toNat < u.seq.toNat))).getD true then
    let l : LinkSt := { chip := u.chip, port := u.port, live := u.live, seq := u.seq }
    let s := { s.bump with links := l :: s.links.filter (fun l => ¬(l.chip = u.chip ∧ l.port = u.port)), routes := Config.routesAfter s.fresh }
    if u.live then s else s.startDrain u.chip u.port
  else s
/-- R395, R397: a link changes its state; the die that owns it floods the update, which the module applies too, and an event is due. DESIGN CHOICE (assumption 38). -/
def State.setLink (s : State) (port : Nat) (live : Bool) : State :=
  match s.port? port with
  | none => s
  | some p =>
    let seq := (p.seq + 1) % 2 ^ 32
    let s := s.mapPort port (fun p => { p with live := live, seq := seq, fails := 0, heard := s.time, training := none })
    let s := match eaveLinks[port - 24]? with
      | some e => if 24 ≤ port then { s with eaves := if live then s.eaves.filter (· ≠ e) else e :: s.eaves.filter (· ≠ e) } else s
      | none => s
    { s.applyLink { chip := s.chip, port := port, live := live, seq := BitVec.ofNat 32 seq } with
      notices := s.notices ++ [{ port := port, live := live, seq := seq, since := s.time }] }
def State.declareDead (s : State) (port : Nat) : State :=
  if ((s.port? port).map (·.live)).getD false then s.setLink port false else s
/-- R330, R395: a flit arrives; its eighth failed replay in a row declares the link dead. DEDUCED (assumption 60). -/
def State.flit (s : State) (port : Nat) (ok : Bool) : State :=
  match s.port? port with
  | none => s
  | some p =>
    if !p.live || p.training.isSome then s
    else if ok then s.mapPort port (fun p => { p with fails := 0, heard := s.time })
    else if 8 ≤ p.fails then s.declareDead port
    else s.mapPort port (fun p => { p with fails := p.fails + 1, heard := s.time })
/-- R395: nothing has arrived for 100 µs: so long after the last flit at least. -/
def State.linkIdle (s : State) (port : Nat) : State :=
  match s.port? port with
  | none => s
  | some p => if p.live && p.training.isNone then (s.reach (p.heard + 100000)).declareDead port else s
/-- R396: the tick at which a drain's next round ends: 1, 3 and 7 ms after the declaration. -/
def Drain.due (d : Drain) : Nat := d.since + (2 ^ (Nat.min d.round 2 + 1) - 1) * 1000000
/-- The parcel is as it stood when the drain began. -/
def State.outgoing (s : State) (x : Nat × Nat) : Bool := (s.parcel x.1).gen == x.2 && (s.parcel x.1).st == .inTransit
/-- R361: what a drain still holds after its last round is lost; a round whose tick has come has started (R360). DESIGN CHOICE (assumption 59). -/
def State.settleLost (s : State) (d : Drain) : State :=
  let s := (s.remotes.filter (fun r => d.remotes.contains r.id)).foldl (fun (s : State) r => s.failRemote r 2) s
  let s := (d.parcels.filter s.outgoing).foldl (fun (s : State) x => s.sendBack x.1 3) s
  (s.colls.filter (fun c => d.colls.contains c.id)).foldl (fun (s : State) c => (s.startColl c).endColl c 5) s
/-- R396: the current round of the `k`-th drain ends, and after round 2 what is still outstanding is lost; a packet under two drains is settled once. A parcel that
admitted accesses still use is lost, and comes back once they have performed (R336). DESIGN CHOICE (assumption 59). -/
def State.drainEnd (s : State) (k : Nat) : State :=
  match s.drains[k]? with
  | none => s
  | some d =>
    let s := s.reach d.due
    if d.round < 2 then { s with drains := s.drains.set k { d with round := d.round + 1 } }
    else
      let left := d.parcels.filter (fun x => s.outgoing x && s.parcelBusy (s.parcel x.1))
      let lost : Drain := { d with round := 3, remotes := [], colls := [], parcels := left }
      ({ s with drains := if left.isEmpty then s.drains.eraseIdx k else s.drains.set k lost } : State).settleLost d
/-- R397, R404: the `k`-th event that is due is posted. DESIGN CHOICE (assumption 38). -/
def State.linkEvent (s : State) (k : Nat) : State :=
  match s.notices[k]? with
  | none => s
  | some n =>
    ({ s with notices := s.notices.eraseIdx k } : State).postAll
      (s.eventEntry 3 false 0 0 (s.chip.toNat + 2 ^ 16 * n.port + 2 ^ 24 * (if n.live then 1 else 0) + 2 ^ 32 * n.seq))
/-- R401: the retrain of a link in service begins: new traffic goes elsewhere, and what the link carries drains without loss. DESIGN CHOICE (assumption 59). -/
def State.retrain (s : State) (port : Nat) : State :=
  match s.port? port with
  | none => s
  | some p =>
    if !p.live || p.training.isSome then s
    else
      let s : State := { s.bump with routes := Config.routesAfter s.fresh, eaves := (eaveLinks[port - 24]?.filter (fun _ => decide (24 ≤ port))).toList ++ s.eaves }
      s.pastTraffic.mapPort port (fun p => { p with training := some s.linkTraffic })
/-- R401: nothing that the link carried when its retrain began is outstanding. -/
def State.cleared (s : State) (t : Traffic) : Bool :=
  !s.remotes.any (fun r => t.remotes.contains r.id) && !s.colls.any (fun c => t.colls.contains c.id) && !t.parcels.any s.outgoing
/-- R397, R401: a retrain ends; one that fails declares the link dead. A link in service has drained before it trains. -/
def State.retrained (s : State) (port : Nat) (ok : Bool) : State :=
  if ((s.port? port).bind (·.training)).any (fun t => !s.cleared t) then s
  else if ok then s.setLink port true else s.declareDead port

/-! ### REGION.FREE (R326) -/

/-- R326: what a region owns is settled before it goes, and the device writes to its space no more. -/
def State.settleOwned (s : State) (r : Nat) : State :=
  let s := (s.windows.filter (·.region = r)).foldl State.closeWindow s
  { s with devWrites := s.devWrites.filter (fun w => w.space ≠ some r), parcels := s.parcels.map (fun p =>
      if p.region ≠ r then p
      else match p.st with
        | .opened | .sealed | .returned => p.gone
        | .inTransit => { p with dropped := true }
        | _ => p) }
/-- R326: gangs of the region that have not ended, or completions of its cards that have not performed, are waited for. DESIGN CHOICE (assumption 93). -/
def State.ending (s : State) (r : Nat) : Bool := s.gangs.any (·.region == r) || s.devWrites.any (fun w => w.space == some r && w.adds)
/-- R326: the checks in this order: own region, state, child regions. DESIGN CHOICE (assumption 93). -/
def regionFreeOp (i : Checks) (o : LOps) : State → State :=
  issue i (fun s =>
    let r := s.regionArg (s.bArg o)
    let done (w : Word) (s : State) : State := (s.wr o.d w).advance i
    match if s.reachable r then s.region? r else none with
    | none => done 1 s
    | some x =>
      if r = s.regionNum s.me then done 8 s
      else if x.state ≠ .halted ∧ x.state ≠ .dead then done 2 s
      else if s.regions.any (fun y => y.parent = r) then done 8 s
      else if s.ending r then s.await .system
      else
        let s := s.settleOwned r
        done 0 { s with regions := s.regions.filter (·.num ≠ r) })

/-! ### The meanings that `exec` calls -/

def execRegionFree (o : LOps) (m : CtlMod) (s : State) : Out := .next (regionFreeOp (Instr.regionFree o m).checks o s)
def execPclNew (o : LOps) (m : SyncMod) (s : State) : Out := .next (pclNewOp (Instr.pclNew o m).checks o s)
def execPclFree (o : LOps) (m : SyncMod) (s : State) : Out := .next (pclFreeOp (Instr.pclFree o m).checks o s)
def execSeal (o : LOps) (m : SyncMod) (s : State) : Out := .next (sealOp (Instr.seal o m).checks o s)
def execPost (o : LOps) (m : SyncMod) (s : State) : Out := .next (postOp (Instr.post o m).checks o s)
def execPostNb (o : LOps) (m : SyncMod) (s : State) : Out := .next (postNbOp (Instr.postNb o m).checks o s)
def execAccept (o : LOps) (m : SyncMod) (s : State) : Out := .next (acceptOp (Instr.accept o m).checks o s)
def execAcceptTry (o : LOps) (m : SyncMod) (s : State) : Out := .next (acceptTryOp (Instr.acceptTry o m).checks o s)
def execAcceptBack (o : LOps) (m : SyncMod) (s : State) : Out := .next (acceptBackOp (Instr.acceptBack o m).checks o s)
def execPclStat (o : LOps) (m : SyncMod) (s : State) : Out := .next (pclStatOp (Instr.pclStat o m).checks o m s)
def execRmaReg (o : LOps) (m : SyncMod) (s : State) : Out := .next (rmaRegOp (Instr.rmaReg o m).checks o s)
def execRmaDereg (o : LOps) (m : SyncMod) (s : State) : Out := .next (rmaDeregOp (Instr.rmaDereg o m).checks o s)
def execRmaWr (o : LOps) (m : SyncMod) (s : State) : Out := .next (rmaWrOp (Instr.rmaWr o m).checks o s)
def execRmaWri (o : LOps) (m : SyncMod) (s : State) : Out := .next (rmaWriOp (Instr.rmaWri o m).checks o s)
def execRmaRd (o : LOps) (m : SyncMod) (s : State) : Out := .next (rmaRdOp (Instr.rmaRd o m).checks o m s)
def execRmaRdBlk (o : LOps) (m : SyncMod) (s : State) : Out := .next (rmaRdBlkOp (Instr.rmaRdBlk o m).checks o s)
def execRmaAtom (o : LOps) (m : SyncMod) (s : State) : Out := .next (rmaAtomOp (Instr.rmaAtom o m).checks o m s)
def execNoteWait (o : LOps) (m : SyncMod) (s : State) : Out := .next (noteWaitOp (Instr.noteWait o m).checks o s)
def execNoteTry (o : LOps) (m : SyncMod) (s : State) : Out := .next (noteTryOp (Instr.noteTry o m).checks o s)
def execStPref (o : LOps) (m : MemMod) (s : State) : Out := .next (stPrefOp (Instr.stPref o m).checks o m s)
def execLdPref (o : LOps) (m : MemMod) (s : State) : Out := .next (ldPrefOp (Instr.ldPref o m).checks o m s)
def execColl (o : LOps) (m : SyncMod) (s : State) : Out := .next (collOpIssue (Instr.coll o m).checks o s)
def execCollWait (o : LOps) (m : SyncMod) (s : State) : Out := .next (collWaitOp (Instr.collWait o m).checks o s)
def execTimeRd (o : LOps) (m : SyncMod) (s : State) : Out := .next (timeRdOp (Instr.timeRd o m).checks o s)
def execTrigAt (o : LOps) (m : SyncMod) (s : State) : Out := .next (trigAtOp (Instr.trigAt o m).checks o s)
def execWaitUntil (o : LOps) (m : SyncMod) (s : State) : Out := .next (waitUntilOp (Instr.waitUntil o m).checks o s)
def execHops (o : LOps) (m : SyncMod) (s : State) : Out := .next (hopsOp (Instr.hops o m).checks o s)

end Sys2Proof.Machine
end

