-- ==== Sys2Proof/Machine/System.lean ====
section
/-! DEFINITION. Returning from traps (R378), the watchdog record (R366), pre-emption and saved gangs (R367 to R371, R277, R298), translation invalidation
(R372), the debugger (R373, R374), virtual-die tables (R375), and the instructions of R376. -/
namespace Sys2Proof.Machine

/-! ### TRAP (R377), TRAP.RET (R378) -/

/-- The start of the next instruction. -/
def State.nextPc (s : State) (i : Checks) : Dword := nextStart s.me.pc i.syl
def trapOp (i : Checks) (o : LOps) : State → State :=
  issue i (fun s => s.takeTrap { cause := 29, pc := s.nextPc i, d0 := (s.bArg o).setWidth 64 })

/-- R378: the predicates of the frame, with p0 true. DEDUCED (assumption 62). -/
def framePreds (q : Byte) : BitVec 8 := q ||| 1
/-- R378, R227: the thread leaves handler state at `a`; a `BAR.SYNC` there keeps its token, any other's is gone. DEDUCED (assumption 23). DEDUCED (assumption 62). -/
def Thread.leave (a : Dword) (q : Byte) (t : Thread) : Thread :=
  { t with preds := framePreds q, handler := none, pc := a, run := .ready, syncs := t.syncs.filter (·.1 = a) }
/-- The frame gives the PC, the predicates, and the cause whose return ends the thread. DEDUCED (assumption 62). -/
def trapRetOp (i : Checks) : State → State :=
  issue i (fun s =>
    match s.me.handler with
    | none => s.trap 1 0 1
    | some _ =>
      match s.locate .glb 0 s.me.trapf 64 false .read true with
      | .error s => s
      | .ok (spot, s) =>
        let pa := (spot.segs.headD (0, 0)).1
        if s.heldBack (s.newOp (.load false) .glb spot.segs [] .th .rlx 0 none) then s.await .order
        else
          let (bs, s) := s.ownRead [(pa, 8), (pa + 0x2A, 1), (pa + 0x20, 1)]
          if bs.getD 9 0 = 23 then s.endThread
          else
            let a : Dword := BitVec.ofNat 64 (bytesNat (bs.take 8))
            s.transferTo a false (fun s => (s.report false s.me s.me.handling).upd (Thread.leave a (bs.getD 8 0))))

/-! ### DBG.BRK (R377), and halting (R373) -/

def State.setDebug (s : State) (region die : Nat) (f : Debug → Debug) : State :=
  s.mapRegion region (fun r => { r with dbg := f (r.debugOn die) :: r.dbg.filter (·.die ≠ die) })
/-- R374: the LOC word of a thread. -/
def Thread.loc (t : Thread) : Nat := t.lane + 64 * t.part + 256 * (t.core % 64) + 2 ^ 14 * t.die
/-- The started threads of a region on a die that have not exited. -/
def State.onDie (s : State) (region die : Nat) (t : Thread) : Bool := t.die == die && s.regionNum t == region && t.run != .exited
def State.haltRegion (s : State) (region die : Nat) (brk : Option Nat) : State :=
  let s := s.setDebug region die (fun d => { d with halted := true, brk := brk })
  s.mapThreads (fun t => if s.onDie region die t then { t with halted := true } else t)
def State.resumeRegion (s : State) (region die : Nat) : State :=
  let s := s.setDebug region die (fun d => { d with halted := false, brk := none })
  s.mapThreads (fun t => if s.onDie region die t then { t with halted := false, stepping := false } else t)
def State.countOn (s : State) (region die : Nat) (p : Thread → Bool) : Nat := (s.threads.filter (fun t => s.onDie region die t && p t)).length

def dbgBrkOp (i : Checks) : State → State :=
  issue i (fun s =>
    let armed := ((s.regionOf s.me).map (fun r => (r.debugOn s.me.die).armed)).getD false
    if armed then (s.advance i).haltRegion (s.regionNum s.me) s.me.die (some s.me.loc)
    else s.takeTrap { cause := 30, pc := s.nextPc i })

/-! ### The watchdog record (R366) -/

/-- R366: what a waiting thread waits on; 0 where the wait is none of the record's. DEDUCED (assumption 67). -/
def Wait.wkind (w : Wait) : Nat :=
  match w.kind with
  | .conv => 1
  | .barGrp => 2
  | .coll => 3
  | .matrix => if w.obj = 7 ∨ w.obj = 8 then w.obj.toNat else 4
  | .chain => 5
  | .barObj => 6
  | .tile => 7
  | .claim => 8
  | _ => 0
/-- R366: STATE of a member's entry. -/
def Thread.stateCode (t : Thread) : Nat :=
  match t.run with
  | .exited => 7
  | .parked _ => if t.halted then 5 else 1
  | .waiting w =>
    if t.halted then 5 else if t.handler.isSome then 6
    else (match w.kind with
      | .conv | .barGrp | .coll | .chain | .matrix => 2
      | .nap | .yielded => 4
      | _ => 3)
  | .ready => if t.halted then 5 else if t.handler.isSome then 6 else 0
/-- R366: one absent member. -/
def Thread.absentEntry (t : Thread) : List Byte :=
  natBytes 16 (t.pc.toNat + 2 ^ 64 * t.member + 2 ^ 72 * t.stateCode + 2 ^ 80 * t.ord.toNat)
def maskOf (l : List Nat) : Nat := ((l.dedup).map (fun i => 2 ^ i)).sum

/-- The members that wait with a thread at its instance or object, and those that it names and that have not arrived; `CONV` and `BAR.GRP` count
an exited member as arrived (R76). DEDUCED (assumption 67). -/
def State.together (s : State) (t : Thread) (w : Wait) : List Thread × List Thread :=
  let group := s.membersOf t.gkey
  let same (u : Thread) : Bool := u.uid == t.uid || (u.ord == t.ord && u.pc == t.pc &&
    (match u.run with | .waiting x => x.kind == w.kind && x.mask == w.mask && (x.obj == w.obj || w.kind == .chain) && x.scr == w.scr | _ => false))
  let atObj (u : Thread) : Bool := u.uid == t.uid || (match u.run with | .waiting x => x.kind == .barObj && x.obj == w.obj && x.scr == w.scr | _ => false)
  let named (u : Thread) : Bool := w.kind == .barObj || w.mask == 0 || w.mask.getLsbD u.member
  let here := group.filter (fun u => if w.kind = .barObj then atObj u else same u)
  let came (u : Thread) : Bool := (w.kind == .conv || w.kind == .barGrp) && u.run == .exited
  (here, group.filter (fun u => named u && !came u && !here.any (·.uid = u.uid)))
/-- R366: the waiters on an object are threads of one group. -/
def State.oneGroup (s : State) (t : Thread) (w : Wait) : Bool :=
  s.threads.all (fun u => u.gkey == t.gkey || (match u.run with | .waiting x => !(x.kind == .barObj && x.obj == w.obj && x.scr == w.scr && (!w.scr || (u.gang == t.gang && u.core == t.core))) | _ => true))
/-- R366: the record of the issuing thread's wait, and the state after the object has been read for it. DEDUCED (assumption 67). -/
def State.watchRecord (s : State) (w : Wait) (wk : Nat) : List Byte × State :=
  let (obj, s) : Nat × State :=
    if wk = 6 then
      if w.scr then (bytesNat (s.scrRead s.me.gang s.me.core w.obj.toNat 16), s)
      else match s.translate w.obj .read with
      | (.ok pa, s) => (readNat s.mem pa 16, s)
      | (_, s) => (0, s)
    else (0, s)
  let (here, away) := if wk ≤ 5 ∨ (wk = 6 ∧ s.oneGroup s.me w) then s.together s.me w else ([], [])
  (natBytes 64 (2 ^ 232 * wk + 2 ^ 240 * away.length + 2 ^ 256 * maskOf (away.map (·.member)) + 2 ^ 320 * maskOf (here.map (·.member))
      + (if wk = 6 then 2 ^ 384 * objExpect obj + 2 ^ 400 * objPend obj + 2 ^ 416 * objPhase obj + 2 ^ 448 * w.obj.toNat else 0))
    ++ away.flatMap Thread.absentEntry, s)
/-- R366: the watchdog trap of the issuing thread. -/
def State.watchdogTrap (s : State) (w : Wait) (wk : Nat) : State :=
  let (r, s) := s.watchRecord w wk
  s.takeTrap { cause := 10, pc := s.me.pc, faddr := if wk = 6 then w.obj else 0, d0 := BitVec.ofNat 64 wk, record := r }

/-! ### Pre-emption (R367 to R370) -/

/-- The descendants of a region, and it. -/
def State.below (s : State) (num : Nat) (r : Nat) : Bool := s.reaches num r
/-- R367: a pre-emption is requested of the resident gangs of a region and its descendants; a second request has no effect (R388). -/
def State.preempt (s : State) (num : Nat) (full : Bool) : State :=
  { s with gangs := s.gangs.map (fun g => if s.below num g.region then
      (match g.res with
      | .running => { g with res := .preempting s.time full }
      | _ => g) else g) }
def State.setHold (s : State) (num : Nat) (h : Bool) : State :=
  { s with regions := s.regions.map (fun r => if s.below num r.num then { r with hold := h } else r) }

/-- R370: a producer whose value the save does not wait for: an N256 destination. -/
def State.savedProd (s : State) (p : Prod) : Bool := s.streams.any (fun c => c.tag == some p.tag)
/-- R155: the thread stands at a `LANE.CHAIN` that is complete in arrival: a pre-emption lets it finish first. -/
def State.chainComplete (s : State) (t : Thread) : Bool :=
  let at_ (u : Thread) : Bool := (match u.arrival with | some w => w.kind == .chain | none => false) && u.ord == t.ord && u.pc == t.pc
  at_ t && (s.membersOf t.gkey).all at_
/-- R155: and it can finish now. -/
def State.chainEnds (s : State) (t : Thread) : Bool := s.chainComplete t && (s.membersOf t.gkey).any s.chainMeets
/-- R155, R370: nothing of the gang is still under way that the save waits for. DEDUCED (assumption 63). -/
def State.savable (s : State) (gang : Nat) : Bool :=
  let ts := s.threads.filter (·.gang = gang)
  ts.all (fun t => t.prods.all s.savedProd && !s.chainEnds t) && !s.ops.any (fun o => ts.any (·.uid == o.uid))
/-- R367: the thread counts as done. -/
def Thread.doneFor (t : Thread) : Bool :=
  t.halted || (match t.run with
  | .exited | .parked _ => true
  | .waiting w => w.kind == .preempted || w.kind == .post
  | .ready => false)

/-- R368, R370: what a save leaves of a thread. One that gave up its registers starts at its resume address with zero in them; another executes again the
instruction at which it waits. DEDUCED (assumption 63). -/
def Thread.saved (t : Thread) : Thread :=
  let t := { t with resv := none, warned := false }
  match t.run with
  | .waiting w =>
    if w.kind = .preempted then
      { t with regs := Vector.replicate 256 0, fe := Vector.replicate 256 true, prods := [], struck := [], asks := none, pc := t.resume.getD t.pc, resume := none, light := true, run := .ready }
    else if w.kind = .post then t
    else { t with run := .ready }
  | _ => t
def Slate.blank (x : Slate) : Slate := { x with claim := none, pins := [], want := none, got := none, void := false, data := [], sum := [] }
/-- R371: a saved gang that arrived before gang `id`. -/
def savedBefore (id : Nat) (x : Ready) : Bool := match x.src with | .saved k => decide (k < id) | _ => false
/-- R368, R370, R371, R277: the gang is saved and joins its die's ready gangs, ahead of those that arrived after it. DEDUCED (assumption 63). -/
def State.saveGang (s : State) (g : Gang) : State :=
  let cores := ((s.groups.filter (·.gang = g.id)).map (·.core)).dedup
  let s := cores.foldl (fun s c => s.flushL1 c { region := BitVec.ofNat 32 g.region }) s
  let mine (x : Slate) : Bool := x.claim == some g.id
  let s := s.mapThreads (fun t => if t.gang = g.id then t.saved else t)
  { s.mapGang g.id (fun y => { y with res := .saved, wait := none, kept := y.kept ++ s.slates.filter mine }) with
    slates := s.slates.map (fun x => if mine x then x.blank else x),
    ready := s.ready.takeWhile (savedBefore g.id) ++ { die := g.die, region := g.region, bin := 0, src := .saved g.id } :: s.ready.dropWhile (savedBefore g.id) }

/-- R367, R388: the pre-emption reaches the issuing thread at its boundary. -/
def State.preemptThread (s : State) : State :=
  let t : Trap := { cause := 31, pc := s.me.pc }
  let s := s.upd (fun m => { m with warned := true })
  if s.me.handler.isSome then s.holdTrap s.me.uid t
  else (s.upd (fun m => { m with resv := none })).takeTrap t
/-- A pre-emption of the gang is in progress. -/
def Gang.leaving (g : Gang) : Bool := match g.res with | .preempting _ _ => true | _ => false
/-- R367: the thread is one that takes the trap now. -/
def State.takesPreempt (s : State) (t : Thread) : Bool :=
  !t.warned && !s.chainComplete t && !t.doneFor && !t.queued && t.entering.isNone && !t.starting &&
  (match s.gang? t.gang with | some g => (match g.res with | .preempting _ full => !full | _ => false) | none => false)
def State.preemptionTrap (s : State) (uid : Nat) : State :=
  match s.thread? uid with
  | some t => if s.takesPreempt t then s.asThread uid State.preemptThread else s
  | none => s
/-- R368. -/
def State.lightSave (s : State) (gang : Nat) : State :=
  match s.gang? gang with
  | some g =>
    (match g.res with
    | .preempting _ false =>
      if (s.threads.filter (·.gang = gang)).all Thread.doneFor ∧ s.savable gang ∧ g.wait.isNone then s.saveGang g else s
    | _ => s)
  | none => s
/-- R369: the grace of the virtual interface of a gang's region. -/
def State.graceOf (s : State) (region : Nat) : Nat :=
  (((s.region? region).bind (fun r => s.vifs.find? (·.id = r.vif))).map (·.grace)).getD 50000
/-- R369, R370: the grace is over: the gang's threads stand still, and it is saved as soon as its producers and accesses have completed. -/
def State.preemptGrace (s : State) (gang : Nat) : State :=
  match s.gang? gang with
  | some g =>
    (match g.res with
    | .preempting t full =>
      let s := if full then s else s.reach (t + s.graceOf g.region)
      if s.savable gang then s.saveGang { g with res := .running }
      else s.mapGang gang (fun g => { g with res := .preempting t true })
    | _ => s)
  | none => s

/-! ### The resume of a saved gang (R371, R277, R298) -/

/-- A saved gang as a gang to be placed. -/
def State.savedSpec (s : State) (g : Gang) : Option Spec :=
  (s.region? g.region).map (fun r =>
    let node : Option Node := match g.origin with | .batch a b _ => s.node? a b | _ => none
    { region := r, die := r.vdt.getD g.vdie g.die, lb := g.lb, recAddr := g.recAddr, nrec := g.nrec, depth := g.depth, pad := false, origin := g.origin,
      classes := (r.classes &&& g.lb.classes) &&& ((node.map (·.classes)).getD 15), node := none, timed := false })
def State.savedGroups (s : State) (g : Gang) : List Group := s.groups.filter (·.gang = g.id)
def groupSpec (lb : LaunchBlock) (x : Group) : GSpec :=
  { role := x.role, gid := x.gid, r := ((lb.roles[x.role]?).join).getD default, started := x.started, pad := x.pad, joint := lb.joint.getLsbD x.role, base := 0 }
/-- A core suits what a gang had on another: its split, the ids of its tiles, and a matrix unit with room where it holds slates or accumulators. DEDUCED (assumption 64). -/
def State.coreTakes (s : State) (g : Gang) (old new : Nat) : Bool :=
  let tiles := s.tiles.filter (fun t => t.core = old ∧ t.gang = g.id)
  let accs := (((s.binds.filter (fun b => b.core = old ∧ b.g.gang = g.id)).map (·.acc) ++ (s.shadows.filter (fun x => x.core = old ∧ x.g.gang = g.id)).map (·.acc)).dedup).length
  let slates := g.kept.filter (·.core = old)
  (s.splitFor new g.lb).isSome && tiles.all (fun t => (s.tile? new t.id).isNone)
  && ((accs == 0 && slates.isEmpty) || (s.hasMatrix new && decide (s.poolHeld new + accs ≤ 32)))
/-- R371, R306: the places suit the groups: groups that shared a core share one again. DEDUCED (assumption 64). -/
def State.resumeOk (s : State) (g : Gang) (p : Spec) (place : List Place) : Bool :=
  let gs := s.savedGroups g
  let pairs := gs.zip place
  let cores := (place.map (·.core)).dedup
  let threads := (s.threads.filter (fun t => t.gang = g.id ∧ t.run ≠ .exited)).length
  decide (place.length = gs.length) && pairs.all (fun a => pairs.all (fun b => (a.1.core == b.1.core) == (a.2.core == b.2.core)))
  && pairs.zipIdx.all (fun (x, i) => s.groupFits p (groupSpec g.lb x.1) x.2 ((pairs.take i).map (fun y => (groupSpec g.lb y.1, y.2))))
  && pairs.all (fun x => s.coreTakes g x.1.core x.2.core) && s.budgetFits p.region.num cores threads
/-- A placement where the event names none. DESIGN CHOICE (assumption 34). -/
def State.resumePlace (s : State) (g : Gang) (p : Spec) : List Place :=
  ((s.savedGroups g).foldl (fun (acc : List (Group × Place)) x =>
    let all_ := (List.range 64).flatMap (fun c => (List.range 4).flatMap (fun q => (List.range (64 / Nat.max 1 x.width)).map (fun k =>
      ({ core := p.die * 64 + c, part := q, k := k } : Place))))
    let ok (y : Place) : Bool := acc.all (fun a => (a.1.core == x.core) == (a.2.core == y.core)) && s.coreTakes g x.core y.core
      && s.groupFits p (groupSpec g.lb x) y (acc.map (fun a => (groupSpec g.lb a.1, a.2)))
    match all_.find? ok with
    | some y => acc ++ [(x, y)]
    | none => acc) []).map (·.2)

/-- R371: what the gang keeps on a core moves to its new core. -/
def State.moveGang (s : State) (gang : Nat) (f : Nat → Nat) : State :=
  let mine (uid : Nat) : Bool := (s.gkeyOf uid).gang == gang
  let pad (x : OpSpace) : OpSpace := match x with | .scr g c => if g = gang then .scr g (f c) else x | _ => x
  let ids := (s.binds.filter (·.g.gang = gang)).map (·.acc) ++ (s.shadows.filter (·.g.gang = gang)).map (·.acc)
  { s with
    pads := s.pads.map (fun x => if x.gang = gang then { x with core := f x.core } else x),
    tiles := s.tiles.map (fun x => if x.gang = gang then { x with core := f x.core } else x),
    copies := s.copies.map (fun x => if mine x.uid then { x with core := f x.core } else x),
    streams := s.streams.map (fun x => if mine x.uid then { x with core := f x.core } else x),
    remotes := s.remotes.map (fun x => if mine x.uid then { x with core := f x.core } else x),
    colls := s.colls.map (fun x => if mine x.uid then { x with core := f x.core } else x),
    matrix := s.matrix.map (fun x => if x.g.gang = gang then { x with core := f x.core } else x),
    shadows := s.shadows.map (fun x => if x.g.gang = gang then { x with core := f x.core } else x),
    binds := s.binds.map (fun x => if x.g.gang = gang then { x with core := f x.core } else x),
    lates := s.lates.map (fun x => if x.g.gang = gang then { x with core := f x.core } else x),
    accs := s.accs.map (fun x => if ids.contains x.id then { x with core := f x.core } else x),
    past := s.past.map (fun x => { x with space := pad x.space }), phases := s.phases.map (fun x => { x with space := pad x.space }) }
/-- R277: the slates of the gang are claimed again and reloaded, all at once; until then it waits. DEDUCED (assumption 41). DEDUCED (assumption 64). -/
def State.reclaim (s : State) (gang : Nat) : State :=
  match s.gang? gang with
  | none => s
  | some g =>
    if g.res = .saved then s
    else if g.kept.all (fun x => (s.slate? x.core x.n).any (·.claim.isNone)) then
      let load (x : Slate) : Slate := match x.got with
        | some d => let c := s.convert x.core d; { x with void := c.void, data := if c.void then [] else c.data, sum := c.sum }
        | none => x
      { s.mapGang gang (fun g => { g with wait := none, kept := [] }) with
        slates := s.slates.map (fun y => ((g.kept.find? (fun x => x.core = y.core ∧ x.n = y.n)).map load).getD y) }
    else if g.wait.isSome then s
    else s.mapGang gang (fun g => { g with wait := some s.time })
/-- R368: LIGHT in the frame of a thread that gave up its registers, a write of the device for which the thread waits. DESIGN CHOICE (assumption 32). -/
def State.markLight (s : State) (r : Region) (t : Thread) : State :=
  if !t.light then s
  else (s.mapThread t.uid (fun t => { t with light := false })).deviceSend
    { space := some r.num, core := t.core, va := t.trapf + 33, kind := .mark 2, parked := none, uid := some t.uid }
/-- R368: the mark in the frame of the thread has not been written. -/
def State.unmarked (s : State) (t : Thread) : Bool := s.devWrites.any (fun w => w.uid == some t.uid && (match w.kind with | .mark _ => true | _ => false))
/-- R371: a saved gang is placed and resumes. DEDUCED (assumption 64). -/
def State.resumeAt (s : State) (g : Gang) (p : Spec) (place : List Place) : State :=
  let pairs := (s.savedGroups g).zip place
  let f (c : Nat) : Nat := ((pairs.find? (fun x => x.1.core = c)).map (·.2.core)).getD c
  let spot (x : Group) : Place := ((pairs.find? (fun y => y.1.role = x.role ∧ y.1.gid = x.gid)).map (·.2)).getD { core := x.core, part := x.part, k := x.k }
  let s := s.moveGang g.id f
  let width (t : Thread) : Nat := ((s.group? t).map (·.width)).getD 8
  let s := s.mapThreads (fun t => if t.gang = g.id then
    (match s.group? t with
    | some x => let y := spot x; { t with core := y.core, part := y.part, lane := y.k * width t + t.member, since := s.cycle }
    | none => t) else t)
  let s : State := { s with
    groups := s.groups.map (fun x => if x.gang = g.id then (let y := spot x; { x with core := y.core, part := y.part, k := y.k }) else x),
    ready := s.ready.filter (fun x => x.src ≠ .saved g.id) }
  let s := ((place.map (·.core)).dedup).foldl (fun (s : State) c =>
    match s.splitFor c g.lb with
    | some l1 => if ((s.core? c).map (·.l1size)).getD 0 = l1 then s else (s.flushL1 c {}).emptyL1 c l1
    | none => s) s
  let s := s.mapGang g.id (fun y => { y with res := .running, die := p.die, kept := y.kept.map (fun x => { x with core := f x.core }) })
  let s := place.foldl (fun s y => s.acquireL1 y.core y.part 5) s
  ((s.threads.filter (·.gang = g.id)).foldl (fun s t => s.markLight p.region t) s).reclaim g.id
/-- How a ready gang is placed: a saved one resumes, another starts. `place` gives its places if they suit it; else they are found. DESIGN CHOICE (assumption 34). -/
def State.placing (s : State) (x : Ready) (place : List Place) : Option (State → State) :=
  match x.src with
  | .saved id => (s.gang? id).bind (fun g => (s.savedSpec g).bind (fun p =>
      let at_ (pl : List Place) : Option (State → State) := if s.resumeOk g p pl then some (fun s => s.resumeAt g p pl) else none
      (at_ place).or (at_ (s.resumePlace g p))))
  | _ =>
    if s.released x then (s.specOf x).bind (fun p =>
      let at_ (pl : List Place) : Option (State → State) := if s.placeOk p pl then some (fun s => s.startGang p pl) else none
      (at_ place).or (at_ (s.defaultPlace p)))
    else none
/-- R314: the first of the offered gangs that can be placed now, with those that are passed over. -/
def State.firstFit (s : State) (place : List Place) : List (Ready × Bool) → List WorkSrc → Option (List WorkSrc × (Ready × Bool) × (State → State))
  | [], _ => none
  | x :: l, skipped => match s.placing x.1 place with
    | some act => some (skipped, x, act)
    | none => s.firstFit place l (skipped ++ [x.1.src])
/-- The die whose dispatcher may place a gang. -/
def State.dispatcher (s : State) (die : Nat) : Option Die := (s.die? die).filter (fun d => d.enabled && !d.stopped)
/-- R314: a region of a die has been served: its cursor moves, and the order of the regions with it. -/
def State.served (s : State) (die : Nat) (x : Ready) (stay : Bool) (skipped : List WorkSrc) : State :=
  let prio := ((s.region? x.region).map (·.prio)).getD 0
  let s := if x.src.isSaved then s else s.mapRegion x.region (fun r =>
      let taken := ((r.cursors.find? (·.1 = die)).map (·.2.2)).getD 0
      { r with cursors := (die, x.bin, if stay then taken + 1 else 1) :: r.cursors.filter (·.1 ≠ die) })
  s.mapDie die (fun d => { d with
    last := if d.passed.contains x.src then d.last else (prio, x.region) :: d.last.filter (·.1 ≠ prio)
    passed := (skipped ++ d.passed).dedup.filter (· ≠ x.src) })
/-- R310: sealed batches that had to wait enter their rings. -/
def State.fillRings (s : State) : State := (s.batches.filter (·.st = .sealed)).foldl (fun s b => s.fillRing b.region b.node 1) s
/-- R306, R314: the dispatcher of a die places the first ready gang in its order for which a placement suits; one that is offered and finds none keeps its place. DESIGN CHOICE (assumption 34). -/
def State.placeNext (s : State) (die : Nat) (place : List Place) : State :=
  let s := s.fillRings
  match (s.dispatcher die).bind (fun d => s.firstFit place (s.offers d) []) with
  | none => match s.dispatcher die with
    | some d => s.mapDie die (fun x => { x with passed := ((s.offers d).map (·.1.src) ++ x.passed).dedup })
    | none => s
  | some (skipped, (x, stay), act) => act (({ s with ready := s.ready.erase x } : State).served die x stay skipped)
/-- R371: a saved gang resumes in its turn (R314), or claims again what it waits for (R277). -/
def State.resumeGang (s : State) (gang : Nat) (place : List Place) : State :=
  match s.gang? gang with
  | none => s
  | some g =>
    if g.wait.isSome then s.reclaim gang
    else match s.ready.find? (fun x => x.src = .saved gang) with
      | none => s
      | some r =>
        let die := s.readyDie r
        match (s.dispatcher die).bind (fun d => s.firstFit place (s.offers d) []) with
        | some (_, (x, _), _) => if x = r then s.placeNext die place else s
        | none => s

/-! ### PREEMPT.DONE (R379), CTX.SAVE, CTX.LOAD (R381) -/

/-- R379: without a pre-emption in progress there is no save to wait for, and the thread goes on at its resume address. DEDUCED (assumption 63). -/
def State.giveUp (a : Dword) (s : State) : State :=
  if s.ops.any (·.uid == s.me.uid) then s.await .order
  else
    let s := s.upd (fun t => { t with resume := some a, run := .waiting { kind := .preempted, since := s.time } })
    if ((s.gang? s.me.gang).map Gang.leaving).getD false then s else s.upd (fun t => { t.saved with light := false })
def preemptDoneOp (i : Checks) (o : LOps) : State → State :=
  issue i (fun s =>
    if (s.me.handler.map (·.cause)) ≠ some 31 then s.trap 1 0 1
    else
      let a := if s.me.rd2 o.a = 0 then s.handlerEntry else s.me.rd2 o.a
      s.transferTo a true (State.giveUp a))

/-- R381: a full save of the gang, if that was asked for. -/
def State.forceSave (s : State) (gang : Nat) : State :=
  match s.gang? gang with
  | some g => (match g.res with | .preempting _ true => s.preemptGrace gang | _ => s)
  | none => s
/-- R381: the gangs to be saved, as the wait remembers them, and those that are still to be saved. -/
def State.resident (s : State) (num : Nat) : List Nat := (s.gangs.filter (fun g => s.below num g.region ∧ g.res ≠ .saved)).map (·.id)
/-- R381: whether the operand names a region that `CTX.SAVE` refuses: the answer it writes. -/
def State.ctxRefusal (s : State) (num : Nat) : Option Word :=
  if (s.region? num).isNone then some 0xFFFFFFFF
  else if s.reaches num (s.regionNum s.me) then some 0xFFFFFFFE
  else if !s.reachable num then some 0xFFFFFFFF
  else none
def ctxSaveWith (i : Checks) (o : LOps) (full : Bool) : State → State :=
  issue i (fun s =>
    let num := s.regionArg (s.bArg o)
    match s.ctxRefusal num with
    | some e => (s.wr o.d e).advance i
    | none =>
      let begun : Option Wait := match s.me.run with | .waiting w => if w.kind = .system then some w else none | _ => none
      let (ids, s) : List Dword × State := match begun with
        | some w => (w.data, s)
        | none => ((s.resident num).map (fun n => BitVec.ofNat 64 n), (s.setHold num true).preempt num full)
      let s := if full then (s.resident num).foldl (fun (s : State) g => s.forceSave g) s else s
      if (s.resident num).any (fun n => ids.contains (BitVec.ofNat 64 n)) then s.awaitWith { kind := .system, data := ids }
      else
        let n := (ids.filter (fun x => (s.gang? x.toNat).any (fun g => g.res == .saved))).length
        (s.wr o.d (BitVec.ofNat 32 n)).advance i)
def ctxSaveOp (i : Checks) (o : LOps) : State → State := ctxSaveWith i o false
def ctxSaveNowOp (i : Checks) (o : LOps) : State → State := ctxSaveWith i o true
def ctxLoadOp (i : Checks) (o : LOps) : State → State :=
  issue i (fun s =>
    let num := s.regionArg (s.bArg o)
    if !s.reachable num then (s.wr o.d 1).advance i
    else if num = s.regionNum s.me then (s.wr o.d 8).advance i
    else ((s.setHold num false).wr o.d 0).advance i)

/-! ### INV.RANGE, INV.ASID (R372, R380) -/

/-- The cores within the instance of a scope that contains a core. -/
def coreIn (scope me c : Nat) : Bool :=
  match scope with
  | 2 => c == me
  | 3 => c / 4 == me / 4
  | 4 => c / 64 == me / 64
  | _ => true
/-- The entry's page overlaps the range, which is all of the space for `INV.ASID`. -/
def Tlb.within (asid : Word) (range : Option (Nat × Nat)) (e : Tlb) : Bool :=
  e.asid == asid && (match range with | some (b, n) => overlapping b n (e.va * 2 ^ e.log) (2 ^ e.log) | none => true)
/-- The entries that an invalidation removes. DEDUCED (assumption 65). -/
def State.removed (s : State) (scope me : Nat) (asid : Word) (range : Option (Nat × Nat)) : List Tlb :=
  let ins := s.cores.filter (fun c => coreIn scope me c.id)
  (ins.flatMap (fun c => c.tlb ++ c.walkTlb) ++ (s.dies.filter (fun d => ins.any (fun c => c.id / 64 = d.id))).flatMap (·.tlb)).filter (·.within asid range)
def covers (es : List Tlb) (a n : Nat) : Bool := es.any (fun e => overlapping a n e.pa (2 ^ e.log))
/-- An access that translated through one of the entries has not performed: one of a thread, a status word of a remote operation or a round, the word that a `COLL.WAIT` reads, or a
write of the device for a thread. DEDUCED (assumption 65). -/
def State.inFlight (s : State) (scope me : Nat) (es : List Tlb) : Bool :=
  let word (core pa : Nat) : Bool := coreIn scope me core && covers es pa 4
  s.ops.any (fun o => o.space == .glb && coreIn scope me o.core && o.segs.any (fun x => covers es x.1 x.2))
  || s.remotes.any (fun r => word r.core r.status) || s.colls.any (fun c => word c.core c.status)
  || s.lates.any (fun l => match l.kind with | .collWait pa => word l.core pa | _ => false)
  || s.devWrites.any (fun w => w.space.isNone && w.uid.isSome && word w.core w.va.toNat)
/-- R372: a trigger whose word was translated through one of the entries translates it again when it is written. DEDUCED (assumption 65). -/
def Trigger.cut (es : List Tlb) (t : Trigger) : Trigger := { t with again := t.again || covers es t.pa 8 }
/-- R230: a release holds a line whose dirty bytes would be written back. -/
def State.flushHeld (s : State) (scope me : Nat) (es : List Tlb) : Bool :=
  s.cores.any (fun c => coreIn scope me c.id && c.l1.any (fun l => l.dirty != 0 && covers es (64 * l.line) 64 && s.lineHeld l.line))
/-- R372: the entries go, the dirty bytes of their pages are written back, and the windows that pinned them are broken. DEDUCED (assumption 65). -/
def State.invalidate (s : State) (scope me : Nat) (asid : Word) (range : Option (Nat × Nat)) : State :=
  let es := s.removed scope me asid range
  let keep (l : List Tlb) : List Tlb := l.filter (fun e => !e.within asid range)
  let ins (c : Nat) : Bool := coreIn scope me c
  let s := (s.cores.filter (fun c => ins c.id)).foldl (fun (s : State) c =>
    (c.l1.filter (fun l => covers es (64 * l.line) 64)).foldl (fun (s : State) l => s.wbLine c.id l.line {}) s) s
  let cut (core : Nat) (t : Option Trigger) : Option Trigger := if ins core then t.map (Trigger.cut es) else t
  { s.mapThreads (fun t => { t with trig := cut t.core t.trig }) with
    copies := s.copies.map (fun c => { c with trig := cut c.core c.trig }), matrix := s.matrix.map (fun c => { c with trig := cut c.core c.trig }),
    colls := s.colls.map (fun c => { c with trig := cut c.core c.trig }),
    cores := s.cores.map (fun c => if ins c.id then { c with tlb := keep c.tlb, walkTlb := keep c.walkTlb } else c),
    dies := s.dies.map (fun d => if s.cores.any (fun c => ins c.id && c.id / 64 == d.id) then { d with tlb := keep d.tlb } else d),
    windows := s.windows.map (fun w =>
      let hit : Bool := match range with
        | some (b, n) => overlapping b n w.base w.size || (w.nqlog2 != 0 && overlapping b n (w.nq / 4096 * 4096) (4096 * w.qframes.length))
        | none => true
      if w.asid = asid ∧ hit then { w with broken := true } else w) }
/-- R372, R389: the removal waits for the thread's earlier accesses at `.QUAD` or wider, and the instruction completes once nothing that translated
through a removed entry is left. DEDUCED (assumption 65). -/
def invWith (i : Checks) (o : LOps) (m : CtlMod) (asid : State → Word) (range : State → Option (Nat × Nat)) : State → State :=
  fun s =>
    let scope := m.sel.toNat
    if s.ops.any (fun x => x.uid == s.me.uid && x.space == .glb && x.atL2) then s.await .order
    else if s.inFlight scope s.me.core (s.removed scope s.me.core (asid s) (range s)) then s.await .system
    else if s.flushHeld scope s.me.core (s.removed scope s.me.core (asid s) (range s)) then s.await .system
    else ((s.invalidate scope s.me.core (asid s) (range s)).wr o.d 0).advance i
def invRangeOp (i : Checks) (o : LOps) (m : CtlMod) : State → State :=
  issue i (fun s =>
    let b := (s.me.rd2 o.a).toNat
    let n := (s.me.rd2 o.b).toNat
    if b % 4096 ≠ 0 ∨ n = 0 ∨ n % 4096 ≠ 0 ∨ 2 ^ 64 < b + n then (s.wr o.d 4).advance i
    else invWith i o m (fun s => s.me.rd o.c) (fun _ => some (b, n)) s)
def invAsidOp (i : Checks) (o : LOps) (m : CtlMod) : State → State :=
  issue i (invWith i o m (fun s => s.me.rd o.a) (fun _ => none))

/-! ### DBG.HALT, DBG.RESUME, DBG.STEP (R373, R374, R382) -/

/-- R376: a die operand that names an enabled die. -/
def State.dieArg (s : State) (w : Word) : Option Nat :=
  if w.toNat < 4 ∧ ((s.die? w.toNat).map (·.enabled)).getD false then some w.toNat else none
/-- R382: the region and the die of a debugger instruction, or the answer that refuses it. -/
def debugWith (i : Checks) (o : LOps) (act : Nat → Nat → State → Word × State) : State → State :=
  issue i (fun s =>
    let num := s.regionArg (s.bArg o)
    match s.dieArg (s.me.rd o.a) with
    | none => (s.wr o.d 0xFFFFFFFD).advance i
    | some die =>
      if !s.reachable num then (s.wr o.d 0xFFFFFFFF).advance i
      else
        let (v, s) := act num die s
        (s.wr o.d v).advance i)
/-- DEDUCED (assumption 44). -/
def dbgHaltOp (i : Checks) (o : LOps) : State → State :=
  debugWith i o (fun num die s =>
    let halted := ((s.region? num).map (fun r => (r.debugOn die).halted)).getD false
    (BitVec.ofNat 32 (s.countOn num die (fun _ => true)), if halted then s else s.haltRegion num die none))
def dbgHaltArmOp (i : Checks) (o : LOps) : State → State :=
  debugWith i o (fun num die s => (0, s.setDebug num die (fun d => { d with armed := true })))
def dbgHaltDisarmOp (i : Checks) (o : LOps) : State → State :=
  debugWith i o (fun num die s => (0, s.setDebug num die (fun d => { d with armed := false })))
/-- R382: the status word. -/
def Debug.word (d : Debug) : Nat :=
  (if d.halted then 1 else 0) + (if d.armed then 2 else 0) + (match d.brk with | some l => 4 + 2 ^ 16 * l | none => 0)
def dbgHaltQryOp (i : Checks) (o : LOps) : State → State :=
  debugWith i o (fun num die s => (BitVec.ofNat 32 (((s.region? num).map (fun r => (r.debugOn die).word)).getD 0), s))
def dbgResumeOp (i : Checks) (o : LOps) : State → State :=
  debugWith i o (fun num die s =>
    let halted := ((s.region? num).map (fun r => (r.debugOn die).halted)).getD false
    if halted then (BitVec.ofNat 32 (s.countOn num die (·.halted)), s.resumeRegion num die) else (0, s))

/-- R374: the thread that a LOC word names: one of a reachable region, a halted one first. DEDUCED (assumption 44). -/
def State.located (s : State) (w : Word) : Option Thread :=
  let l := s.threads.filter (fun t => w.toNat < 2 ^ 16 ∧ t.loc = w.toNat ∧ t.run ≠ .exited ∧ (s.gang? t.gang).isSome ∧ !s.away t.gang ∧ s.reachable (s.regionNum t))
  (l.find? (·.halted)).or l.head?
/-- R374: the threads of a group that a step may advance. -/
def State.stepMembers (s : State) (g : GKey) : List Thread := (s.membersOf g).filter (fun t => t.halted && t.run != .exited && !t.isParked)
/-- R374: the sub-groups of a group as member masks, in ascending order of their lowest `sr.tid`. -/
def State.subGroups (s : State) (g : GKey) : List Nat :=
  let ms := (s.stepMembers g).insertionSort (fun a b => a.tid ≤ b.tid)
  ((ms.map (·.pc)).dedup.insertionSort (fun a b =>
    ((ms.find? (fun t => t.pc = a)).map (·.tid)).getD 0 ≤ ((ms.find? (fun t => t.pc = b)).map (·.tid)).getD 0)).map
    (fun pc => maskOf ((ms.filter (·.pc = pc)).map (·.member)))
/-- The masks of the steps that a form makes. DEDUCED (assumption 44). -/
def State.stepMasks (s : State) (t : Thread) (sub : Nat) : List Nat :=
  match sub with
  | 0 => if t.isParked then [] else [2 ^ t.member]
  | 1 => [maskOf (((s.stepMembers t.gkey).filter (·.pc = t.pc)).map (·.member))]
  | _ => s.subGroups t.gkey
/-- R374: one sub-group after another steps: its threads issue once. -/
def State.stepOn (s : State) (i : Checks) (o : LOps) (g : GKey) (uid : Nat) : List Nat → State
  | [] => (s.wr o.d 0).advance i
  | m :: rest =>
    let s := s.mapThreads (fun t => if t.gkey = g ∧ t.halted ∧ m.testBit t.member ∧ t.run ≠ .exited ∧ !t.isParked then { t with stepping := true } else t)
    s.awaitWith { kind := .step, obj := BitVec.ofNat 64 uid, data := rest.map (fun x => BitVec.ofNat 64 x) }
/-- DEDUCED (assumption 44). -/
def dbgStepOp (i : Checks) (o : LOps) (m : CtlMod) : State → State :=
  issue i (fun s =>
    let begun : Option Wait := match s.me.run with | .waiting w => if w.kind = .step then some w else none | _ => none
    match begun with
    | some w =>
      let g := s.gkeyOf w.obj.toNat
      if s.threads.any (fun t => t.gkey == g && t.stepping) then s
      else s.stepOn i o g w.obj.toNat (w.data.map (·.toNat))
    | none =>
      match s.located (s.me.rd o.a) with
      | none => (s.wr o.d 1).advance i
      | some t =>
        if !t.halted then (s.wr o.d 2).advance i
        else s.stepOn i o t.gkey t.uid (s.stepMasks t m.sub.toNat))

/-! ### VDT.LD (R383) -/

/-- R383: the carves of a region for the dies that a new table adds; `none` where one does not fit. -/
def State.newCarves (s : State) (r : Region) (vdt : List Nat) : Option (List (Option Nat)) :=
  if !(r.ovr.getLsbD 3 || r.parent == 0) || r.tdir == 0 then some r.tdwoff
  else (List.range 4).foldlM (fun acc d =>
    match (r.tdwoff[d]?).join with
    | some u => some (acc ++ [some u])
    | none => if vdt.contains d then (if 384 < r.tdir then none else (s.carveRun d r.tdir).map (fun u => acc ++ [some u])) else some (acc ++ [none])) []
/-- DEDUCED (assumption 51). -/
def vdtLdOp (i : Checks) (o : LOps) : State → State :=
  issue i (fun s =>
    let a := s.me.rd2 o.a
    let num := s.regionArg (s.bArg o)
    let done (w : Word) (s : State) : State := (s.wr o.d w).advance i
    if a.toNat % 8 ≠ 0 then s.trap 12 a 0
    else match if s.reachable num then s.region? num else none with
      | none => done 1 s
      | some r => s.drained (fun s =>
        match s.readRuns (BitVec.ofNat 64 (a.toNat / 64 * 64)) 1 [] with
        | .error s => s
        | .ok (bs, s) =>
          let w := bytesNat ((bs.drop (a.toNat % 64)).take 8)
          let vdt := vdtOf w
          if !s.vdtOk w then done 4 s
          else if s.gangs.any (fun g => g.region = num ∧ !vdt.contains g.die) then done 2 s
          else match s.newCarves r vdt with
            | none => done 6 s
            | some runs =>
              let s := (List.range 4).foldl (fun (s : State) d => match (r.tdwoff[d]?).join, (runs[d]?).join with
                | none, some u => s.clearRun d u r.tdir
                | _, _ => s) s
              done 0 (s.mapRegion num (fun r => { r with vdt := vdt, tdwoff := runs }))))

/-! ### ENV.RD, LOG.RD, MCHK.RD (R384 to R386) -/

/-- R384, R376: the value of a selector. -/
def State.env (s : State) (sel : Nat) (arg : Word) : Nat :=
  let ones := 2 ^ 64 - 1
  let plain (v : Nat) : Nat := if arg = 0 then v else ones
  match sel with
  | 0 => plain s.chip.toNat
  | 1 => plain (maskOf ((s.dies.filter (·.enabled)).map (·.id)))
  | 2 => if 256 ≤ arg.toNat then ones else (((s.core? arg.toNat).bind (·.cls)).map CoreClass.code).getD 4
  | 3 => plain s.envPow
  | 4 => plain s.envInj
  | 5 => plain (s.graceOf (s.regionNum s.me))
  | 6 => plain s.heapSize
  | 7 => plain s.saveSize
  | _ => match s.dieArg arg with
    | some d => ((s.die? d).map (·.fw.toNat)).getD ones
    | none => ones
def envRdOp (i : Checks) (o : LOps) (m : CtlMod) : State → State :=
  completes i (fun s => s.wrNat o.d 2 (s.env m.sel.toNat (s.me.rd o.a)))

def logRdOp (i : Checks) (o : LOps) : State → State :=
  completes i (fun s =>
    match s.regionOf s.me with
    | none => s.wrNat o.d 4 0
    | some r =>
      match if r.logn = 0 then [] else r.log with
      | [] => s.wrNat o.d 4 0
      | x :: rest => (s.mapRegion r.num (fun r => { r with log := rest })).wrNat o.d 4 (x ||| 2 ^ 127))

/-- R386. -/
def Die.mchk (d : Die) : Nat := d.mchkCount % 2 ^ 16 + 2 ^ 16 * (d.mchkKind % 16) + 2 ^ 20 * (d.mchkCore % 64)
def mchkRdOp (i : Checks) (o : LOps) (m : CtlMod) : State → State :=
  completes i (fun s =>
    match (s.dieArg (s.me.rd o.a)).bind s.die? with
    | none => s.wrNat o.d 2 (2 ^ 64 - 1)
    | some d =>
      let s := if m.sub = 1 then s.mapDie d.id (fun d => { d with mchkCount := 0 }) else s
      s.wrNat o.d 2 d.mchk)

/-! ### SYS.IDLE (R387) -/

def State.vifOf (s : State) (t : Thread) : Option Vif := (s.regionOf t).bind (fun r => s.vifs.find? (·.id = r.vif))
def State.mapVif (s : State) (id : Nat) (f : Vif → Vif) : State := { s with vifs := s.vifs.map (fun v => if v.id = id then f v else v) }
/-- The wait keeps its destination and length, and its time limit. -/
def sysIdleOp (i : Checks) (o : LOps) : State → State :=
  issue i (fun s =>
    let n := (s.me.rd2 o.a).toNat
    let w : Wait := { kind := .idle, data := [o.d.setWidth 64, BitVec.ofNat 64 i.syl], limit := if n = 0 then none else some n }
    match s.vifOf s.me with
    | none => s.awaitWith w
    | some v =>
      if v.bells = 0 then s.awaitWith w
      else ((s.mapVif v.id (fun v => { v with bells := 0 })).wr o.d v.bells).advance i)

/-! ### The meanings that `exec` calls -/

def execTrap (o : LOps) (m : CtlMod) (s : State) : Out := .next (trapOp (Instr.trap o m).checks o s)
def execTrapRet (o : LOps) (m : CtlMod) (s : State) : Out := .next (trapRetOp (Instr.trapRet o m).checks s)
def execPreemptDone (o : LOps) (m : CtlMod) (s : State) : Out := .next (preemptDoneOp (Instr.preemptDone o m).checks o s)
def execDbgBrk (o : LOps) (m : CtlMod) (s : State) : Out := .next (dbgBrkOp (Instr.dbgBrk o m).checks s)
def execInvRange (o : LOps) (m : CtlMod) (s : State) : Out := .next (invRangeOp (Instr.invRange o m).checks o m s)
def execInvAsid (o : LOps) (m : CtlMod) (s : State) : Out := .next (invAsidOp (Instr.invAsid o m).checks o m s)
def execCtxSave (o : LOps) (m : CtlMod) (s : State) : Out := .next (ctxSaveOp (Instr.ctxSave o m).checks o s)
def execCtxSaveNow (o : LOps) (m : CtlMod) (s : State) : Out := .next (ctxSaveNowOp (Instr.ctxSaveNow o m).checks o s)
def execCtxLoad (o : LOps) (m : CtlMod) (s : State) : Out := .next (ctxLoadOp (Instr.ctxLoad o m).checks o s)
def execDbgHalt (o : LOps) (m : CtlMod) (s : State) : Out := .next (dbgHaltOp (Instr.dbgHalt o m).checks o s)
def execDbgHaltArm (o : LOps) (m : CtlMod) (s : State) : Out := .next (dbgHaltArmOp (Instr.dbgHaltArm o m).checks o s)
def execDbgHaltDisarm (o : LOps) (m : CtlMod) (s : State) : Out := .next (dbgHaltDisarmOp (Instr.dbgHaltDisarm o m).checks o s)
def execDbgHaltQry (o : LOps) (m : CtlMod) (s : State) : Out := .next (dbgHaltQryOp (Instr.dbgHaltQry o m).checks o s)
def execDbgStep (o : LOps) (m : CtlMod) (s : State) : Out := .next (dbgStepOp (Instr.dbgStep o m).checks o m s)
def execDbgResume (o : LOps) (m : CtlMod) (s : State) : Out := .next (dbgResumeOp (Instr.dbgResume o m).checks o s)
def execVdtLd (o : LOps) (m : CtlMod) (s : State) : Out := .next (vdtLdOp (Instr.vdtLd o m).checks o s)
def execEnvRd (o : LOps) (m : CtlMod) (s : State) : Out := .next (envRdOp (Instr.envRd o m).checks o m s)
def execLogRd (o : LOps) (m : CtlMod) (s : State) : Out := .next (logRdOp (Instr.logRd o m).checks o s)
def execMchkRd (o : LOps) (m : CtlMod) (s : State) : Out := .next (mchkRdOp (Instr.mchkRd o m).checks o m s)
def execSysIdle (o : LOps) (m : CtlMod) (s : State) : Out := .next (sysIdleOp (Instr.sysIdle o m).checks o s)
def execDbgBrkS32 (o : SOps) (s : State) : Out := .next (dbgBrkOp (Instr.dbgBrk o.long (.s 0)).checks.short s)

end Sys2Proof.Machine
end

