-- ==== Sys2Proof/Machine/Events.lean ====
section
/-! DEFINITION. What happens beside the instructions, within the module (95): lines and values that arrive, clocks that run out, answers to page
requests, confirmations, engines, dispatch, pre-emption and the fabric. -/
namespace Sys2Proof.Machine

/-! ### Lines and values (R40, R69) -/

/-- R40: a line enters the instruction cache of the thread's core. -/
def State.lineFill (s : State) (uid : Nat) (va : Dword) : State :=
  if (s.thread? uid).isSome then s.asThread uid (fun s => (s.fetch va).2) else s
def execInstructionLineFill (uid : Nat) (va : Dword) (s : State) : Out := .next (s.lineFill uid va)

/-- R158: SFU results of a thread arrive in program order. -/
def Thread.sfuFirst (t : Thread) (p : Prod) : Bool := p.sfu.isNone || (t.prods.takeWhile (·.tag ≠ p.tag)).all (·.sfu.isNone)
/-- R69: the words of a producer turn its registers full, if they are known. -/
def State.land (s : State) (uid tag : Nat) : State :=
  match (s.thread? uid).bind (fun t => (t.prods.find? (·.tag = tag)).filter t.sfuFirst) with
  | some p => (match p.val with
    | some ws => s.mapThread uid (fun t => t.arrive p ws)
    | none => s)
  | none => s
/-- R69: the `k`-th producer of a thread arrives; the access that it waits for performs first, if it may. -/
def State.arrival (s : State) (uid k : Nat) : State :=
  let s := s.settle
  match (s.thread? uid).bind (·.prods[k]?) with
  | none => s
  | some p =>
    if p.val.isSome then s.land uid p.tag
    else match s.ops.find? (fun o => o.uid = uid ∧ o.tag = some p.tag ∧ !o.isFence) with
      | some o => (s.tryPerform o).land uid p.tag
      | none => s
def execLongLatencyArrival (uid k : Nat) (s : State) : Out := .next (s.arrival uid k)

/-- R201, R210: the `k`-th pending access performs, if it may. -/
def State.storePerforms (s : State) (k : Nat) : State :=
  match s.ops[k]? with
  | some o => s.tryPerform o
  | none => s
def execStorePerforms (k : Nat) (s : State) : Out := .next (s.storePerforms k)

/-! ### Waits that end (R85, R223, R359, R387) -/

def Thread.waitOf (t : Thread) : Option Wait := match t.run with | .waiting w => some w | _ => none
/-- The thread leaves its wait at the next start; the wait keeps the length of its instruction. -/
def Thread.pass (w : Wait) (t : Thread) : Thread := t.advanceBy (w.data.getD 1 0).toNat
/-- The destination that a wait keeps. -/
def Wait.dst (w : Wait) : Reg := (w.data.headD 0).setWidth 8

/-- R4, R85: the tick at which a thread that stands aside is ready again: 64 core cycles after `YIELD`, c after `NAP`; five cycles are two ticks. DESIGN CHOICE (assumption 30). -/
def Thread.napOver (t : Thread) : Option Nat :=
  match t.waitOf with
  | some w => if w.kind = .nap ∨ w.kind = .yielded then some (w.since + (2 * w.limit.getD 64 + 4) / 5) else none
  | none => none
/-- R85: time passes until then. -/
def State.napEnds (s : State) (uid : Nat) : State :=
  match (s.thread? uid).bind Thread.napOver with
  | some n => (s.reach n).mapThread uid (fun t => { t with run := .ready })
  | none => s
def execNapExpiry (uid : Nat) (s : State) : Out := .next (s.napEnds uid)

/-- R359: the count reaches the tick that the thread waits for. -/
def State.untilReached (s : State) (uid : Nat) : State :=
  match (s.thread? uid).bind Thread.waitOf with
  | some w => if w.kind = .time then (s.reach w.obj.toNat).mapThread uid (fun t => { t with run := .ready }) else s
  | none => s
def execWaitUntilReached (uid : Nat) (s : State) : Out := .next (s.untilReached uid)

/-- The clock of a wait does not run: the debugger halts the region (R74), or a parked thread is needed (R77). -/
def State.clockStopped (s : State) (t : Thread) : Bool := s.anyHalted t || s.needsParked t
/-- R223: the time of a `WAIT.VAL` is over. -/
def State.valTimeout (s : State) (uid : Nat) : State :=
  match s.thread? uid with
  | none => s
  | some t =>
    match t.waitOf with
    | some w => (match w.limit with
      | some n =>
        if w.kind ≠ .value ∨ s.clockStopped t then s
        else (s.reach (w.since + w.frozen + n)).mapThread uid (fun t => (t.setPred (w.dst.setWidth 3) false).pass w)
      | none => s)
    | none => s
def execWaitValTimeout (uid : Nat) (s : State) : Out := .next (s.valTimeout uid)

/-- R387: the time limit of a `SYS.IDLE` passes. DEDUCED (assumption 67). -/
def State.idleLimit (s : State) (uid : Nat) : State :=
  match (s.thread? uid).bind Thread.waitOf with
  | some w => (match w.limit with
    | some n => if w.kind = .idle then (s.reach (w.since + n)).mapThread uid (fun t => (t.wr w.dst 0).pass w) else s
    | none => s)
  | none => s
def execSysIdleTimeLimit (uid : Nat) (s : State) : Out := .next (s.idleLimit uid)

/-! ### The watchdog (R74, R366, R242) -/

/-- R322, R343, R353, R366: what the expiry of a wait does to the thread. DEDUCED (assumption 67). -/
def State.expire (s : State) (w : Wait) : State :=
  match w.kind with
  | .pool => s.trap 24 0 w.obj
  | .accept | .note => s.upd (fun t => (t.wr2 w.dst 0).pass w)
  | _ => if w.wkind = 0 then s else s.watchdogTrap w w.wkind
/-- R277: the gang of the thread waits for its slates. -/
def State.slateWait (s : State) (t : Thread) : Option Wait :=
  (s.gang? t.gang).bind (fun g => g.wait.map (fun since => { kind := .claim, since := since }))
/-- The wait that the watchdog of a thread watches. DEDUCED (assumption 67). -/
def State.watched (s : State) (t : Thread) : Option Wait :=
  match t.waitOf with
  | some w => if w.wkind ≠ 0 ∨ w.kind = .pool ∨ w.kind = .accept ∨ w.kind = .note then some w else s.slateWait t
  | none => if t.run = .ready ∧ t.handler.isNone then s.slateWait t else none
/-- R366: a thread's wait exceeds its limit. -/
def State.watchdog (s : State) (uid : Nat) : State :=
  match s.thread? uid with
  | none => s
  | some t =>
    match s.watched t, s.wdogLimit t with
    | some w, some n => if s.clockStopped t ∨ s.away t.gang then s else (s.reach (w.since + w.frozen + n)).asThread uid (·.expire w)
    | _, _ => s
def execWatchdogExpiry (uid : Nat) (s : State) : Out := .next (s.watchdog uid)

/-- R242: the thread stays in handler state too long. -/
def State.handlerLimit (s : State) (uid : Nat) : State :=
  match s.thread? uid with
  | none => s
  | some t =>
    match t.handler, s.wdogLimit t with
    | some h, some n => if s.anyHalted t ∨ t.isParked then s else (s.reach (h.since + h.frozen + n)).asThread uid State.failHandler
    | _, _ => s
def execHandlerTimeLimit (uid : Nat) (s : State) : Out := .next (s.handlerLimit uid)

/-! ### Answers to page requests (R180, R77, R287) -/

/-- A thread that parks on the request goes on. -/
def Thread.unpark (id : Nat) (t : Thread) : Thread := if t.run = .parked id then { t with run := .ready, asks := none } else t
/-- R362: DETAIL0 of the page fault that a refusal raises in a thread of the request's address space. DEDUCED (assumption 66). -/
def State.refusal (s : State) (t : Thread) (r : PageReq) : Dword :=
  s.pageDetail t (if r.exec then .exec else if r.write then .write else .read) 2
/-- R180, R242, R349, R357: the host refuses the request of the issuing thread, which parks on it. DEDUCED (assumption 66). -/
def State.denied (s : State) (r : PageReq) : State :=
  match s.me.entering, s.me.asks with
  | some t, _ => s.failEntry t
  | none, some (d, n) =>
    if d = 0 then s.upd (fun t => { t with run := .ready, asks := some (0, 0) })
    else s.upd (fun t => { (t.wr d 0x80000003) with pc := nextStart t.pc n, run := .ready, asks := none })
  | none, none =>
    let x : Trap := { cause := 14, pc := s.me.pc, faddr := r.va, d0 := s.refusal s.me r }
    let s := s.upd (fun t => { t with run := .ready })
    if s.me.handler.isNone ∧ (s.me.halted ∨ s.away s.me.gang) then s.holdTrap s.me.uid x else s.takeTrap x
/-- A command's answer: it runs again, or its fault is held pending. DEDUCED (assumption 66). -/
def CmdSt.answered (s : State) (r : PageReq) (ok : Bool) (uid elem : Nat) (st : CmdSt) : CmdSt :=
  if st ≠ .parked r.id then st
  else if ok then .queued
  else .faulted { cause := 14, faddr := r.va, elem := elem, code := ((s.thread? uid).map (fun t => (s.refusal t r).toNat)).getD 0 }
/-- R180: the host answers the `k`-th request, if that is outstanding. A write of the device whose page is refused is dropped. DEDUCED (assumption 66). DESIGN CHOICE (assumption 32). -/
def State.pageResponse (s : State) (k : Nat) (ok : Bool) : State :=
  match s.pageReqs[k]? with
  | none => s
  | some r =>
    if !s.outstanding r then s
    else
    let s : State := { s with
      pageReqs := s.pageReqs.filter (·.id ≠ r.id),
      copies := s.copies.map (fun c => { c with st := c.st.answered s r ok c.uid c.done }),
      streams := s.streams.map (fun c => { c with st := c.st.answered s r ok c.uid c.done }) }
    let rs := s.remotes.filter (·.st = .parked r.id)
    let cs := s.colls.filter (·.parked = some r.id)
    if ok then
      { s.mapThreads (Thread.unpark r.id) with
        remotes := s.remotes.map (fun x => if x.st = .parked r.id then { x with st := .queued } else x),
        colls := s.colls.map (fun x => if x.parked = some r.id then { x with parked := none } else x) }
    else
      let uids := (s.threads.filter (fun t => t.run = .parked r.id)).map (·.uid)
      let s := ({ s with devWrites := s.devWrites.filter (·.parked ≠ some r.id) } : State).settleAdds s
      let s := rs.foldl (fun (s : State) x => s.failRemote x 6) s
      let s := cs.foldl (fun (s : State) x => s.endColl x 4) s
      uids.foldl (fun (s : State) u =>
        if (s.thread? u).any (fun t => t.run == .parked r.id) then s.asThread u (·.denied r) else s) s

/-! ### Releases and handovers (R230, R238) -/

def State.confirmNth (s : State) (k : Nat) : State :=
  match s.holds[k]? with
  | some h => s.confirm h
  | none => s
def execReleaseConfirm (k : Nat) (s : State) : Out := .next (s.confirmNth k)
def State.verifyNth (s : State) (k : Nat) : State :=
  match s.handovers[k]? with
  | some r => s.verify r
  | none => s
def execHandoverRecord (k : Nat) (s : State) : Out := .next (s.verifyNth k)

/-! ### Engines (R169, R286, R260, R360) -/

/-- The machine check for heat. -/
def Trap.isHeat (t : Trap) : Bool := t.cause == 5 && t.d0 == 4
/-- R400: the thread has yet to take the machine check for heat. -/
def Thread.awaitsHeat (t : Thread) : Bool := t.run != .exited && (t.held.any Trap.isHeat || t.entering.any Trap.isHeat)
/-- The die has not stopped for heat: it does once its threads have taken the machine check (R400). DEDUCED (assumption 70). -/
def State.dieRuns (s : State) (die : Nat) : Bool :=
  ((s.die? die).map (fun d => d.enabled && (!d.stopped || s.threads.any (fun t => t.die == die && t.awaitsHeat)))).getD false
def State.onRunning (s : State) (core : Nat) (f : State → State) : State := if s.dieRuns (core / 64) then f s else s
def execStreamInstructionComplete (core : Nat) (s : State) : Out := .next (s.onRunning core (·.streamRun core))
def execCopyCommandStart (core : Nat) (s : State) : Out := .next (s.onRunning core (·.copyStart core))
def execCopyCommandComplete (core k : Nat) (s : State) : Out := .next (s.onRunning core (·.copyComplete core k))
def execMatrixCommandExecute (core : Nat) (s : State) : Out := .next (s.onRunning core (·.matrixRun core))

/-- The ticks for which commands and rounds of a core are held: that of the copy command at its head, of the matrix command at its head, and of
its rounds. -/
def State.heldTicks (s : State) (core : Nat) : List Nat :=
  let copy := ((s.copiesOf core).find? (fun c => !c.started)).bind (·.trig)
  let mat := (s.matrixOf core).head?.bind (·.trig)
  let colls := (s.colls.filter (fun c => c.core = core)).filterMap (·.trig)
  (copy.toList ++ mat.toList ++ colls).map (·.tick)
/-- R360: what is held on a core starts, if its tick has come. -/
def State.startHeld (s : State) (core : Nat) : State :=
  let s := (s.colls.filter (fun c => c.core = core)).foldl (fun (s : State) c => s.startColl c) s
  s.onRunning core (fun s => (s.copyStart core).matrixRun core)
/-- R360: the next tick for which something of a core is held comes, and what is ready then starts. -/
def State.triggerTick (s : State) (core : Nat) : State :=
  match ((s.heldTicks core).filter (s.time < ·)).min? with
  | none => s.startHeld core
  | some t => ((s.startHeld core).reach t).startHeld core
def execTriggerTick (core : Nat) (s : State) : Out := .next (s.triggerTick core)

/-! ### Dispatch (R306 to R319) and pre-emption (R367 to R371) -/

def execGangPlacement (die : Nat) (place : List Place) (s : State) : Out := .next (s.placeNext die place)
def execGangEnd (gang : Nat) (s : State) : Out := .next (s.gangEnd gang)
def execBatchTimerSeal (k : Nat) (s : State) : Out := .next (s.timerSeal k)
def execDealChunk (card : Nat) (s : State) : Out := .next (s.dealChunk card)
def execCancelGraceExpiry (region : Nat) (s : State) : Out := .next (s.graceOver region)
def execPreemptionTrap (uid : Nat) (s : State) : Out := .next (s.preemptionTrap uid)
def execLightSave (gang : Nat) (s : State) : Out := .next (s.lightSave gang)
def execPreemptionGraceExpiry (gang : Nat) (s : State) : Out := .next (s.preemptGrace gang)
def execSavedGangResume (gang : Nat) (place : List Place) (s : State) : Out := .next (s.resumeGang gang place)

/-! ### The fabric (R330 to R361, R395 to R397) -/

def execParcelArrival (p : ParcelImage) (s : State) : Out := .next (s.parcelArrives p)
def execDeliveryConfirmed (num : Nat) (s : State) : Out := .next (s.delivered num)
def execDeliveryFailed (num : Nat) (status : Word) (s : State) : Out := .next (s.undelivered num status.toNat)
def execRemoteOperationArrival (op : RemoteOp) (s : State) : Out := .next (s.remoteArrives op)
def execRmaCompletion (k : Nat) (status : Word) (data : List Byte) (s : State) : Out := .next (s.rmaDone k status.toNat data)
def execCollectiveRoundComplete (k : Nat) (status : Word) (sends : List (List Byte)) (s : State) : Out := .next (s.collDone k status.toNat sends)
def execCollectiveTimeout (k : Nat) (s : State) : Out := .next (s.collTimeout k)
def execFlitReceive (port : Nat) (crcOk : Bool) (s : State) : Out := .next (s.flit port crcOk)
/-- R395: no flit or idle arrives for 100 µs. -/
def execLinkIdleTimeout (port : Nat) (s : State) : Out := .next (s.linkIdle port)
def execLinkStateUpdate (u : LinkUpdate) (s : State) : Out := .next (s.applyLink u)
def execDrainRoundEnd (k : Nat) (s : State) : Out := .next (s.drainEnd k)
def execLinkStateEvent (k : Nat) (s : State) : Out := .next (s.linkEvent k)
def execLinkRetrain (port : Nat) (ok : Bool) (s : State) : Out := .next (s.retrained port ok)

end Sys2Proof.Machine
end

