-- ==== Sys2Proof/Machine/Host.lean ====
section
/-! DEFINITION. What the host, firmware and the environment do (21, 95): reads and writes of memory (R188), invalidations (R372), doorbells, the
Jokebry service, roots (R403), boot and attestation (R406, R407), audits (R394), soft errors (R398, R399), heat and power (R400). -/
namespace Sys2Proof.Machine

/-- R402: a host is attached. DESIGN CHOICE (assumption 68). -/
def State.hosted (s : State) (k : State → State) : State := if s.attached.isEmpty then s else k s

/-! ### Memory (R187, R188) -/

/-- The port through which the host's traffic enters: that of the first die that it is attached to. DESIGN CHOICE (assumption 68). -/
def State.hostPort (s : State) : Nat := whoCxl (s.attached.headD 0)
def hostCause : Cause := { host := true }
/-- R188, R236: a host read moves the line from its one writer to readers, of which the host is one; a line among readers gets one more. -/
def State.hostReads (s : State) (line : Nat) : State :=
  let p := some s.hostPort
  match (s.lineState line).owner with
  | .writer d m => s.handover line (.readers [d] p m) (s.unitHbm line) true hostCause
  | .readers ds none o => s.handover line (.readers ds p o) (s.unitHbm line) false hostCause
  | .readers _ (some _) _ => s
  | .home | .atomic | .port _ => s.grant line (.readers [] p false) hostCause
/-- R400: the device may decode the address over CXL. DESIGN CHOICE (assumption 69). -/
def State.decodes (s : State) (pa n : Nat) : Bool := s.envCxl.any (fun r => decide (r.1 ≤ pa ∧ pa + n ≤ r.1 + r.2))
/-- R188, R196, R399: the host reads the line of an address of device memory; one that is held is waited for, one in error or not populated gives
an error completion, and one under a read count loses a count. DESIGN CHOICE (assumption 68). -/
def State.hostLine (s : State) (pa : Nat) : State :=
  let line := pa / 64
  match s.physKind pa with
  | .host => s
  | .bad => { s with answer := [] }
  | _ =>
    if !s.decodes (64 * line) 64 then { s with answer := [] }
    else if s.lineHeld line then s
    else if s.inError (64 * line) 64 then { s with answer := [] }
    else
      let s := ((s.hostReads line).readCounted line hostCause).correct (64 * line) 64
      { s with answer := lineBytes s.mem line }
/-- R15: the code of a core in the inventory: its class, or 4 for a disabled core. DESIGN CHOICE (assumption 36). -/
def inventoryCode (c : Option CoreClass) : Nat := (c.map classBits).getD 4
/-- R15: the class of a core as it leaves manufacture, before the guarantee. DESIGN CHOICE (assumption 7). -/
def madeClass (core : Nat) : Option CoreClass :=
  match (Config.coreClass core).toNat with
  | 0 => some .a | 1 => some .b | 2 => some .c | 3 => some .d | _ => none
/-- R15: at least 240 cores are usable, and at least 224 of class A. -/
def inventoryOk : Bool :=
  let l := (List.range 256).map madeClass
  decide (240 ≤ l.countP (·.isSome)) && decide (224 ≤ l.countP (· == some .a))
/-- R15: the class of a core, from the inventory; what is made does not leave manufacture without the guarantee. DESIGN CHOICE (assumption 7). -/
def inventory (core : Nat) : Option CoreClass := if inventoryOk then madeClass core else some .a
/-- What the host reads: a line of memory, or, through Jokebry, a die's Galliard counters (R394), a die's core inventory (R15), ENVCXL (R400), a die's
certificate (R407), the size of the parcel heap (R331), the count of dropped events (R405), or that a die's image failed to verify (R406). How they are laid out is the model's choice. DESIGN CHOICE (assumption 36). -/
def State.hostRead (s : State) (src : HostSource) : State :=
  match src with
  | .memory pa => s.hostLine pa
  | .galliard die => (match s.die? die with
    | some d => { s with answer := d.galliard.toList.flatMap (natBytes 8) }
    | none => s)
  | .inventory die => { s with answer := (List.range 64).flatMap (fun i => natBytes 1 (inventoryCode (inventory (64 * die + i)))) }
  | .envCxl => { s with answer := s.envCxl.flatMap (fun r => natBytes 8 r.1 ++ natBytes 8 r.2) }
  | .certificate die => { s with answer := Config.certificate die }
  | .heap => { s with answer := natBytes 8 s.heapSize }
  | .dropped vif => (match s.vifs.find? (·.id = vif) with
    | some v => { s with answer := natBytes 8 v.dropped }
    | none => s)
  | .boot die => (match s.die? die with
    | some d => { s with answer := natBytes 1 (if d.failed then 1 else 0) }
    | none => s)
def execHostRead (src : HostSource) (s : State) : Out := .next (s.hosted (·.hostRead src))

/-- R188, R237: the host's port takes a line to write it. -/
def State.hostWrites (s : State) (line : Nat) : State :=
  if (s.lineState line).owner = .port s.hostPort then s else s.grant line (.port s.hostPort) hostCause
/-- R398: a line of the host's memory leaves the L2s of the module, and an error of its copy with it. DESIGN CHOICE (assumption 26). -/
def State.forgetCopy (s : State) (line : Nat) : State :=
  if s.physKind (64 * line) = .host then { s with badWords := s.badWords.filter (fun w => w / 8 ≠ line) } else s
/-- R188: a host write invalidates every copy. A held line is waited for (R230); addresses that hold nothing take nothing. DESIGN CHOICE (assumption 68). -/
def State.hostWrite (s : State) (pa : Nat) (bytes : List Byte) : State :=
  if bytes.isEmpty ∨ s.physKind pa = .bad ∨ s.physKind (pa + bytes.length - 1) = .bad ∨ !s.decodes pa bytes.length ∨ (linesOf pa bytes.length).any s.lineHeld then s
  else
    let s := (linesOf pa bytes.length).foldl (fun (s : State) l => (s.hostWrites l).forgetCopy l) s
    (s.atomicWrite pa bytes none).markMap pa bytes.length false
def execHostWrite (pa : Nat) (bytes : List Byte) (s : State) : Out := .next (s.hosted (·.hostWrite pa bytes))

/-- R187: the host snoops a line of its memory. DESIGN CHOICE (assumption 68). -/
def State.snoop (s : State) (pa : Nat) (invalidate : Bool) : State :=
  let line := pa / 64
  if s.physKind pa ≠ .host ∨ s.lineHeld line then s
  else if invalidate then
    (s.homeLine line hostCause).forgetCopy line
  else s.hostReads line
def execCxlCacheSnoop (pa : Nat) (invalidate : Bool) (s : State) : Out := .next (s.hosted (·.snoop pa invalidate))

/-- R372: the invalidation acts as `INV.RANGE` at `.DEV` for the ASID of every region that uses the PASID; it waits for its drain, and for a held line that it would write back (R230).
DESIGN CHOICE (assumption 68). -/
def State.atsInvalidate (s : State) (pasid : BitVec 20) (base len : Nat) : State :=
  let asids := ((s.regions.filter (·.pasid = pasid)).map (·.asid)).dedup
  if base % 4096 ≠ 0 ∨ len = 0 ∨ len % 4096 ≠ 0 ∨ asids.any (fun a => s.inFlight 5 0 (s.removed 5 0 a (some (base, len))) || s.flushHeld 5 0 (s.removed 5 0 a (some (base, len)))) then s
  else asids.foldl (fun (s : State) a => s.invalidate 5 0 a (some (base, len))) s
def execAtsInvalidationRequest (pasid : BitVec 20) (base len : Nat) (s : State) : Out := .next (s.hosted (·.atsInvalidate pasid base len))
def execPageRequestResponse (k : Nat) (ok : Bool) (s : State) : Out := .next (s.hosted (·.pageResponse k ok))

/-! ### Jokebry (R367, R369, R387, R403) -/

/-- R387, R403. -/
def State.ring (s : State) (vif : Nat) (bell : BitVec 5) : State := s.mapVif vif (fun v => { v with bells := v.bells ||| (1#32 <<< bell.toNat) })
def execDoorbellRing (vif : Nat) (bell : BitVec 5) (s : State) : Out := .next (s.hosted (·.ring vif bell))

/-- R367: the host's request acts as `CTX.SAVE` of the root. DESIGN CHOICE (assumption 36). -/
def State.hostPreempt (s : State) (vif : Nat) : State :=
  match (s.vifs.find? (·.id = vif)).bind (·.root) with
  | some r => (s.setHold r true).preempt r false
  | none => s
def execJokebryPreemptRequest (vif : Nat) (s : State) : Out := .next (s.hosted (·.hostPreempt vif))

/-- Bytes at a virtual address of a region's space, in runs of 64, read by the device for itself; none where a line is held (R230), a word is in error (R399), or nothing is there. -/
def State.deviceRuns (s : State) (core : Nat) (r : Region) (va : Dword) : Nat → List Byte → Option (List Byte × State)
  | 0, acc => some (acc, s)
  | k + 1, acc =>
    match s.regionTranslate core r va .read with
    | (.ok pa, s) =>
      if s.physKind pa = .bad || (linesOf pa 64).any s.lineHeld || s.inError pa 64 then none
      else
        let s := s.l2Read (core / 64) pa 64 { region := BitVec.ofNat 32 r.num }
        s.deviceRuns core r (va + 64) k (acc ++ readBytes s.mem pa 64)
    | _ => none
/-- R304: a launch block in a region's space, with its count of tile entries. -/
def State.deviceBlock (s : State) (core : Nat) (r : Region) (va : Dword) : Option (LaunchBlock × Nat × State) := do
  let (lb, s) ← s.deviceRuns core r va 4 []
  let b := bytesNat lb
  let nt := bitsOf b 535 528
  let (ts, s) ← s.deviceRuns core r (BitVec.ofNat 64 (bitsOf b 639 576)) ((8 * Nat.min nt 64 + 63) / 64) []
  some (launchBlockOf va b ((List.range (Nat.min nt 64)).map (fun i => bytesNat ((ts.drop (8 * i)).take 8))), nt, s)
/-- R309: the nodes of a root with their launch blocks. -/
def State.deviceNodes (s : State) (core : Nat) (r : Region) (tab : Dword) : Nat → List (Node × Nat) → Option (List (Node × Nat) × State)
  | 0, acc => some (acc, s)
  | k + 1, acc => do
    let (bs, s) ← s.deviceRuns core r tab 1 []
    let n := bytesNat bs
    let (blk, nt, s) ← s.deviceBlock core r (BitVec.ofNat 64 (bitsOf n 63 0))
    s.deviceNodes core r (tab + 64) k (acc ++ [(nodeOf n blk, nt)])
/-- A host launches a job card at an address of the root's space: the checks of R323, whose status is the answer; a card that cannot be read, or is not
aligned, is not launched. The host's own order releases the card and its arguments (R313). DESIGN CHOICE (assumption 6). DESIGN CHOICE (assumption 36). -/
def State.hostLaunch (s : State) (vif : Nat) (va : Dword) : State :=
  match ((s.vifs.find? (·.id = vif)).bind (·.root)).bind s.region?, s.dies.find? (·.enabled) with
  | some r, some d =>
    let core := 64 * d.id
    let card : Option (Nat × LaunchBlock × Nat × State) := do
      let (bs, s) ← s.deviceRuns core r va 1 []
      let (lb, nt, s) ← s.deviceBlock core r (BitVec.ofNat 64 (bitsOf (bytesNat bs) 63 0))
      some (bytesNat bs, lb, nt, s)
    let done (w : Nat) (s : State) : State := { s with answer := natBytes 4 w }
    (match if va.toNat % 64 = 0 then card else none with
    | none => s
    | some (n, lb, nt, s) =>
      if r.state ≠ .active then done 2 s
      else if !cardOk n lb nt r.classes then done 4 s
      else if 64 ≤ (s.cards.filter (·.region = r.num)).length then done 3 s
      else
        let c := jobCard s.fresh r.num 0 n lb
        done 0 { (s.bump.accept r.num c.n) with cards := s.cards ++ [c] })
  | _, _ => s

/-- R369, R404: the registers of a virtual interface that the host writes: its grace in microseconds, its event ring, how many entries the host has
taken, the lifting of the hold that a request has made, and the launch of a job card (assumption 36). -/
def State.jokebry (s : State) (vif reg value : Nat) : State :=
  match reg with
  | 0 => if 1 ≤ value ∧ value ≤ 10000 then s.mapVif vif (fun v => { v with grace := 1000 * value }) else s
  | 1 => s.mapVif vif (fun v => { v with ring := value, taken := 0, written := 0 })
  | 2 => s.mapVif vif (fun v => { v with slots := value, taken := 0, written := 0 })
  | 3 => s.mapVif vif (fun v => if v.taken ≤ value ∧ value ≤ v.written then { v with taken := value } else v)
  | 4 => (match (s.vifs.find? (·.id = vif)).bind (·.root) with
    | some r => s.setHold r false
    | none => s)
  | 5 => s.hostLaunch vif (BitVec.ofNat 64 value)
  | _ => s
def execJokebryRegisterWrite (vif reg value : Nat) (s : State) : Out := .next (s.hosted (·.jokebry vif reg value))

/-- What the roots hold between them of a budget (R402: the service sets budgets within the device's totals). -/
def State.rootSum (s : State) (f : Region → Nat) : Nat := ((s.regions.filter (·.parent = 0)).map f).sum
/-- R15: the partitions of a core. -/
def partitions : Option CoreClass → Nat
  | some .a | some .c => 4
  | some .b | some .d => 3
  | none => 0
/-- R402: the threads that the module can hold, one in each home lane of a partition, and the bytes of its memory (R175). DESIGN CHOICE (assumption 69). -/
def State.laneCount (s : State) : Nat := 64 * (s.cores.map (fun c => partitions c.cls)).sum
/-- DESIGN CHOICE (assumption 69). -/
def State.memorySize (s : State) : Nat := 240000000000 * (s.dies.filter (·.enabled)).length
/-- R402: the record pools of two roots in one address space do not overlap. DESIGN CHOICE (assumption 69). -/
def State.poolApart (s : State) (r : Region) : Bool :=
  !s.regions.any (fun x => x.parent == 0 && x.asid == r.asid && overlapping x.pool x.poolb r.pool r.poolb)
/-- R301, R302, R326: the image is one that the service may make a root of. DESIGN CHOICE (assumption 69). -/
def State.rootOk (s : State) (r : Region) (nodes : List (Node × Nat)) (vdt : Nat) : Bool :=
  imageOk r && nodes.all (fun x => nodeOk x.1 x.2 r.classes (r.pool, r.poolb)) && s.vdtOk vdt && ptValid r.ptel
  && decide (s.rootSum (·.cores) + r.cores ≤ (s.cores.filter (·.cls.isSome)).length) && decide (s.rootSum (·.slots) + r.slots ≤ s.laneCount)
  && decide (s.rootSum (·.poolb) + r.poolb ≤ s.memorySize) && s.poolApart r && decide (s.regions.length < 4096)
/-- R402, R403: the root RCB of a virtual interface that has none, made from an image; its structures lie in the root's own space. An image that fails
a check leaves no trace. DESIGN CHOICE (assumption 69). -/
def State.rootCreate (s : State) (vif : Nat) (image : List Byte) : State :=
  match s.vifs.find? (·.id = vif), s.dies.find? (·.enabled) with
  | some v, some d =>
    if v.root.isSome ∨ image.length ≠ 256 then s
    else
      let n := bytesNat image
      let core := 64 * d.id
      let r : Region := { Sys2Proof.Machine.regionOf s.freeNum 0 vif 0 n [] [] with ovr := 0xFFFF }
      let va := r.vdtAddr
      let made : Option (Region × List (Option Nat) × State) := do
        let (vw, s) ← s.deviceRuns core r (BitVec.ofNat 64 (va.toNat / 64 * 64)) 1 []
        let w := bytesNat ((vw.drop (va.toNat % 64)).take 8)
        let (nodes, s) ← s.deviceNodes core r r.nodetab (bitsOf n 831 816) []
        let r : Region := { r with nodes := nodes.map (·.1), vdt := vdtOf w }
        if s.rootOk r nodes w then (s.carve r).map (fun runs => (r, runs, s)) else none
      match made with
      | some (r, runs, s) => (s.addRegion r runs).mapVif vif (fun v => { v with root := some r.num })
      | none => s
  | _, _ => s
def execRootRcbCreation (vif : Nat) (image : List Byte) (s : State) : Out := .next (s.hosted (·.rootCreate vif image))

/-! ### Attachment (R331, R402) -/

/-- R175, R402: a host attaches through a die's port: MBASE is programmed, and firmware sets the parcel heap and the save area aside. DESIGN CHOICE (assumption 69). -/
def State.attach (s : State) (die : Nat) (mbase : Dword) (heap save : Nat) : State :=
  if mbase.toNat % 2 ^ 42 ≠ 0 ∨ !s.decodes mbase.toNat (2 ^ 42) ∨ !((s.die? die).map (·.enabled)).getD false then s
  else if s.attached.isEmpty then
    { s with attached := [die], mbase := mbase.toNat, heap := mbase.toNat + die * 2 ^ 40, heapSize := heap, saveSize := save }
  else if mbase.toNat = s.mbase ∧ !s.attached.contains die then { s with attached := s.attached ++ [die] }
  else s
def execHostAttachment (die : Nat) (mbase : Dword) (heap save : Nat) (s : State) : Out := .next (s.attach die mbase heap save)
/-- R398: the port of a die goes down. DESIGN CHOICE (assumption 69). -/
def State.portDown (s : State) (die : Nat) : State := { s with attached := s.attached.filter (· ≠ die) }
def execCxlPortDown (die : Nat) (s : State) : Out := .next (s.portDown die)

/-! ### Boot, firmware and attestation (R401, R406, R407) -/

/-- R10: no two diagonal dies are enabled without a die between them. DESIGN CHOICE (assumption 7). -/
def diesOk (ds : List Nat) : Bool :=
  (!(ds.contains 0 && ds.contains 3) || ds.contains 1 || ds.contains 2) && (!(ds.contains 1 && ds.contains 2) || ds.contains 0 || ds.contains 3)
def State.enabledDies (s : State) : List Nat := (s.dies.filter (·.enabled)).map (·.id)
/-- R406: a die boots: an image that verifies brings it up, as far as R10 lets firmware enable it; one that does not leaves it disabled. DESIGN CHOICE (assumption 7). DESIGN CHOICE (assumption 75). -/
def State.boot (s : State) (die : Nat) (verified : Bool) (version : Word) : State :=
  let s := ({ s with powered := true } : State).mapDie die (fun d => if d.enabled then d else { d with failed := !verified })
  if !verified ∨ s.enabledDies.contains die ∨ !diesOk (die :: s.enabledDies) then s
  else
    let s : State := if s.enabledDies.isEmpty then { s with chip := BitVec.ofNat 16 (1 + Config.chipId % 0xFFFE), routes := Config.bootRoutes } else s
    let s := s.bump.mapDie die (fun d => { d with enabled := true, fw := version, image := s.fresh })
    { s with cores := s.cores.map (fun c => if c.id / 64 = die then { c with cls := inventory c.id } else c) }
def execDieBoot (die : Nat) (verified : Bool) (version : Word) (s : State) : Out := .next (s.boot die verified version)
/-- R401, R407: an image that fails verification is not activated. -/
def State.firmware (s : State) (die : Nat) (verified : Bool) (version : Word) : State :=
  if verified then s.bump.mapDie die (fun d => if d.enabled then { d with fw := version, image := s.fresh } else d) else s
def execFirmwareUpdate (die : Nat) (verified : Bool) (version : Word) (s : State) : Out := .next (s.firmware die verified version)

/-- An octet string of `n` bytes, most significant first (R407). -/
def octets (n v : Nat) : List Byte := (natBytes n v).reverse
/-- R407: what the configuration hash covers, as one number. -/
def State.configNum (s : State) : Nat :=
  (s.envCxl.flatMap (fun r => [r.1, r.2])).foldl (fun a x => a * 2 ^ 64 + x) (maskOf s.enabledDies)
/-- R407: bytes 0x000 to 0x10F of the report. -/
def State.reportBody (s : State) (d : Die) (nonce : List Byte) : List Byte :=
  natBytes 4 1 ++ natBytes 2 s.chip.toNat ++ natBytes 1 d.id ++ natBytes 1 (maskOf s.enabledDies) ++ natBytes 8 s.time ++ nonce
  ++ octets 48 (Config.firmwareHash d.id d.fw.toNat d.image) ++ octets 48 (Config.configHash s.configNum) ++ natBytes 4 s.envPow ++ natBytes 4 s.envInj
  ++ natBytes 4 d.fw.toNat ++ natBytes 4 0 ++ octets 48 (Config.identityKey d.id) ++ octets 48 (Config.identityKey d.id / 2 ^ 384)
/-- R407: the attestation report of an enabled die. DESIGN CHOICE (assumption 75). -/
def State.attest (s : State) (die : Nat) (nonce : List Byte) : State :=
  match s.die? die with
  | some d =>
    if d.enabled ∧ nonce.length = 48 then
      let b := s.reportBody d nonce
      let sig := Config.attestSign die (bytesNat b)
      { s with answer := b ++ octets 48 sig ++ octets 48 (sig / 2 ^ 384) }
    else s
  | none => s
def execAttestationRequest (die : Nat) (nonce : List Byte) (s : State) : Out := .next (s.hosted (·.attest die nonce))

/-! ### Galliard (R394, R243) -/

/-- CRC-64 of ECMA-182, most significant bit first, as R394 uses it. -/
def crc64Step : Nat → Nat → Nat
  | 0, c => c
  | k + 1, c => crc64Step k (if c.testBit 63 then (c * 2 % 2 ^ 64) ^^^ 0x42F0E1EBA9EA3693 else c * 2)
/-- DEDUCED (assumption 27). -/
def crc64 (bs : List Byte) : Nat := (bs.foldl (fun c b => crc64Step 8 (c ^^^ b.toNat * 2 ^ 56)) (2 ^ 64 - 1)) ^^^ (2 ^ 64 - 1)
/-- The last byte written at each address. -/
def lastBytes : List (Nat × Byte) → List (Nat × Byte)
  | [] => []
  | x :: l => if l.any (·.1 = x.1) then lastBytes l else x :: lastBytes l
/-- R394: the signature of a run: of its records, each thread's in emit order, and of the last byte stored at each address. DEDUCED (assumption 27). -/
def signature (records : List (Nat × List Byte)) (stores : List (Nat × Byte)) : Nat :=
  crc64 (((records.insertionSort (fun x y => x.1 ≤ y.1)).flatMap (·.2))
    ++ ((lastBytes stores).insertionSort (fun x y => x.1 ≤ y.1)).flatMap (fun x => natBytes 8 x.1 ++ [x.2]))
def Audit.signature (a : Audit) : Nat := Sys2Proof.Machine.signature a.records a.stores
/-- The bytes that a run leaves in a line. -/
def bytesIn (stores : List (Nat × Byte)) (line : Nat) : List (Nat × Byte) :=
  ((lastBytes stores).filter (fun x => x.1 / 64 = line)).insertionSort (fun x y => x.1 ≤ y.1)
/-- The line of the first of the gang's records, in the order of the signature, that the replay emitted otherwise or not at all. -/
def Audit.recordLine (a : Audit) (r : ReplayOut) : Option Nat :=
  let mine := (a.records.zip a.recLines).insertionSort (fun x y => x.1.1 ≤ y.1.1)
  let theirs := r.records.insertionSort (fun x y => x.1 ≤ y.1)
  ((mine.zipIdx).find? (fun x => theirs[x.2]? ≠ some x.1.1)).map (·.1.2)
/-- R240: the first line in which the stored bytes of the two runs differ; where only records do, that of the first record that differs; where the replay only emitted more, it
is a free value. DEDUCED (assumption 27). -/
def State.auditLine (s : State) (a : Audit) (r : ReplayOut) : Nat :=
  let lines := (((a.stores ++ r.stores).map (fun x => x.1 / 64)).dedup).insertionSort (· ≤ ·)
  match lines.find? (fun l => bytesIn a.stores l ≠ bytesIn r.stores l) with
  | some l => l
  | none => (a.recordLine r).getD (Config.freeWord s.fresh)
/-- R240: the record of an audit violation. DEDUCED (assumption 27). -/
def State.auditRecord (s : State) (a : Audit) (r : ReplayOut) : List Byte :=
  ({ rule := 64, kind := 2, unit := a.die * 2 ^ 14 + 3 * 2 ^ 12, scope := 7, interval := 0, line := s.auditLine a r * 64, pc := 0, tid := 0xFFFFFFFF,
     region := BitVec.ofNat 32 a.region, expected := BitVec.ofNat 32 a.signature, observed := BitVec.ofNat 32 (signature r.records r.stores) } : Violation).record
/-- R243, R405: a fault domain ends for an audit violation, and the host is told. -/
def State.auditEnds (s : State) (record : List Byte) (fdom : Nat) : State :=
  let s' := s.terminate fdom
  match s'.regions.find? (·.fdom = fdom) with
  | some r => s'.postRegion 2 true r record
  | none => s'
def State.auditCount (s : State) (die : Nat) (k : Fin 5) : State :=
  s.mapDie die (fun d => { d with galliard := d.galliard.set k ((d.galliard[k] + 1) % 2 ^ 64) })
/-- R394: a core that a replay may use: free, of a class that suits the gang, on another enabled die, or in another quad where no other die is enabled. DEDUCED (assumption 27). -/
def State.replayOk (s : State) (a : Audit) (core : Nat) : Bool :=
  let suits (k : CoreClass) : Bool := a.classes.getLsbD (classBits k) && (!a.lb.anyJoint || k == .a || k == .b) && (decide (a.lb.lpc ≤ 192) || k == .a || k == .c)
  ((s.core? core).bind (·.cls)).any suits && (s.onCore core).isEmpty &&
  (if s.dies.any (fun d => d.enabled && d.id != a.die) then core / 64 != a.die && ((s.die? (core / 64)).map (·.enabled)).getD false
   else core / 64 == a.die && core / 4 != a.quad)
/-- R394: a replay of the oldest selected gang of a die, which has run on a core that it may use, is compared, or counted as abandoned. DEDUCED (assumption 27). -/
def State.auditReplay (s : State) (die core : Nat) (replay : Option ReplayOut) : State :=
  match s.audits.find? (fun a => a.die = die ∧ a.selected) with
  | none => s
  | some a =>
    let s' : State := { s with audits := s.audits.filter (·.gang ≠ a.gang) }
    if a.replay ≠ some { core := core, out := replay } then s
    else match replay with
    | none => s'.auditCount die 3
    | some r =>
      if signature r.records r.stores = a.signature then s'.auditCount die 1
      else ((a.fdom :: a.seen).dedup).foldl (fun (x : State) f => x.auditEnds (s.auditRecord a r) f) ((s'.auditCount die 2).bump)
def execAuditReplayComplete (die : Nat) (replay : Replay) (s : State) : Out := .next (s.auditReplay die replay.core replay.out)

/-! ### Errors, heat, power (R398 to R400) -/

/-- R398, R399: a word of device memory gets an error. DESIGN CHOICE (assumption 26). -/
def State.memError (s : State) (pa : Nat) (correctable : Bool) : State :=
  let w := pa / 8
  if s.physKind pa = .bad ∨ s.physKind pa = .host ∨ s.badWords.contains w then s
  else if correctable then (if s.weak.contains w then s else { s with weak := w :: s.weak })
  else { s with badWords := w :: s.badWords, weak := s.weak.filter (· ≠ w) }
/-- R398: the word is there, and on which die. DESIGN CHOICE (assumption 26). -/
def State.struckAt (s : State) (x : Struck) : Option Nat :=
  let there (b : Bool) (die : Nat) : Option Nat := if b then some die else none
  match x with
  | .memory pa => some (s.homeDie pa)
  | .l2 die pa => there (s.physKind pa != .bad && (match (s.lineState (pa / 64)).owner with | .writer d _ => d == die | .readers ds _ _ => ds.contains die | _ => false)) die
  | .regs uid pair => (s.thread? uid).bind (fun t => there (t.run != .exited && decide (pair < 128) && decide (2 * pair < t.budget)) t.die)
  | .scratch gang core w => there (((s.pad? gang core).map (fun p => decide (8 * w < p.size))).getD false) (core / 64)
  | .l1 core w => there (s.l1? core (w / 8)).isSome (core / 64)
  | .acc core id => there (s.acc? core id).isSome (core / 64)
  | .slate core n => there (s.slate? core n).isSome (core / 64)
  | .tile core id => there (s.tile? core id).isSome (core / 64)
  | .tlb core asid page => there ((s.core? core).any (fun c => (c.tlb ++ c.walkTlb).any (fun e => e.asid == asid && e.va == page))) (core / 64)
  | .dieTlb die asid page => there ((s.die? die).any (fun d => d.tlb.any (fun e => e.asid == asid && e.va == page))) die
  | .code core line _ => there ((s.core? core).any (fun c => c.icache.any (·.1 = line))) (core / 64)
/-- R398: an error strikes a word: a correctable one is corrected in place and counted; an uncorrectable one stays; a bit of a line of code flips, which its
parity shows (R40). An error of memory that can be corrected waits for a read or the scrub. DESIGN CHOICE (assumption 26). -/
def State.softError (s : State) (x : Struck) (correctable : Bool) : State :=
  match s.struckAt x, x with
  | none, _ => s
  | some _, .memory pa => s.memError pa correctable
  | some _, .code core line bit =>
    s.mapCore core (fun c => { c with icache := c.icache.map (fun l => if l.1 = line then (l.1, l.2 ^^^ (1#512 <<< (bit % 512))) else l) })
  | some die, x =>
    if correctable then s.mapDie die (fun d => { d with corrected := d.corrected + 1 })
    else match x with
    | .l2 _ pa => { s with badWords := if s.badWords.contains (pa / 8) then s.badWords else pa / 8 :: s.badWords }
    | .regs uid pair => s.mapThread uid (fun t => if t.struck.contains pair then t else { t with struck := pair :: t.struck })
    | x => if s.struck.contains x then s else { s with struck := x :: s.struck }
def execSoftError (at_ : Struck) (correctable : Bool) (s : State) : Out := .next (s.softError at_ correctable)
/-- R398, R399: a pass corrects every correctable error of the die's memory, and counts them. DESIGN CHOICE (assumption 26). -/
def State.scrub (s : State) (die : Nat) : State :=
  let here (w : Nat) : Bool := s.homeDie (8 * w) == die
  { s.mapDie die (fun d => { d with corrected := d.corrected + s.weak.countP here }) with weak := s.weak.filter (fun w => !here w) }
def execScrubPass (die : Nat) (s : State) : Out := .next (s.scrub die)

/-- R400, R362: every running thread takes the machine check at its next boundary; a die then stops (`dieRuns`). DEDUCED (assumption 70). -/
def State.overheat (s : State) : State :=
  let running (t : Thread) : Bool := t.run != .exited && !t.isParked && !t.halted && !s.away t.gang
  { s.mapThreads (fun t => if running t then { t with held := t.held ++ [{ cause := 5, pc := t.pc, d0 := 4 }] } else t) with
    dies := s.dies.map (fun d => { d with stopped := true }) }
def execThermalCritical (s : State) : Out := .next s.overheat

/-- R400: a write narrows an envelope register, or is ignored. DESIGN CHOICE (assumption 69). -/
def State.narrow (s : State) (reg : EnvReg) (value : Nat) : State :=
  match reg with
  | .pow => if value ≤ s.envPow then { s with envPow := value } else s
  | .inj => if value ≤ s.envInj then { s with envInj := value } else s
  | .cxl ranges =>
    if ranges.all (fun r => s.envCxl.any (fun e => decide (e.1 ≤ r.1 ∧ r.1 + r.2 ≤ e.1 + e.2))) then { s with envCxl := ranges } else s
def execEnvelopeWrite (reg : EnvReg) (value : Nat) (s : State) : Out := .next (s.narrow reg value)

/-- R400: without power the module holds nothing; the host's memory is its own. DESIGN CHOICE (assumption 7). -/
def State.powerOff (s : State) : State :=
  { State.reset with powered := false, agenda := s.agenda, fresh := s.fresh, time := s.time,
                     mem := s.mem.filter (fun c => decide (c.1 < s.mbase ∨ s.mbase + 2 ^ 42 ≤ c.1)) }
def execPowerRemoval (s : State) : Out := .next s.powerOff

end Sys2Proof.Machine
end

