-- ==== Sys2Proof/Machine/Dispatch.lean ====
section
/-! DEFINITION. One arm for every row of the opcode table. -/
namespace Sys2Proof.Machine

/-- What an instruction or an event does to a state. -/
def exec (i : Instr) (s : State) : Host.Outcome State Fault Refusal :=
  match i with
  | .nop o m => Sys2Proof.Machine.execNop o m s
  | .bra o m => Sys2Proof.Machine.execBra o m s
  | .jmp o m => Sys2Proof.Machine.execJmp o m s
  | .call o m => Sys2Proof.Machine.execCall o m s
  | .calli o m => Sys2Proof.Machine.execCalli o m s
  | .ret o m => Sys2Proof.Machine.execRet o m s
  | .exit o m => Sys2Proof.Machine.execExit o m s
  | .yield o m => Sys2Proof.Machine.execYield o m s
  | .conv o m => Sys2Proof.Machine.execConv o m s
  | .barGrp o m => Sys2Proof.Machine.execBarGrp o m s
  | .guardSet o m => Sys2Proof.Machine.execGuardSet o m s
  | .guardClr o m => Sys2Proof.Machine.execGuardClr o m s
  | .plog o m => Sys2Proof.Machine.execPlog o m s
  | .pmovRd o m => Sys2Proof.Machine.execPmovRd o m s
  | .pmovWr o m => Sys2Proof.Machine.execPmovWr o m s
  | .sread o m => Sys2Proof.Machine.execSread o m s
  | .swrite o m => Sys2Proof.Machine.execSwrite o m s
  | .brdec o m => Sys2Proof.Machine.execBrdec o m s
  | .brv o m => Sys2Proof.Machine.execBrv o m s
  | .nap o m => Sys2Proof.Machine.execNap o m s
  | .ipref o m => Sys2Proof.Machine.execIpref o m s
  | .feSet o m => Sys2Proof.Machine.execFeSet o m s
  | .feTest o m => Sys2Proof.Machine.execFeTest o m s
  | .add o m => Sys2Proof.Machine.execAdd o m s
  | .sub o m => Sys2Proof.Machine.execSub o m s
  | .addc o m => Sys2Proof.Machine.execAddc o m s
  | .subb o m => Sys2Proof.Machine.execSubb o m s
  | .mul o m => Sys2Proof.Machine.execMul o m s
  | .mulh o m => Sys2Proof.Machine.execMulh o m s
  | .mad o m => Sys2Proof.Machine.execMad o m s
  | .div o m => Sys2Proof.Machine.execDiv o m s
  | .rem o m => Sys2Proof.Machine.execRem o m s
  | .min o m => Sys2Proof.Machine.execMin o m s
  | .max o m => Sys2Proof.Machine.execMax o m s
  | .abs o m => Sys2Proof.Machine.execAbs o m s
  | .neg o m => Sys2Proof.Machine.execNeg o m s
  | .and o m => Sys2Proof.Machine.execAnd o m s
  | .or o m => Sys2Proof.Machine.execOr o m s
  | .xor o m => Sys2Proof.Machine.execXor o m s
  | .andn o m => Sys2Proof.Machine.execAndn o m s
  | .shl o m => Sys2Proof.Machine.execShl o m s
  | .shr o m => Sys2Proof.Machine.execShr o m s
  | .sar o m => Sys2Proof.Machine.execSar o m s
  | .rot o m => Sys2Proof.Machine.execRot o m s
  | .bfx o m => Sys2Proof.Machine.execBfx o m s
  | .bfi o m => Sys2Proof.Machine.execBfi o m s
  | .popc o m => Sys2Proof.Machine.execPopc o m s
  | .clz o m => Sys2Proof.Machine.execClz o m s
  | .brev o m => Sys2Proof.Machine.execBrev o m s
  | .cmp o m => Sys2Proof.Machine.execCmp o m s
  | .sel o m => Sys2Proof.Machine.execSel o m s
  | .mov o m => Sys2Proof.Machine.execMov o m s
  | .lea o m => Sys2Proof.Machine.execLea o m s
  | .fpAdd o m => Sys2Proof.Machine.execFpAdd o m s
  | .fpSub o m => Sys2Proof.Machine.execFpSub o m s
  | .fpMul o m => Sys2Proof.Machine.execFpMul o m s
  | .fma o m => Sys2Proof.Machine.execFma o m s
  | .fms o m => Sys2Proof.Machine.execFms o m s
  | .fnma o m => Sys2Proof.Machine.execFnma o m s
  | .fnms o m => Sys2Proof.Machine.execFnms o m s
  | .fpDiv o m => Sys2Proof.Machine.execFpDiv o m s
  | .sqrt o m => Sys2Proof.Machine.execSqrt o m s
  | .fpMin o m => Sys2Proof.Machine.execFpMin o m s
  | .fpMax o m => Sys2Proof.Machine.execFpMax o m s
  | .fpAbs o m => Sys2Proof.Machine.execFpAbs o m s
  | .fpNeg o m => Sys2Proof.Machine.execFpNeg o m s
  | .cpysgn o m => Sys2Proof.Machine.execCpysgn o m s
  | .fpCmp o m => Sys2Proof.Machine.execFpCmp o m s
  | .fclass o m => Sys2Proof.Machine.execFclass o m s
  | .rint o m => Sys2Proof.Machine.execRint o m s
  | .scale o m => Sys2Proof.Machine.execScale o m s
  | .getexp o m => Sys2Proof.Machine.execGetexp o m s
  | .cvt o m => Sys2Proof.Machine.execCvt o m s
  | .cvti o m => Sys2Proof.Machine.execCvti o m s
  | .cvtf o m => Sys2Proof.Machine.execCvtf o m s
  | .padd o m => Sys2Proof.Machine.execPadd o m s
  | .pmul o m => Sys2Proof.Machine.execPmul o m s
  | .pfma o m => Sys2Proof.Machine.execPfma o m s
  | .pdot o m => Sys2Proof.Machine.execPdot o m s
  | .pcvt o m => Sys2Proof.Machine.execPcvt o m s
  | .pmax o m => Sys2Proof.Machine.execPmax o m s
  | .shfl o m => Sys2Proof.Machine.execShfl o m s
  | .bcast o m => Sys2Proof.Machine.execBcast o m s
  | .vote o m => Sys2Proof.Machine.execVote o m s
  | .laneRed o m => Sys2Proof.Machine.execLaneRed o m s
  | .laneScan o m => Sys2Proof.Machine.execLaneScan o m s
  | .laneChain o m => Sys2Proof.Machine.execLaneChain o m s
  | .matchAny o m => Sys2Proof.Machine.execMatchAny o m s
  | .rcp o m => Sys2Proof.Machine.execRcp o m s
  | .rsq o m => Sys2Proof.Machine.execRsq o m s
  | .exp2 o m => Sys2Proof.Machine.execExp2 o m s
  | .log2 o m => Sys2Proof.Machine.execLog2 o m s
  | .sin o m => Sys2Proof.Machine.execSin o m s
  | .cos o m => Sys2Proof.Machine.execCos o m s
  | .tanh o m => Sys2Proof.Machine.execTanh o m s
  | .ssync o m => Sys2Proof.Machine.execSsync o m s
  | .ld o m => Sys2Proof.Machine.execLd o m s
  | .ldSignExtend o m => Sys2Proof.Machine.execLdSignExtend o m s
  | .st o m => Sys2Proof.Machine.execSt o m s
  | .ldu o m => Sys2Proof.Machine.execLdu o m s
  | .stz o m => Sys2Proof.Machine.execStz o m s
  | .stm o m => Sys2Proof.Machine.execStm o m s
  | .pref o m => Sys2Proof.Machine.execPref o m s
  | .prefCnt o m => Sys2Proof.Machine.execPrefCnt o m s
  | .cctl o m => Sys2Proof.Machine.execCctl o m s
  | .cdisc o m => Sys2Proof.Machine.execCdisc o m s
  | .salloc o m => Sys2Proof.Machine.execSalloc o m s
  | .sfree o m => Sys2Proof.Machine.execSfree o m s
  | .probe o m => Sys2Proof.Machine.execProbe o m s
  | .atom o m => Sys2Proof.Machine.execAtom o m s
  | .atomFloat o m => Sys2Proof.Machine.execAtomFloat o m s
  | .atomCas o m => Sys2Proof.Machine.execAtomCas o m s
  | .red o m => Sys2Proof.Machine.execRed o m s
  | .redFloat o m => Sys2Proof.Machine.execRedFloat o m s
  | .fence o m => Sys2Proof.Machine.execFence o m s
  | .waitVal o m => Sys2Proof.Machine.execWaitVal o m s
  | .ldLink o m => Sys2Proof.Machine.execLdLink o m s
  | .stCond o m => Sys2Proof.Machine.execStCond o m s
  | .barInit o m => Sys2Proof.Machine.execBarInit o m s
  | .barArrive o m => Sys2Proof.Machine.execBarArrive o m s
  | .barWait o m => Sys2Proof.Machine.execBarWait o m s
  | .barSync o m => Sys2Proof.Machine.execBarSync o m s
  | .barTest o m => Sys2Proof.Machine.execBarTest o m s
  | .barDrop o m => Sys2Proof.Machine.execBarDrop o m s
  | .chkInjectEarly o m => Sys2Proof.Machine.execChkInjectEarly o m s
  | .chkInjectHash o m => Sys2Proof.Machine.execChkInjectHash o m s
  | .chkInjectSkip o m => Sys2Proof.Machine.execChkInjectSkip o m s
  | .chkInjectDup o m => Sys2Proof.Machine.execChkInjectDup o m s
  | .chkRead o m => Sys2Proof.Machine.execChkRead o m s
  | .chkSync o m => Sys2Proof.Machine.execChkSync o m s
  | .chkClear o m => Sys2Proof.Machine.execChkClear o m s
  | .chkSample o m => Sys2Proof.Machine.execChkSample o m s
  | .mma o m => Sys2Proof.Machine.execMma o m s
  | .mmaJ o m => Sys2Proof.Machine.execMmaJ o m s
  | .mmaF64 o m => Sys2Proof.Machine.execMmaF64 o m s
  | .slateLd o m => Sys2Proof.Machine.execSlateLd o m s
  | .slateSp o m => Sys2Proof.Machine.execSlateSp o m s
  | .slateRel o m => Sys2Proof.Machine.execSlateRel o m s
  | .epi o m => Sys2Proof.Machine.execEpi o m s
  | .accRd o m => Sys2Proof.Machine.execAccRd o m s
  | .accWr o m => Sys2Proof.Machine.execAccWr o m s
  | .accZero o m => Sys2Proof.Machine.execAccZero o m s
  | .accZeroFree o m => Sys2Proof.Machine.execAccZeroFree o m s
  | .mstat o m => Sys2Proof.Machine.execMstat o m s
  | .mstatNow o m => Sys2Proof.Machine.execMstatNow o m s
  | .mreset o m => Sys2Proof.Machine.execMreset o m s
  | .tcopy o m => Sys2Proof.Machine.execTcopy o m s
  | .tstore o m => Sys2Proof.Machine.execTstore o m s
  | .twait o m => Sys2Proof.Machine.execTwait o m s
  | .tstate o m => Sys2Proof.Machine.execTstate o m s
  | .tdef o m => Sys2Proof.Machine.execTdef o m s
  | .tfree o m => Sys2Proof.Machine.execTfree o m s
  | .tfill o m => Sys2Proof.Machine.execTfill o m s
  | .tmov o m => Sys2Proof.Machine.execTmov o m s
  | .tcancel o m => Sys2Proof.Machine.execTcancel o m s
  | .emit o m => Sys2Proof.Machine.execEmit o m s
  | .emitTry o m => Sys2Proof.Machine.execEmitTry o m s
  | .launchJob o m => Sys2Proof.Machine.execLaunchJob o m s
  | .cancel o m => Sys2Proof.Machine.execCancel o m s
  | .quiesce o m => Sys2Proof.Machine.execQuiesce o m s
  | .resume o m => Sys2Proof.Machine.execResume o m s
  | .nodeCtlOff o m => Sys2Proof.Machine.execNodeCtlOff o m s
  | .nodeCtlOn o m => Sys2Proof.Machine.execNodeCtlOn o m s
  | .nodeCtlFlush o m => Sys2Proof.Machine.execNodeCtlFlush o m s
  | .regionNew o m => Sys2Proof.Machine.execRegionNew o m s
  | .regionFree o m => Sys2Proof.Machine.execRegionFree o m s
  | .qstat o m => Sys2Proof.Machine.execQstat o m s
  | .pclNew o m => Sys2Proof.Machine.execPclNew o m s
  | .pclFree o m => Sys2Proof.Machine.execPclFree o m s
  | .seal o m => Sys2Proof.Machine.execSeal o m s
  | .post o m => Sys2Proof.Machine.execPost o m s
  | .postNb o m => Sys2Proof.Machine.execPostNb o m s
  | .accept o m => Sys2Proof.Machine.execAccept o m s
  | .acceptTry o m => Sys2Proof.Machine.execAcceptTry o m s
  | .acceptBack o m => Sys2Proof.Machine.execAcceptBack o m s
  | .pclStat o m => Sys2Proof.Machine.execPclStat o m s
  | .rmaReg o m => Sys2Proof.Machine.execRmaReg o m s
  | .rmaDereg o m => Sys2Proof.Machine.execRmaDereg o m s
  | .rmaWr o m => Sys2Proof.Machine.execRmaWr o m s
  | .rmaWri o m => Sys2Proof.Machine.execRmaWri o m s
  | .rmaRd o m => Sys2Proof.Machine.execRmaRd o m s
  | .rmaRdBlk o m => Sys2Proof.Machine.execRmaRdBlk o m s
  | .rmaAtom o m => Sys2Proof.Machine.execRmaAtom o m s
  | .noteWait o m => Sys2Proof.Machine.execNoteWait o m s
  | .noteTry o m => Sys2Proof.Machine.execNoteTry o m s
  | .stPref o m => Sys2Proof.Machine.execStPref o m s
  | .ldPref o m => Sys2Proof.Machine.execLdPref o m s
  | .coll o m => Sys2Proof.Machine.execColl o m s
  | .collWait o m => Sys2Proof.Machine.execCollWait o m s
  | .timeRd o m => Sys2Proof.Machine.execTimeRd o m s
  | .trigAt o m => Sys2Proof.Machine.execTrigAt o m s
  | .waitUntil o m => Sys2Proof.Machine.execWaitUntil o m s
  | .hops o m => Sys2Proof.Machine.execHops o m s
  | .trap o m => Sys2Proof.Machine.execTrap o m s
  | .trapRet o m => Sys2Proof.Machine.execTrapRet o m s
  | .preemptDone o m => Sys2Proof.Machine.execPreemptDone o m s
  | .dbgBrk o m => Sys2Proof.Machine.execDbgBrk o m s
  | .invRange o m => Sys2Proof.Machine.execInvRange o m s
  | .invAsid o m => Sys2Proof.Machine.execInvAsid o m s
  | .ctxSave o m => Sys2Proof.Machine.execCtxSave o m s
  | .ctxSaveNow o m => Sys2Proof.Machine.execCtxSaveNow o m s
  | .ctxLoad o m => Sys2Proof.Machine.execCtxLoad o m s
  | .dbgHalt o m => Sys2Proof.Machine.execDbgHalt o m s
  | .dbgHaltArm o m => Sys2Proof.Machine.execDbgHaltArm o m s
  | .dbgHaltDisarm o m => Sys2Proof.Machine.execDbgHaltDisarm o m s
  | .dbgHaltQry o m => Sys2Proof.Machine.execDbgHaltQry o m s
  | .dbgStep o m => Sys2Proof.Machine.execDbgStep o m s
  | .dbgResume o m => Sys2Proof.Machine.execDbgResume o m s
  | .vdtLd o m => Sys2Proof.Machine.execVdtLd o m s
  | .envRd o m => Sys2Proof.Machine.execEnvRd o m s
  | .logRd o m => Sys2Proof.Machine.execLogRd o m s
  | .mchkRd o m => Sys2Proof.Machine.execMchkRd o m s
  | .sysIdle o m => Sys2Proof.Machine.execSysIdle o m s
  | .nopS32 o => Sys2Proof.Machine.execNopS32 o s
  | .exitS32 o => Sys2Proof.Machine.execExitS32 o s
  | .yieldS32 o => Sys2Proof.Machine.execYieldS32 o s
  | .convS32 o => Sys2Proof.Machine.execConvS32 o s
  | .retS32 o => Sys2Proof.Machine.execRetS32 o s
  | .barGrpS32 o => Sys2Proof.Machine.execBarGrpS32 o s
  | .guardSetS32 o => Sys2Proof.Machine.execGuardSetS32 o s
  | .guardClrS32 o => Sys2Proof.Machine.execGuardClrS32 o s
  | .plogAndS32 o => Sys2Proof.Machine.execPlogAndS32 o s
  | .plogOrS32 o => Sys2Proof.Machine.execPlogOrS32 o s
  | .plogXorS32 o => Sys2Proof.Machine.execPlogXorS32 o s
  | .plogAndnS32 o => Sys2Proof.Machine.execPlogAndnS32 o s
  | .twaitS32 o => Sys2Proof.Machine.execTwaitS32 o s
  | .tstateS32 o => Sys2Proof.Machine.execTstateS32 o s
  | .dbgBrkS32 o => Sys2Proof.Machine.execDbgBrkS32 o s
  | .ssyncS32 o => Sys2Proof.Machine.execSsyncS32 o s
  | .addI32S32 o => Sys2Proof.Machine.execAddI32S32 o s
  | .subI32S32 o => Sys2Proof.Machine.execSubI32S32 o s
  | .mulI32S32 o => Sys2Proof.Machine.execMulI32S32 o s
  | .andN32S32 o => Sys2Proof.Machine.execAndN32S32 o s
  | .orN32S32 o => Sys2Proof.Machine.execOrN32S32 o s
  | .xorN32S32 o => Sys2Proof.Machine.execXorN32S32 o s
  | .shlN32S32 o => Sys2Proof.Machine.execShlN32S32 o s
  | .shrN32S32 o => Sys2Proof.Machine.execShrN32S32 o s
  | .sarI32S32 o => Sys2Proof.Machine.execSarI32S32 o s
  | .minI32S32 o => Sys2Proof.Machine.execMinI32S32 o s
  | .maxI32S32 o => Sys2Proof.Machine.execMaxI32S32 o s
  | .minN32S32 o => Sys2Proof.Machine.execMinN32S32 o s
  | .maxN32S32 o => Sys2Proof.Machine.execMaxN32S32 o s
  | .movN32S32 o => Sys2Proof.Machine.execMovN32S32 o s
  | .cmpI32S32 o => Sys2Proof.Machine.execCmpI32S32 o s
  | .cmpN32S32 o => Sys2Proof.Machine.execCmpN32S32 o s
  | .addF32S32 o => Sys2Proof.Machine.execAddF32S32 o s
  | .subF32S32 o => Sys2Proof.Machine.execSubF32S32 o s
  | .mulF32S32 o => Sys2Proof.Machine.execMulF32S32 o s
  | .minF32S32 o => Sys2Proof.Machine.execMinF32S32 o s
  | .maxF32S32 o => Sys2Proof.Machine.execMaxF32S32 o s
  | .cmpF32S32 o => Sys2Proof.Machine.execCmpF32S32 o s
  | .addF64S32 o => Sys2Proof.Machine.execAddF64S32 o s
  | .subF64S32 o => Sys2Proof.Machine.execSubF64S32 o s
  | .mulF64S32 o => Sys2Proof.Machine.execMulF64S32 o s
  | .rcpF32S32 o => Sys2Proof.Machine.execRcpF32S32 o s
  | .rsqF32S32 o => Sys2Proof.Machine.execRsqF32S32 o s
  | .exp2F32S32 o => Sys2Proof.Machine.execExp2F32S32 o s
  | .log2F32S32 o => Sys2Proof.Machine.execLog2F32S32 o s
  | .nestCopy o => Sys2Proof.Machine.execNestCopy o s
  | .nestFill o => Sys2Proof.Machine.execNestFill o s
  | .nestCvt o => Sys2Proof.Machine.execNestCvt o s
  | .nestAdd o => Sys2Proof.Machine.execNestAdd o s
  | .nestSub o => Sys2Proof.Machine.execNestSub o s
  | .nestMul o => Sys2Proof.Machine.execNestMul o s
  | .nestFma o => Sys2Proof.Machine.execNestFma o s
  | .nestMin o => Sys2Proof.Machine.execNestMin o s
  | .nestMax o => Sys2Proof.Machine.execNestMax o s
  | .nestAbs o => Sys2Proof.Machine.execNestAbs o s
  | .nestNeg o => Sys2Proof.Machine.execNestNeg o s
  | .nestScale o => Sys2Proof.Machine.execNestScale o s
  | .nestRelu o => Sys2Proof.Machine.execNestRelu o s
  | .nestExp2 o => Sys2Proof.Machine.execNestExp2 o s
  | .nestTanh o => Sys2Proof.Machine.execNestTanh o s
  | .nestRcp o => Sys2Proof.Machine.execNestRcp o s
  | .nestRsq o => Sys2Proof.Machine.execNestRsq o s
  | .nestSum o => Sys2Proof.Machine.execNestSum o s
  | .nestSumsq o => Sys2Proof.Machine.execNestSumsq o s
  | .nestRmax o => Sys2Proof.Machine.execNestRmax o s
  | .nestRmin o => Sys2Proof.Machine.execNestRmin o s
  | .nestDot o => Sys2Proof.Machine.execNestDot o s
  | .nestArgmax o => Sys2Proof.Machine.execNestArgmax o s
  | .nestScan o => Sys2Proof.Machine.execNestScan o s
  | .instructionLineFill uid va => Sys2Proof.Machine.execInstructionLineFill uid va s
  | .longLatencyArrival uid k => Sys2Proof.Machine.execLongLatencyArrival uid k s
  | .napExpiry uid => Sys2Proof.Machine.execNapExpiry uid s
  | .watchdogExpiry uid => Sys2Proof.Machine.execWatchdogExpiry uid s
  | .handlerTimeLimit uid => Sys2Proof.Machine.execHandlerTimeLimit uid s
  | .pageRequestResponse k ok => Sys2Proof.Machine.execPageRequestResponse k ok s
  | .releaseConfirm k => Sys2Proof.Machine.execReleaseConfirm k s
  | .handoverRecord k => Sys2Proof.Machine.execHandoverRecord k s
  | .hostRead src => Sys2Proof.Machine.execHostRead src s
  | .hostWrite pa bytes => Sys2Proof.Machine.execHostWrite pa bytes s
  | .atsInvalidationRequest pasid base len => Sys2Proof.Machine.execAtsInvalidationRequest pasid base len s
  | .streamInstructionComplete core => Sys2Proof.Machine.execStreamInstructionComplete core s
  | .copyCommandStart core => Sys2Proof.Machine.execCopyCommandStart core s
  | .copyCommandComplete core k => Sys2Proof.Machine.execCopyCommandComplete core k s
  | .matrixCommandExecute core => Sys2Proof.Machine.execMatrixCommandExecute core s
  | .gangPlacement die place => Sys2Proof.Machine.execGangPlacement die place s
  | .gangEnd gang => Sys2Proof.Machine.execGangEnd gang s
  | .batchTimerSeal k => Sys2Proof.Machine.execBatchTimerSeal k s
  | .dealChunk card => Sys2Proof.Machine.execDealChunk card s
  | .cancelGraceExpiry region => Sys2Proof.Machine.execCancelGraceExpiry region s
  | .jokebryPreemptRequest vif => Sys2Proof.Machine.execJokebryPreemptRequest vif s
  | .preemptionTrap uid => Sys2Proof.Machine.execPreemptionTrap uid s
  | .lightSave gang => Sys2Proof.Machine.execLightSave gang s
  | .preemptionGraceExpiry gang => Sys2Proof.Machine.execPreemptionGraceExpiry gang s
  | .savedGangResume gang place => Sys2Proof.Machine.execSavedGangResume gang place s
  | .parcelArrival p => Sys2Proof.Machine.execParcelArrival p s
  | .deliveryConfirmed num => Sys2Proof.Machine.execDeliveryConfirmed num s
  | .deliveryFailed num status => Sys2Proof.Machine.execDeliveryFailed num status s
  | .remoteOperationArrival op => Sys2Proof.Machine.execRemoteOperationArrival op s
  | .rmaCompletion k status data => Sys2Proof.Machine.execRmaCompletion k status data s
  | .collectiveRoundComplete k status sends => Sys2Proof.Machine.execCollectiveRoundComplete k status sends s
  | .collectiveTimeout k => Sys2Proof.Machine.execCollectiveTimeout k s
  | .flitReceive port crcOk => Sys2Proof.Machine.execFlitReceive port crcOk s
  | .linkIdleTimeout port => Sys2Proof.Machine.execLinkIdleTimeout port s
  | .linkStateUpdate u => Sys2Proof.Machine.execLinkStateUpdate u s
  | .drainRoundEnd k => Sys2Proof.Machine.execDrainRoundEnd k s
  | .linkStateEvent k => Sys2Proof.Machine.execLinkStateEvent k s
  | .linkRetrain port ok => Sys2Proof.Machine.execLinkRetrain port ok s
  | .triggerTick core => Sys2Proof.Machine.execTriggerTick core s
  | .waitUntilReached uid => Sys2Proof.Machine.execWaitUntilReached uid s
  | .waitValTimeout uid => Sys2Proof.Machine.execWaitValTimeout uid s
  | .doorbellRing vif bell => Sys2Proof.Machine.execDoorbellRing vif bell s
  | .sysIdleTimeLimit uid => Sys2Proof.Machine.execSysIdleTimeLimit uid s
  | .auditReplayComplete die replay => Sys2Proof.Machine.execAuditReplayComplete die replay s
  | .scrubPass die => Sys2Proof.Machine.execScrubPass die s
  | .thermalCritical => Sys2Proof.Machine.execThermalCritical s
  | .envelopeWrite reg value => Sys2Proof.Machine.execEnvelopeWrite reg value s
  | .firmwareUpdate die verified version => Sys2Proof.Machine.execFirmwareUpdate die verified version s
  | .dieBoot die verified version => Sys2Proof.Machine.execDieBoot die verified version s
  | .attestationRequest die nonce => Sys2Proof.Machine.execAttestationRequest die nonce s
  | .rootRcbCreation vif image => Sys2Proof.Machine.execRootRcbCreation vif image s
  | .jokebryRegisterWrite vif reg value => Sys2Proof.Machine.execJokebryRegisterWrite vif reg value s
  | .storePerforms k => Sys2Proof.Machine.execStorePerforms k s
  | .cxlCacheSnoop pa invalidate => Sys2Proof.Machine.execCxlCacheSnoop pa invalidate s
  | .softError at_ correctable => Sys2Proof.Machine.execSoftError at_ correctable s
  | .powerRemoval => Sys2Proof.Machine.execPowerRemoval s
  | .hostAttachment die mbase heap save => Sys2Proof.Machine.execHostAttachment die mbase heap save s
  | .cxlPortDown die => Sys2Proof.Machine.execCxlPortDown die s

end Sys2Proof.Machine
end

