-- ==== Sys2Proof/Machine/Sched.lean ====
section
/-! DEFINITION. What moves next: fetching an instruction (R35 to R41), the turn of a thread (R66, R365), the events that the module brings about by
itself, and the order in which a step takes them (R67, R212; assumption 5). -/
namespace Sys2Proof.Machine

noncomputable section

/-! ### Fetching (R37, R40, R60) -/

/-- How fetching the issuing thread's next instruction ends: the instruction, or what becomes of the thread. -/
inductive Fetched where
  | got (i : Instr) (s : State)
  | not (s : State)

/-- R36, R37, R60: the instruction at syllable `k` of a line. -/
def instrAt (l : BitVec 512) (k : Nat) : Except Nat Instr :=
  let n := lenSyllables (syllable l k).toNat
  if 15 < k + n then .error 2
  else match decode (l.toNat / 2 ^ (32 * k) % 2 ^ (32 * n)) with
    | .ok i => .ok i
    | .error _ => .error 1
/-- The issuing thread's place in the bundle of its partition, where it issues in one. -/
def State.inBundle (s : State) : Option Issued := s.bundle.head?.filter (fun b => b.uid == s.me.uid && b.pc == s.me.pc)
/-- R41: the bundle of the issuing thread goes on with the line that has been fetched for it. DESIGN CHOICE (assumption 77). -/
def State.fuse (s : State) (l : BitVec 512) : State :=
  match s.bundle with
  | [] => s
  | b :: rest => if s.inBundle.isSome then { s with bundle := { b with line := some l } :: rest } else s
/-- The instruction of the issuing thread in a line. -/
def State.fetched (s : State) (l : BitVec 512) : Fetched :=
  match instrAt l (s.me.pc.toNat % 64 / 4) with
  | .ok i => .got i s
  | .error c => .not (s.trap c 0 0)
/-- R41: the line that has been fetched for the bundle of the issuing thread. -/
def State.bundleLine (s : State) : Option (BitVec 512) := s.inBundle.bind (·.line)
/-- The next instruction of the issuing thread. -/
def State.fetchInstr (s : State) : Fetched :=
  let pc := s.me.pc
  match s.bundleLine with
  | some l => s.fetched l
  | none =>
  match s.fetch pc with
  | (.line l, s) => (s.fuse l).fetched l
  | (.held, s) => .not (s.await .order)
  | (.park, s) => .not (s.park pc false true)
  | (.fault b, s) => .not (s.trap 14 pc (s.pageDetail s.me .exec b))
  | (.mchk d, s) => .not (s.trap 5 pc (BitVec.ofNat 64 d))

/-! ### The turn of a thread -/

/-- R365: the thread stands at an instruction boundary: its next instruction has not issued. DEDUCED (assumption 20). -/
def Thread.atBoundary (t : Thread) : Bool :=
  match t.run with
  | .ready => true
  | .waiting w => (match w.kind with
    | .source | .nap | .yielded | .tile | .claim | .queue | .order | .guardSlot | .pool => true
    | _ => false)
  | _ => false
/-- R365: of the traps held for a thread, the one of the lowest cause that came first. DEDUCED (assumption 20). -/
def firstHeld : List Trap → Option Trap
  | [] => none
  | t :: l => match firstHeld l with
    | some u => if u.cause < t.cause then some u else some t
    | none => some t
/-- R362: the frame of a held trap names the instruction that met an uncorrectable word, and else the boundary. DEDUCED (assumption 20). -/
def Trap.atInstr (t : Trap) : Bool := t.cause == 5 && !t.isHeat
/-- R38: the thread starts at its role's entry, once the target check has passed. -/
def State.startEntry (s : State) : State :=
  let s' := (s.upd (fun t => { t with starting := false })).transferTo s.me.pc true (State.upd (f := fun t => { t with run := .ready }))
  if (s'.me.isParked ∨ s'.me.waitOf.isSome) ∧ s'.me.entering.isNone then s'.upd (fun t => { t with starting := true }) else s'

/-- An instruction after which the thread comes to no other start. -/
def isExit : Instr → Bool
  | .exit _ _ | .exitS32 _ => true
  | _ => false
/-- R128: a ready thread comes to the instruction at its PC, which log records may name that have waited for it. -/
def State.atStart (i : Instr) (s : State) : State := if s.me.logs.isEmpty ∨ s.me.run ≠ .ready then s else s.logStart (isExit i)
/-- The issuing thread has its turn: it enters a trap (R364), passes its entry check (R38), takes a held trap at a boundary (R365), or
issues the instruction at its PC, which `ex` executes. DEDUCED (assumption 20). -/
def State.turn (ex : Instr → State → Out) (s : State) : Out :=
  match s.me.entering with
  | some t => .next (s.enterTrap t)
  | none =>
    if s.me.starting then .next s.startEntry
    else match if s.me.handler.isNone ∧ s.me.atBoundary then firstHeld s.me.held else none with
      | some t => .next ((s.upd (fun m => { m with held := m.held.erase t })).takeTrap (if t.atInstr then t else { t with pc := s.me.pc }))
      | none => match s.fetchInstr with
        | .got i s => ex i (s.atStart i)
        | .not s => .next s

/-- R66, R367, R371, R373, R277, R400: the thread may have a turn, apart from what it waits for. -/
def State.mayTurn (s : State) (t : Thread) : Bool :=
  (!t.halted || t.stepping) && s.dieRuns t.die && (t.awaitsHeat || !((s.die? t.die).map (·.stopped)).getD false) &&
  (match s.gang? t.gang with
  | some g => (match g.res with
    | .running => true
    | .preempting _ full => !full || s.chainEnds t
    | .saved => false) && (g.wait.isNone || t.handler.isSome)
  | none => false) && !s.unmarked t
/-- The thread is ready, or a debugger steps it. -/
def State.eligible (s : State) (t : Thread) : Bool :=
  s.mayTurn t && (t.run == .ready || (t.stepping && t.waitOf.isSome))
/-- A waiting thread whose instruction looks again at what it waits for. A thread that stands aside, or has given up its registers, does not. -/
def State.polls (s : State) (t : Thread) : Bool :=
  s.mayTurn t && (match t.waitOf with
  | some w => w.kind != .nap && w.kind != .yielded && w.kind != .preempted
  | none => false)
/-- A turn in which the debugger's step, if there is one, is used up (R374). A thread that stands aside uses it up by waiting on. DEDUCED (assumption 44). -/
def State.takeTurn (ex : Instr → State → Out) (s : State) : Out :=
  let s' := if s.me.stepping then s.upd (fun t => { t with stepping := false }) else s
  if s.me.run = .ready ∨ s.polls s.me then s'.turn ex else .next s'

/-! ### What the module does by itself -/

/-- Pending clocks of one thread that have run out. -/
def State.dueOf (s : State) (t : Thread) : List (State → State) :=
  let past (since frozen : Nat) (n : Option Nat) : Bool := (n.map (fun n => decide (since + frozen + n ≤ s.time))).getD false
  let lim := s.wdogLimit t
  (if (s.watched t).any (fun w => past w.since w.frozen lim) then [fun (s : State) => s.watchdog t.uid] else [])
  ++ (if t.handler.any (fun h => past h.since h.frozen lim) then [fun (s : State) => s.handlerLimit t.uid] else [])
  ++ (match t.waitOf with
    | some w => (match w.kind with
      | .value => if past w.since w.frozen w.limit then [fun (s : State) => s.valTimeout t.uid] else []
      | .idle => if past w.since 0 w.limit then [fun (s : State) => s.idleLimit t.uid] else []
      | _ => [])
    | none => [])
/-- The clocks of the threads that have run out. -/
def State.overdue (s : State) : List (State → State) := s.threads.flatMap s.dueOf
/-- The other clocks that have run out: of batches, cancellations, pre-emptions, rounds, triggers, drains and link-state events. -/
def State.dueEvents (s : State) : List (State → State) :=
  s.overdue
  ++ (s.batches.zipIdx.filter (fun x => timerPassed s x.1.region x.1.node x.1)).map (fun x => fun (s : State) => s.timerSeal x.2)
  ++ s.gangs.flatMap (fun g => match g.res with
    | .preempting t full => if full ∨ t + s.graceOf g.region ≤ s.time then [fun (s : State) => s.preemptGrace g.id] else []
    | _ => [])
  ++ (s.colls.zipIdx.filter (fun x => (x.1.limit.map (fun n => decide (x.1.since + x.1.frozen + n ≤ s.time))).getD false)).map (fun x => fun (s : State) => s.collTimeout x.2)
  ++ (((s.copies.map (·.core) ++ s.matrix.map (·.core) ++ s.colls.map (·.core)).dedup).filter
      (fun c => (s.heldTicks c).any (fun t => decide (t ≤ s.time)))).map (fun c => fun (s : State) => s.startHeld c)
  ++ (s.drains.zipIdx.filter (fun x => x.1.due ≤ s.time)).map (fun x => fun (s : State) => s.drainEnd x.2)
/-- The events of 95 that need nothing from outside the module, kind by kind, in the order in which they are tried. DESIGN CHOICE (assumption 5). -/
def internalKinds : List (State → List (State → State)) :=
  [fun s => s.threads.flatMap (fun t => (List.range t.prods.length).map (fun k => fun (s : State) => s.arrival t.uid k)),
   fun s => (List.range s.ops.length).map (fun k => fun (s : State) => s.storePerforms k),
   fun s => (List.range s.handovers.length).map (fun k => fun (s : State) => s.verifyNth k),
   fun s => (List.range s.holds.length).map (fun k => fun (s : State) => s.confirmNth k),
   fun s => (List.range s.devWrites.length).map (fun k => fun (s : State) => s.deviceRun k),
   fun s => ((s.streams.map (·.core)).dedup).map (fun c => fun (s : State) => s.onRunning c (·.streamRun c)),
   fun s => ((s.copies.map (·.core)).dedup).flatMap (fun c => (fun (s : State) => s.onRunning c (·.copyStart c)) ::
     (List.range (s.copies.filter (fun x => x.core = c ∧ x.started)).length).map (fun k => fun (s : State) => s.onRunning c (·.copyComplete c k))),
   fun s => ((s.matrix.map (·.core)).dedup).map (fun c => fun (s : State) => s.onRunning c (·.matrixRun c)),
   fun s => s.threads.map (fun t => fun (s : State) => s.preemptionTrap t.uid),
   fun s => s.gangs.flatMap (fun g => [fun (s : State) => s.gangEnd g.id, fun (s : State) => s.lightSave g.id, fun (s : State) => s.resumeGang g.id []]),
   fun s => s.cards.map (fun c => fun (s : State) => s.dealChunk c.id),
   fun s => ((s.ready.map (·.die) ++ (if s.batches.any (·.st == .sealed) then (s.dies.map (·.id)).take 1 else [])).dedup).map (fun d => fun (s : State) => s.placeNext d []),
   fun s => s.dueEvents,
   fun s => s.audits.filterMap (fun a => a.replay.map (fun r => fun (s : State) => s.auditReplay a.die r.core r.out)),
   fun s => (s.threads.filter (fun t => t.napOver.any (fun n => decide (n ≤ s.time)))).map (fun t => fun (s : State) => s.napEnds t.uid)]
def State.internals (s : State) : List (State → State) := internalKinds.flatMap (fun k => k s)
/-- The first event that changes anything. -/
def firstChange (s : State) : List (State → State) → Option State
  | [] => none
  | f :: l => if f s = s then firstChange s l else some (f s)
/-- R212: everything that may happen by itself is tried, each kind in turn; the last of a kind first, so that the numbers of the others stand. DESIGN CHOICE (assumption 5). -/
def State.moved (s : State) : State := internalKinds.foldl (fun s k => (k s).reverse.foldl (fun s f => f s) s) s

/-! ### Picking (R67) -/

/-- The partition of a thread, among all. -/
def Thread.picker (t : Thread) : Nat := 4 * t.core + t.part
/-- The ready threads of a partition in this cycle. -/
def State.readyAt (s : State) (k : Nat) : List Thread := s.threads.filter (fun t => t.picker == k && decide (t.since ≤ s.cycle) && s.eligible t)
/-- The thread that became ready first. -/
def oldest : List Thread → Option Thread
  | [] => none
  | t :: l => match oldest l with
    | some u => if u.since < t.since then some u else some t
    | none => some t
/-- R67: the threads could share a bundle: one PC, and one region. -/
def State.alike (s : State) (pc : Dword) (region : Nat) (t : Thread) : Bool := t.pc == pc && s.regionNum t == region
/-- How many threads a bundle with `t` of these threads can hold: one of each home lane. -/
def State.bundleSize (s : State) (l : List Thread) (t : Thread) : Nat := (((l.filter (s.alike t.pc (s.regionNum t))).map (·.lane)).dedup).length
/-- The bundle that a partition is issuing in this cycle: what issued last of it. -/
def State.opened (s : State) (k : Nat) : Option Issued := s.bundle.find? (·.part = k)
/-- R67: the oldest ready thread has to be in the next bundle. -/
def State.mustIssue (s : State) (o : Thread) : Bool := decide (o.since + 4096 ≤ s.cycle)
/-- R67: the threads of a partition that may issue next in this cycle: in ascending home lane, those of its bundle, which holds the oldest ready thread; or, with
`all`, of a larger bundle without it, while that thread is younger than 4,096 cycles. DESIGN CHOICE (assumption 5). -/
def State.candidates (s : State) (all : Bool) (k : Nat) : List Thread :=
  let r := s.readyAt k
  match oldest r with
  | none => []
  | some o =>
    let fits (t : Thread) : Bool := o.pc != t.pc || o.lane != t.lane || o.uid == t.uid
    let l := match s.opened k with
      | some b => r.filter (fun t => fits t && s.alike b.pc b.region t && decide (b.lane < t.lane))
      | none => r.filter (fun t => fits t && (s.alike o.pc (s.regionNum o) t || (all && decide (s.bundleSize r o < s.bundleSize r t) && !s.mustIssue o)))
    l.filter (fun t => !l.any (fun u => s.alike t.pc (s.regionNum t) u && decide (u.lane < t.lane)))
/-- R67: the bundles of this cycle are whole, and no thread that has to issue in it is left. -/
def State.cycleOver (s : State) : Bool :=
  s.threads.all (fun t => if (s.opened t.picker).isSome then (s.candidates true t.picker).isEmpty else !(oldest (s.readyAt t.picker)).any s.mustIssue)
def State.nextCycle (s : State) : State := { s with cycle := s.cycle + 1, bundle := [], turns := s.turns + 1 }
/-- The thread may issue next, in this cycle or in the next one. -/
def State.picks (s : State) (all : Bool) (t : Thread) : Bool := (s.candidates all t.picker).any (·.uid == t.uid)
/-- The thread that issues next where the agenda names none. DESIGN CHOICE (assumption 5). -/
def State.pick (s : State) : Option (State × Thread) :=
  match s.threads.find? (s.picks false) with
  | some t => some (s, t)
  | none => (s.threads.find? (s.nextCycle.picks false)).map (fun t => (s.nextCycle, t))

/-! ### The order of a step (R67, R212) -/

/-- How many cycles pass before the rest of the module moves; so many core cycles are 26 ticks (R4). DESIGN CHOICE (assumption 5). -/
def turnLimit : Nat := 64
/-- Thread `uid` issues next, and the thread that issued stands behind all others. -/
def State.rotateTo (s : State) (uid : Nat) : State :=
  match s.others.find? (·.uid = uid) with
  | none => s
  | some t => { s with me := t, others := s.others.filter (·.uid ≠ uid) ++ [s.me] }
/-- The issuing thread enters its partition's bundle; when it is ready again, its age is zero. -/
def State.enterBundle (s : State) : State :=
  { s.upd (fun t => { t with since := s.cycle + 1 }) with
    bundle := { part := s.me.picker, pc := s.me.pc, region := s.regionNum s.me, uid := s.me.uid, lane := s.me.lane, line := (s.opened s.me.picker).bind (·.line) } :: s.bundle }
/-- A ready thread issues. -/
def State.issueTurn (ex : Instr → State → Out) (s : State) (uid : Nat) : Out := ((s.rotateTo uid).enterBundle).takeTurn ex
def onNext (f : State → State) : Out → Out
  | .next s => .next (f s)
  | r => r
/-- A waiting thread looks again. One whose instruction has not issued becomes ready when it could, and stands behind the ready threads of its partition. DESIGN CHOICE (assumption 5). -/
def State.pollTurn (ex : Instr → State → Out) (s : State) : Out :=
  match s.takeTurn ex with
  | .next s' =>
    if s.me.atBoundary ∧ !(s.readyAt s.me.picker).isEmpty ∧ s'.me.run = .ready ∧ s'.me.handler = s.me.handler ∧ s'.me.entering.isNone then
      .next (s.upd (fun t => { t with run := .ready, stepping := false }))
    else .next s'
  | r => r
/-- The tick that a thread waits for, if it waits for one. -/
def Thread.wakesAt (t : Thread) : Option Nat :=
  match t.waitOf with
  | some w => if w.kind = .time then some w.obj.toNat else t.napOver
  | none => none
/-- R319, R396: time does not pass a tick at which something of the module ends: `n` ticks, or as many as are left until then. -/
def State.untilDue (s : State) (n : Nat) : Nat :=
  let ends := s.drains.map Drain.due ++ (s.regions.filter (·.state = .cancelling)).map (fun r => r.cancelAt + r.grace * 1024)
  (ends.filter (s.time < ·)).foldl (fun n d => Nat.min n (d - s.time)) n
/-- How far time moves while nothing else can: a tick if a thread looks for something or a clock of a trigger runs, else up to 16, but not past a tick that a
thread waits for. DESIGN CHOICE (assumption 30). -/
def State.idleTicks (s : State) : Nat :=
  if (s.threads.any (fun t => s.polls t && t.wakesAt.isNone)) || s.copies.any (·.trig.isSome) || s.matrix.any (·.trig.isSome) || s.colls.any (·.trig.isSome) then 1
  else Nat.max 1 (s.untilDue (s.threads.foldl (fun n (t : Thread) => match t.wakesAt with | some d => Nat.min n (d - s.time) | none => n) 16))
/-- The cycles of `n` ticks in which no thread issues (R4). -/
def State.idleCycles (s : State) (n : Nat) : State := if n = 0 then s else { s with cycle := s.cycle + (5 * n + 1) / 2, bundle := [] }
/-- Ticks pass in which no thread issues, with their cycles (R4). -/
def State.pass (s : State) (n : Nat) : State := { s.elapse n with cycle := s.cycle + (5 * n + 1) / 2, bundle := [] }
/-- R67: how many of `n` ticks can pass before the oldest ready thread must issue. DESIGN CHOICE (assumption 30). -/
def State.tickRoom (s : State) (n : Nat) : Nat :=
  if !s.cycleOver then 0
  else (s.threads.filter s.eligible).foldl (fun n (t : Thread) => Nat.min n ((t.since + 4096 - s.cycle) * 2 / 5)) (s.untilDue n)
/-- R67: an event that lets time pass happens only where no thread has to issue meanwhile. DESIGN CHOICE (assumption 30). -/
def State.inTime (s : State) : Out → Out
  | .next s' => if s.tickRoom (s'.time - s.time) = s'.time - s.time ∨ s'.time = s.time then .next (s'.idleCycles (s'.time - s.time)) else .next s
  | r => r
/-- The waiting thread whose turn it is to look again. -/
def State.nextPoll (s : State) : Option Thread :=
  match s.others.find? s.polls with
  | some t => some t
  | none => if s.polls s.me then some s.me else none
/-- A waiting thread looks again, if there is one, and time passes. -/
def State.pollThen (ex : Instr → State → Out) (f : State → State) (s : State) : Out :=
  match s.nextPoll with
  | some t => onNext f ((s.rotateTo t.uid).pollTurn ex)
  | none => .next (f s)
/-- No thread is ready: the module moves, or the waiting threads look again, one after another, while time passes. DESIGN CHOICE (assumption 5). -/
def State.idleStep (ex : Instr → State → Out) (s : State) : Out :=
  match firstChange s s.internals with
  | some s => .next s
  | none => s.pollThen ex (·.pass s.idleTicks)
/-- After `turnLimit` cycles the module moves, a waiting thread looks again, and time passes. DESIGN CHOICE (assumption 5). DESIGN CHOICE (assumption 30). -/
def State.otherTurn (ex : Instr → State → Out) (s : State) : Out := ({ s.moved with turns := 0 } : State).pollThen ex (fun s => s.elapse (s.untilDue 26))
/-- The next step where the agenda says nothing: a wait that has exceeded its limit ends (R366); else a ready thread issues (R67). After `turnLimit` cycles the
rest of the module moves. DESIGN CHOICE (assumption 5). -/
def State.freeStep (ex : Instr → State → Out) (s : State) : Out :=
  match firstChange s s.overdue with
  | some s => .next s
  | none =>
    if turnLimit ≤ s.turns then s.otherTurn ex
    else match s.pick with
      | some (s, t) => s.issueTurn ex t.uid
      | none => s.idleStep ex
/-- The agenda names a thread: it issues, if its partition's picker may choose it now; a waiting one looks again. DESIGN CHOICE (assumption 5). -/
def State.threadTurn (ex : Instr → State → Out) (s : State) (uid : Nat) : Out :=
  match s.thread? uid with
  | none => .next s
  | some t =>
    if s.eligible t then
      if s.picks true t then s.issueTurn ex uid
      else if s.cycleOver && s.nextCycle.picks true t then s.nextCycle.issueTurn ex uid
      else .next s
    else if s.polls t then (s.rotateTo uid).pollTurn ex
    else .next s

/-! ### What a step leaves due -/

/-- R66: the thread is ready, and no debugger or pre-emption holds it. -/
def State.isReady (s : State) (t : Thread) : Bool := t.run == .ready && s.mayTurn t
/-- R67: a thread that has become ready without a turn of its own begins a new age, behind every thread that is ready already (R85). -/
def State.wake (s old : State) : State :=
  s.mapThreads (fun t => if s.isReady t && !(old.thread? t.uid).any old.isReady then { t with since := s.cycle + 1 } else t)
/-- R310: the timers that have come to the end of their 256 ticks seal their batches. -/
def State.sealDue (s : State) : State :=
  (s.batches.filter (fun b => match s.node? b.region b.node with
    | some n => n.timer != 0 && n.en && decide (b.t0 + n.timer + 256 ≤ s.time)
    | none => false)).foldl (fun s b => s.sealBatch b.id true) s
/-- R360: the triggers whose tick has come while their command could not start are late; `was` is the time before. DEDUCED (assumption 29). -/
def State.lateTriggers (s : State) (was : Nat) : State :=
  { s with
    copies := s.copies.map (fun c => if c.started then c else
      { c with trig := c.trig.map (Trigger.passed s was ((s.copyHead c.core).any (·.id == c.id) && s.copyCan c)) })
    matrix := s.matrix.map (fun c => { c with trig := c.trig.map (Trigger.passed s was ((s.jointOf c).any s.jointCan)) })
    colls := s.colls.map (fun c => { c with trig := c.trig.map (Trigger.passed s was true) }) }
/-- R397: a link-state event is posted within 100 ms of the change. -/
def State.noticesDue (s : State) : State :=
  ((List.range s.notices.length).reverse.filter (fun k => (s.notices[k]?).any (fun n => decide (n.since + 100000000 ≤ s.time)))).foldl (fun (s : State) k => s.linkEvent k) s
/-- R396: the rounds of drains that are over. -/
def State.drainsDue (s : State) : State :=
  let one (s : State) (k : Nat) : State := if (s.drains[k]?).any (fun d => decide (d.due ≤ s.time)) then s.drainEnd k else s
  (List.range s.drains.length).reverse.foldl (fun s k => one (one (one s k) k) k) s
/-- R319: a region whose grace is over. -/
def State.gracePassed (s : State) (r : Region) : Bool := r.state == .cancelling && decide (r.cancelAt + r.grace * 1024 ≤ s.time)
/-- R319: the cancellations whose grace is over. -/
def State.gracesDue (s : State) : State := (s.regions.filter s.gracePassed).foldl (fun s r => s.graceOver r.num) s
/-- What time has made due does not wait for a later step. -/
def State.catchUp (s old : State) : State :=
  (if s.time = old.time then s else (((s.sealDue).lateTriggers old.time).noticesDue).drainsDue).gracesDue
/-- The end of a step. -/
def State.after (old s : State) : State := (s.wake old).catchUp old

/-- A die boots: all that a module without power can do. -/
def isBoot : Instr → Bool
  | .dieBoot _ _ _ => true
  | _ => false
/-- R185: a line leaves an L1, with its dirty bytes written back; a held line is waited for. DESIGN CHOICE (assumption 10). DESIGN CHOICE (assumption 76). -/
def State.evict (s : State) (core line : Nat) : State := if s.lineHeld line then s else s.wbInv core line {}
/-- R221: a reservation is lost for a reason of the hardware's own; not in the first 64 instructions, if none of them is another memory access. DESIGN CHOICE (assumption 31). -/
def State.loseResv (s : State) (uid : Nat) : State :=
  s.mapThread uid (fun t => if t.resv.any (fun r => decide (64 < r.age) || r.other) then { t with resv := none } else t)
/-- An access performs as `f` says, if it is there. -/
def State.onOp (s : State) (k : Nat) (f : MemOp → State) : State :=
  match s.ops[k]? with
  | some o => f o
  | none => s
/-- One entry of the agenda. Only an event row stands for an event; a thread that may not have its turn has none. DESIGN CHOICE (assumption 5). DESIGN CHOICE (assumption 10). DESIGN CHOICE (assumption 75). -/
def State.agendaStep (ex : Instr → State → Out) (s : State) : Agenda → Out
  | .event i => if i.isEvent then s.inTime (ex i s) else .next s
  | .thread uid => s.threadTurn ex uid
  | .tick n => .next (s.pass (s.tickRoom n))
  | .evict core line => .next (s.evict core line)
  | .evictCode core line => .next (s.mapCore core (fun c => { c with icache := c.icache.filter (·.1 ≠ line) }))
  | .loseResv uid => .next (s.loseResv uid)
  | .piece k part => .next (s.onOp k (fun o => s.performPart o part))
  | .race k bytes => .next (s.onOp k (fun o => s.performRace o bytes))
  | .reload k => .next (s.onOp k s.performAhead)
  | .retrain port => .next (s.retrain port)
  | .device k => .next (s.deviceRun k)
  | .element core k => .next (s.onRunning core (·.copyElement core k))
  | .ahead core k n => .next (s.onRunning core (·.copyAhead core k n))
  | .nest core => .next (s.onRunning core (·.streamRun core (some 1)))
  | .replay _ _ _ => .next s

/-! ### A replay (R392, R394) -/

/-- R392: what no gang of a replayable node executes: an atomic, a remote operation, a parcel, a collective between modules, and a read of the time. DEDUCED (assumption 27). -/
def unaudited : Instr → Bool
  | .atom _ _ | .atomFloat _ _ | .atomCas _ _ | .red _ _ | .redFloat _ _ => true
  | .rmaReg _ _ | .rmaDereg _ _ | .rmaWr _ _ | .rmaWri _ _ | .rmaRd _ _ | .rmaRdBlk _ _ | .rmaAtom _ _ | .noteWait _ _ | .noteTry _ _ => true
  | .pclNew _ _ | .pclFree _ _ | .seal _ _ | .post _ _ | .postNb _ _ | .accept _ _ | .acceptTry _ _ | .acceptBack _ _ | .pclStat _ _ | .stPref _ _ | .ldPref _ _ => true
  | .ld _ m | .ldSignExtend _ m | .st _ m | .ldu _ m | .stz _ m | .stm _ m => m.space == .par
  | .coll _ _ | .collWait _ _ | .timeRd _ _ => true
  | .sread _ m => SReg.ofCode m.sel == some .time
  | _ => false
/-- What moves a gang on without anything outside it. -/
def ownMove : Agenda → Bool
  | .thread _ | .tick _ | .piece _ _ | .element _ _ | .nest _ => true
  | .event i => match i with
    | .instructionLineFill _ _ | .longLatencyArrival _ _ | .napExpiry _ | .storePerforms _ | .releaseConfirm _ | .handoverRecord _ | .streamInstructionComplete _
    | .copyCommandStart _ | .copyCommandComplete _ _ | .matrixCommandExecute _ => true
    | _ => false
  | _ => false
/-- The module with nothing in it but its memory, in which the kept batch stands again. DEDUCED (assumption 27). -/
def State.emptied (s : State) (a : Audit) (r : Region) : State :=
  let put (s : State) (x : Byte × Nat) : State :=
    let va := a.recAddr + BitVec.ofNat 64 x.2
    match (s.regionTranslate (r.vdt.headD 0 * 64) r (BitVec.ofNat 64 (va.toNat / 4096 * 4096)) .read).1 with
    | .ok pa => { s with mem := writeByte s.mem (pa + va.toNat % 4096) x.1 }
    | _ => s
  a.batch.zipIdx.foldl put { s with
    me := s.me.gone, others := [], gangs := [], groups := [], pads := [], tiles := [], copies := [], streams := [], matrix := [], shadows := [], binds := [], accs := [],
    slates := s.slates.map Slate.blank, lates := [], ops := [], holds := [], handovers := [], remotes := [], colls := [], posts := [], ready := [], batches := [],
    blocks := [], cards := [], devWrites := [], pageReqs := [], audits := [], past := [], phases := [], bundle := [], agenda := [], turns := 0 }
/-- R394: the gang starts again at places that it may use, with what the auditor kept; the number of the new gang. DEDUCED (assumption 27). -/
def State.startReplay (s : State) (a : Audit) (place : List Place) : Option (Nat × State) :=
  match s.region? a.region with
  | none => none
  | some r =>
    let die := ((place.map (·.core)).headD 0) / 64
    let p : Spec := { region := { r with vdt := [die] }, die := die, lb := a.lb, recAddr := a.recAddr, nrec := a.nrec, depth := a.depth, pad := a.pad, origin := .none,
                      classes := a.classes, node := none, timed := false }
    let x := s.emptied a r
    if place.all (fun y => s.replayOk a y.core) && x.placeOk p place then
      some (x.fresh, { x.startGang p place with audits := [{ a with gang := x.fresh, selected := false, stores := [], records := [], lines := [], seen := [], recLines := [] }] })
    else none
/-- R394: how a replay has ended, if it has: it is abandoned when it takes a trap. -/
def State.replayEnd (s : State) (gang : Nat) (region : Nat) : Option (Option ReplayOut) :=
  let ts := s.threads.filter (·.gang = gang)
  if ts.any (fun t => t.handler.isSome || t.entering.isSome || !t.held.isEmpty) || (s.region? region).any (·.state == .dead) then some none
  else if s.gangOver gang then some ((s.audits.find? (·.gang = gang)).map (fun a => { stores := lastBytes a.stores, records := a.records }))
  else none
/-- The replay of a gang in the emptied module, as the agenda says; an excluded instruction ends it as a trap does. -/
def replayRun (ex : Instr → State → Out) (gang region : Nat) : List Agenda → State → Option (Option ReplayOut)
  | [], s => s.replayEnd gang region
  | e :: l, s => match s.replayEnd gang region with
    | some r => some r
    | none =>
      let s' : Out := if ownMove e then onNext s.after (s.agendaStep (fun i s => if unaudited i then .next (s.holdTrap s.me.uid { cause := 1, pc := s.me.pc }) else ex i s) e) else .next s
      match s' with
      | .next s => replayRun ex gang region l s
      | _ => none
/-- R394: the oldest selected gang of a die that has not been replayed runs again, and what it stores and emits is kept for the comparison; nothing else of the replay stays.
DEDUCED (assumption 27). -/
def State.replayGang (ex : Instr → State → Out) (s : State) (die : Nat) (place : List Place) (moves : List Agenda) : State :=
  match s.audits.find? (fun a => a.die = die ∧ a.selected) with
  | none => s
  | some a =>
    match if a.replay.isNone then s.startReplay a place else none with
    | none => s
    | some (gang, x) => match replayRun ex gang a.region moves x with
      | none => s
      | some out => { s with audits := s.audits.map (fun y => if y.gang = a.gang then { y with replay := some { core := (place.map (·.core)).headD 0, out := out } } else y) }
/-- One step: the agenda first; then what has become due. Without power only a boot is possible (R400, R406). DESIGN CHOICE (assumption 5). DESIGN CHOICE (assumption 7). -/
def stepWith (ex : Instr → State → Out) (s : State) : Out :=
  match s.agenda with
  | .replay die place n :: rest =>
    let s : State := { s with agenda := rest.drop n }
    if s.powered then .next (s.replayGang ex die place (rest.take n)) else .fault .poweredOff
  | a :: rest =>
    let s : State := { s with agenda := rest }
    if s.powered || (match a with | .event i => isBoot i | _ => false) then onNext s.after (s.agendaStep ex a) else .fault .poweredOff
  | [] => if s.powered then onNext s.after (s.freeStep ex) else .fault .poweredOff

/-! ### A program in place -/

/-- R35: a line that holds the bits `w` of one instruction at syllable 0, marked as a target, with its parities. DESIGN CHOICE (assumption 6). -/
def lineWith (w : Nat) : BitVec 512 :=
  let n := w % 2 ^ 256 + 2 ^ 480
  BitVec.ofNat 512 (n + (if oddOnes 256 (n % 2 ^ 256) then 2 ^ 510 else 0) + (if oddOnes 254 (n / 2 ^ 256) then 2 ^ 511 else 0))
/-- A layout of one level (R176): P 0, W 1, U 2, A 3, D 4, NX 5, PS 6, no C, the frame in [51:12]. DESIGN CHOICE (assumption 6). -/
def bareLayout : Dword := BitVec.ofNat 64
  (0 + 1 * 2 ^ 6 + 2 * 2 ^ 12 + 3 * 2 ^ 18 + 4 * 2 ^ 24 + 5 * 2 ^ 30 + 6 * 2 ^ 36 + 0 * 2 ^ 42 + 12 * 2 ^ 48 + 51 * 2 ^ 54 + 1 * 2 ^ 60)
/-- Where the code page of a bare program lies, virtually. DESIGN CHOICE (assumption 6). -/
def barePc : Dword := 0x1000
/-- The region, gang, group and thread of a bare program on core 0: a system region without nodes, one thread of all registers. DESIGN CHOICE (assumption 6). -/
def bareRegion (num ptroot : Nat) : Region :=
  { Sys2Proof.Machine.regionOf num 0 0 0 0 [] [0] with cores := 1, slots := 1, classes := 15, sys := true, asid := 1, ptel := bareLayout, ptroot := ptroot }
/-- DESIGN CHOICE (assumption 6). -/
def bareGang (id num : Nat) : Gang :=
  { id := id, region := num, die := 0, vdie := 0, lb := launchBlockOf 0 0 [], recAddr := 0, nrec := 0, depth := 0, origin := .none, res := .running,
    forced := false, wait := none, kept := [] }
/-- DESIGN CHOICE (assumption 6). -/
def bareGroup (gang : Nat) : Group :=
  { gang := gang, role := 0, gid := 0, width := 8, core := 0, part := 0, k := 0, started := 1, pad := false, guards := Vector.replicate 16 none,
    edgeUp := none, edgeDown := none, joint := 0, qturn := 0 }
/-- DESIGN CHOICE (assumption 6). -/
def bareThread (uid gang since : Nat) : Thread :=
  { Thread.vacant with uid := uid, gang := gang, budget := 256, since := since, pc := barePc, asid := 1, ptel := bareLayout, run := .ready }
/-- The bits `w` of one instruction stand in memory where thread `me`, the one thread of a bare program, fetches next: die 0 is up, its page table has
one entry, and nothing is cached of either (assumption 6). -/
def State.placeWord (s : State) (w : Nat) : State :=
  let table := s.mbase + 0x10000
  let code := s.mbase + 0x11000
  let num := s.freeNum
  { s with
    me := bareThread (s.fresh + 1) s.fresh s.cycle, others := s.me :: s.others, gangs := bareGang s.fresh num :: s.gangs, groups := bareGroup s.fresh :: s.groups,
    regions := bareRegion num table :: s.regions,
    dies := s.dies.map (fun d => if d.id = 0 then { d with enabled := true, stopped := false, tlb := [] } else d),
    cores := s.cores.map (fun c => if c.id = 0 then { c with cls := some .a, icache := [], tlb := [] } else c),
    mem := writeBytes (writeBytes s.mem (table + 8) (natBytes 8 (code + 7))) code (natBytes 64 (lineWith w).toNat),
    fresh := s.fresh + 2, turns := 0, bundle := [], agenda := [], powered := true }

end

end Sys2Proof.Machine
end

