-- ==== Sys2Proof/Machine/Step.lean ====
section
/-! DEFINITION. One step of the machine, and how a given instruction becomes the next one to run. -/
noncomputable section
namespace Sys2Proof.Machine

/-- One step: the scheduler of `Sched.lean` around `exec` (assumption 5). -/
def step (s : State) : Host.Outcome State Fault Refusal := stepWith exec s

/-- `s` with one thread whose next instruction is the word `w` (assumption 6). -/
def State.withFetchWord (s : State) (nbits w : Nat) : State := s.placeWord (w % 2 ^ nbits)

end Sys2Proof.Machine
end
end

