-- ==== Sys2Proof/Safety.lean ====
section
/-! DEFINITION. What claims about runs are stated in: completion, safe runs, and the well-formed states. -/
noncomputable section
namespace Sys2Proof.Machine

/-- The instruction or event answers a next state: it neither faults nor is refused. -/
def Completes (i : Instr) (s : State) : Prop := ∃ t, exec i s = .next t

/-- A step answers a next state. -/
def Steps (s t : State) : Prop := step s = .next t

/-- `n` steps from `s` all answer a next state. -/
def SafeFor : Nat → State → Prop
  | 0, _ => True
  | n + 1, s => ∃ t, Steps s t ∧ SafeFor n t

/-- The canonical form of every byte memory of the state: the module's and the host's bytes, the private spaces and the scratchpads. -/
def State.memoriesWf (s : State) : Prop :=
  Memory.wf s.mem = true ∧ (∀ t ∈ s.threads, Memory.wf t.priv = true) ∧ (∀ p ∈ s.pads, Memory.wf p.bytes = true)

/-! ### The conditions under which an instruction has its own effect -/

/-- R61, R70, R78, R398: the instruction passes the checks of its encoding, its privilege and its guard in the issuing thread, its sources are full, and none
of them is in error: its own effect follows. -/
def State.issues (s : State) (i : Instr) : Bool :=
  !i.isEvent && i.legal (some (s.bank s.me)) && i.inBudget (some (s.bank s.me)) s.me.budget && (!i.isSys || s.isSys s.me)
  && s.me.passes i.guard && s.me.sources (i.sources (some (s.bank s.me))) == .full && !s.me.readsStruck (i.sources (some (s.bank s.me)))

/-- R258: an instruction of the matrix units needs a core of class A or B; elsewhere it is illegal. -/
def needsUnit : Instr → Bool
  | .mma _ _ | .mmaJ _ _ | .slateLd _ _ | .slateSp _ _ | .slateRel _ _ | .epi _ _ | .accRd _ _ | .accWr _ _ | .accZero _ _ | .accZeroFree _ _ => true
  | _ => false
/-- The core of the issuing thread has the unit that the instruction needs. -/
def State.hasUnit (s : State) (i : Instr) : Bool := !needsUnit i || s.hasMatrix s.me.core

/-- The instruction has the effect `t` and the thread goes on at the next start (R37). -/
def CompletesTo (i : Instr) (s t : State) : Prop := exec i s = .next (t.advanceBy i.syllables)

/-- R127, R128: the flags take no trap and make no log record. -/
def State.quiet (s : State) (fl : Flags) : Bool := fl &&& ten s.me.fcr == 0

/-- R319: a cancellation point takes no trap. -/
def State.uncancelled (s : State) : Bool :=
  match s.regionOf s.me with
  | some r => !(r.state == .cancelling && !s.me.cancelTaken && s.me.handler.isNone)
  | none => true

/-- R72, R73, R76: every member that the mask names has arrived at the collective at which the issuing thread stands, at one instruction with one mask, and
`ps` are the participants with what they presented. -/
def State.gathered (s : State) (kind : WaitKind) (mask0 : BitVec 64) (exitOk : Bool) (data : List Dword) (ps : List (Nat × Nat × List Dword)) : Bool :=
  match s.group? s.me with
  | none => false
  | some g =>
    let mask := memberMask g.width mask0
    maskOk g s.me.member mask
    && !(s.instance_ mask).any (fun t => t.pc != s.me.pc || (t.arrival.map (·.mask)) != some mask)
    && !(s.members.filter (fun t => mask.getLsbD t.member && t.uid != s.me.uid)).any (fun t =>
        (t.run != .exited && behind s.me.ord t.ord) || (!exitOk && t.run == .exited))
    && s.participants kind mask exitOk data == some ps

end Sys2Proof.Machine
end
end

