-- ==== Sys2Proof/Certificates/Slice0/Obligations.lean ====
section
/-! DEFINITION. What is claimed of the model, for the provers. `Claims` holds the functions the statements are written with. -/
noncomputable section
open Sys2Proof Sys2Proof.Machine

/-! ### Encoding and stepping -/

namespace Claims

/-- L64 operands without a guard, with blocking sources. -/
def plain (d a b c : Reg) : LOps := { g := ⟨0, false⟩, fa := false, fb := false, fc := false, d := d, a := a, b := b, c := c, lit := none }

/-- Words written out from the field layouts of R42, R43, R46 to R51 and the maps of R55 and R57, with the instruction that each stands for: field by field,
the most significant field first. -/
def words : List (Nat × Nat × Instr) :=
  -- S32 `ADD.I32 g3, g1, g2`: FB FA PN P B A D OP6 LEN
  [(32, 0b0_0_0_000_000010_000001_000011_010000_00, .addI32S32 { g := ⟨0, false⟩, fa := false, fb := false, d := 3, a := 1, b := 2 }),
  -- L64 `ADD.I64.SAT g4.d, g6.d, g8.d` under `?!p2`: MOD15 (SUB, reserved, CP, ISAT, ITYPE) FC FB FA PN P C B A D OP8 LEN
   (64, 0b0000_000_000_01_011_0_0_0_1_010_00000000_00001000_00000110_00000100_00100000_01,
    .add { plain 4 6 8 0 with g := ⟨2, true⟩ } { sub := 0, cp := 0, sat := true, ty := .i64 }),
  -- W96 `BRA` by −4: LIT32 and MOD15 (SUB, reserved, SEL8)
   (96, 0b11111111111111111111111111111100_0000_000_00000000_0_0_0_0_000_00000000_00000000_00000000_00000000_00000001_10,
    .bra { plain 0 0 0 0 with lit := some 0xFFFFFFFC } { sub := 0, sel := 0 }),
  -- L64 `CVT.E4M3.F32.RS g6, g4` (the worked example of 06): MOD15 (SUB, FTZ, SAT, RND, TYPE5)
   (64, 0b0000_0_00_101_00101_0_0_0_0_000_00000001_00000000_00000100_00000110_01010011_01,
    .cvt (plain 6 4 0 1) { sub := 0, ftz := false, sat := .none, rnd := .rs, ty := .e4m3 }),
  -- L64 `LD.64` of `.GLB`, `g10.d` from `g12.d`, FA set: MOD15 (reserved, SPACE, SIZE, EVICT, SCOPE, ORD)
   (64, 0b00_00_011_000_010_00_0_0_1_0_000_00000000_00000000_00001100_00001010_01110000_01,
    .ld { plain 10 12 0 0 with fa := true } { space := .glb, size := 3, evict := 0, scope := .core, ord := .rlx }),
  -- L64 `ATOM` SUB 1 of `.N32` at `.DEV`, `.AR`: MOD15 (SUB, reserved, SPACE, DTYPE, SCOPE, ORD)
   (64, 0b0001_0_00_000_101_11_0_0_0_0_000_00000101_00000000_00001100_00001010_10000000_01,
    .atom (plain 10 12 0 5) { sub := 1, space := .glb, ty := .n32, scope := .dev, ord := .ar }),
  -- L64 `TFREE t7`: MOD15 (SUB2, SCOPE, TYPE5, GS), GS 31
   (64, 0b00_000_00000_11111_0_0_0_0_000_00000000_00000000_00000000_00000111_10110101_01,
    .tfree (plain 7 0 0 0) { sub := 0, scope := .th, ty := .f64, gs := none })]

end Claims

/-- R42, R43, R46 to R51, R55, R57: a few words of the encoding, each written out field by field, decode to the instruction that they stand for. -/
def Obligations.SpecWordsDecode : Prop := ∀ x ∈ Claims.words, decodeTableWord x.1 x.2.1 = some x.2.2

/-- R36, R42 to R60: for every well-formed instruction, the bits that the encoder gives decode to it, whatever its operands are. -/
def Obligations.DecodeInvertsEncode : Prop :=
  ∀ i : Instr, i.isEvent = false → i.wf = true → ∃ n, encode i = some n ∧ n < 2 ^ (32 * i.syllables) ∧ decode n = .ok i

/-- R60: bits that decode are those of the instruction that they decode to: no two encodings stand for one instruction, and no bit below its length is
ignored. -/
def Obligations.EncodeInvertsDecode : Prop :=
  ∀ (n : Nat) (i : Instr), decode n = .ok i → encode i = some (n % 2 ^ (32 * i.syllables)) ∧ i.wf = true ∧ i.isEvent = false

namespace Claims

/-- `x` is the state in which the thread issues whose turn comes next: the module has power, the agenda is empty, no clock has run out, the picker chooses
the thread (R67), which then stands first and in its partition's bundle, and the thread enters no trap, is not starting and has no held trap to take. -/
structure turnComes (s x : State) : Prop where
  power : s.powered = true
  agenda : s.agenda = []
  clocks : ∀ f ∈ s.overdue, f s = s
  turns : s.turns < turnLimit
  picked : ∃ y t, s.pick = some (y, t) ∧ x = (y.rotateTo t.uid).enterBundle
  ready : x.me.run = .ready
  stepping : x.me.stepping = false
  entering : x.me.entering = none
  starting : x.me.starting = false
  held : x.me.handler.isSome = true ∨ x.me.held = []

/-- R40, R41: `l` is the line of the thread's instruction: the one that its bundle was fetched from, or else the one that a fetch brings, which the rest of the bundle
then shares; `t` is the state after it. -/
def lineCame (x : State) (l : BitVec 512) (t : State) : Prop :=
  match x.bundleLine with
  | some b => l = b ∧ t = x
  | none => ∃ y, x.fetch x.me.pc = (.line l, y) ∧ t = y.fuse l

end Claims

/-- R35 to R41: when the line at the PC of the thread whose turn comes, or the one that was fetched for the first thread of its bundle (R41), holds, from the PC's
syllable on, bits that decode to an instruction which does not cross the line's end, the step executes that instruction in the state after the fetch, once the log
records that have waited for the thread's next start have named it (R128); what the step leaves due follows (`State.after`, R67, R310, R360, R396, R397). The order in
which turns come is the model's choice (assumption 5). When the instruction at the PC crosses the line's end the thread takes the illegal-length trap, and when its
bits decode to nothing the illegal-instruction trap. -/
def Obligations.StepRunsDecodedInstruction : Prop :=
  ∀ (s x t : State) (l : BitVec 512), Claims.turnComes s x →
    let k := x.me.pc.toNat % 64 / 4
    let n := lenSyllables (syllable l k).toNat
    Claims.lineCame x l t →
    (∀ i : Instr, k + n ≤ 15 → decode (l.toNat / 2 ^ (32 * k) % 2 ^ (32 * n)) = .ok i → step s = onNext s.after (exec i (t.atStart i))) ∧
    (15 < k + n → step s = .next (s.after (t.trap 2 0 0))) ∧
    (k + n ≤ 15 → (∀ i, decode (l.toNat / 2 ^ (32 * k) % 2 ^ (32 * n)) ≠ .ok i) → step s = .next (s.after (t.trap 1 0 0)))

/-- 95, R67: an event at the head of the agenda is what the step brings about, on a module with power; what the event leaves due follows (`State.after`). An event that
waits for a tick lets so much time pass, with its cycles, where no thread has to issue and nothing else ends before that tick, and it does not happen otherwise. The agenda
is the model's way to say what happens next (assumption 5), and how far time may pass is its choice too (assumption 30). -/
def Obligations.StepRunsEvent : Prop :=
  ∀ (s t : State) (i : Instr) (rest : List Agenda), s.powered = true → s.agenda = .event i :: rest → i.isEvent = true →
    let s' : State := { s with agenda := rest }
    exec i s' = .next t →
      (t.time = s'.time → step s = .next (s'.after t)) ∧
      (s'.time < t.time → s'.tickRoom (t.time - s'.time) = t.time - s'.time → step s = .next (s'.after (t.idleCycles (t.time - s'.time)))) ∧
      (s'.time < t.time → s'.tickRoom (t.time - s'.time) < t.time - s'.time → step s = .next (s'.after s'))

/-- R400, R406: the only step that gives no next state is one of a module without power, when it is not
a die's boot that comes next: no instruction and no event faults or is refused in any state. That a
module without power ends a run by a fault of its own is the model's way to say that it executes
nothing (assumption 7). -/
def Obligations.OnlyPowerLossStops : Prop :=
  ∀ s : State, ((∀ t, step s ≠ .next t) ↔
      s.powered = false ∧ ∀ (d : Nat) (v : Bool) (w : Word) (rest : List Agenda), s.agenda ≠ .event (.dieBoot d v w) :: rest) ∧
    (∀ r, step s = .fault r → r = .poweredOff) ∧ ∀ i : Instr, ∃ t, exec i s = .next t

/-- Every byte memory keeps its canonical form, in which equal memories are equal lists, through every step (assumption 2). -/
def Obligations.StepKeepsMemoryCanonical : Prop := ∀ s t : State, s.memoriesWf → step s = .next t → t.memoriesWf

/-- R400, R402, R406: before a die has booted no die is enabled, no core has a class, no region, gang or
thread exists, no host is attached, the envelopes stand at manufacture (4000 W, 212.5 GB/s, all host
addresses), and nothing is in memory, which is in its canonical form. Which state counts as the
reset, and the zeros and empty lists where the manual gives no value, are the model's choice
(assumptions 2, 3 and 7). -/
def Obligations.ResetModule : Prop :=
  State.reset.dies.length = 4 ∧ State.reset.cores.length = 256 ∧ (∀ d ∈ State.reset.dies, d.enabled = false) ∧ (∀ c ∈ State.reset.cores, c.cls = none) ∧
  State.reset.regions = [] ∧ State.reset.gangs = [] ∧ (∀ t ∈ State.reset.threads, t.run = .exited) ∧ State.reset.attached = [] ∧
  State.reset.envPow = 4000 ∧ State.reset.envInj = 212500 ∧ State.reset.envCxl = [(0, 2 ^ 64)] ∧ (∀ a, readByte State.reset.mem a = 0) ∧
  State.reset.agenda = [] ∧ State.reset.powered = true ∧ State.reset.memoriesWf

/-! ### The checks that every instruction makes (R61) -/

namespace Claims

/-- R61 check 3. -/
def encodedOk (s : State) (i : Instr) : Bool := i.legal (some (s.bank s.me)) && i.inBudget (some (s.bank s.me)) s.me.budget

end Claims

/-- R55, R61 checks 3 and 4: an instruction whose encoding is not legal for the gang's format bank, or
which names a register at or above the role's budget, takes the illegal-instruction trap (cause 1),
and a privileged instruction outside a system region the privilege trap (cause 4), whatever the
guard says. Which FE bits of fields that name no register must be zero is the model's choice
(assumption 84). -/
def Obligations.IllegalAndPrivilegedTrap : Prop :=
  ∀ (i : Instr) (s : State), i.isEvent = false →
    (Claims.encodedOk s i = false → exec i s = .next (s.trap 1 0 0)) ∧
    (Claims.encodedOk s i = true → s.hasUnit i = true → i.isSys = true → s.isSys s.me = false → exec i s = .next (s.trap 4 0 0))

/-- R37, R78: the guard is Pred(P) xor PN with Pred(0) true, and a thread for which it is false executes the instruction as a `NOP`: nothing changes but the
PC, which moves to the next start, and the age of a reservation, which counts instructions (R221). After an instruction of `n` syllables that does not transfer control, execution continues `n` syllables on, or at syllable 0 of the next line
when the instruction was the last of its line. -/
def Obligations.FalseGuardIsNop : Prop :=
  (∀ (t : Thread) (p : BitVec 3) (n : Bool), t.passes ⟨p, n⟩ = ((p == 0 || t.preds.getLsbD p.toNat) ^^ n)) ∧
  (∀ (i : Instr) (s : State), i.isEvent = false → Claims.encodedOk s i = true → s.hasUnit i = true → (i.isSys = true → s.isSys s.me = true) →
    s.me.passes i.guard = false →
    exec i s = .next { s with me := { s.me with pc := nextStart s.me.pc i.syllables, run := .ready, resv := s.me.resv.map Resv.older } }) ∧
  (∀ (pc : Dword) (n : Nat), pc.toNat % 4 = 0 → pc.toNat % 64 / 4 + n ≤ 15 → 1 ≤ n → pc.toNat + 64 < 2 ^ 64 →
    (nextStart pc n).toNat = (if pc.toNat % 64 / 4 + n = 15 then pc.toNat - pc.toNat % 64 + 64 else pc.toNat + 4 * n))

namespace Claims
/-- The checks before the sources pass. -/
def reaches (s : State) (i : Instr) : Bool :=
  !i.isEvent && encodedOk s i && s.hasUnit i && (!i.isSys || s.isSys s.me) && s.me.passes i.guard
/-- The source registers with their FE bits, in the order A, B, C. -/
def srcRegs (s : State) (i : Instr) : List (Reg × Bool) :=
  (i.sources (some (s.bank s.me))).flatMap (fun x => (regGroup x.r x.n).map (fun r => (r, x.trap)))
end Claims

/-- R70: reading a register that is empty with no producer pending takes the empty-register trap (cause
6) with the register in its detail; a source that is empty while a producer is pending blocks under
FE 0 (the thread waits at the instruction, unless R170 delivers a fault that a stream instruction
holds for that register) and takes the trap under FE 1. That a blocking source is looked at before
one that traps is the model's choice (assumption 14). So is the trap, and not the delivery of a held
fault, under FE 1 (assumption 88). -/
def Obligations.EmptySourceTrapsOrBlocks : Prop :=
  ∀ (i : Instr) (s : State), Claims.reaches s i = true →
    (∀ r, (Claims.srcRegs s i).find? (fun x => !s.me.full x.1 && !s.me.pending x.1) = some r → exec i s = .next (s.trap 6 0 (r.1.setWidth 64))) ∧
    ((∀ x ∈ Claims.srcRegs s i, s.me.full x.1 = true ∨ s.me.pending x.1 = true) →
      ((∃ x ∈ Claims.srcRegs s i, x.2 = false ∧ s.me.full x.1 = false) → s.regFault (i.sources (some (s.bank s.me))) = none →
        exec i s = .next (s.await .source)) ∧
      ((∀ x ∈ Claims.srcRegs s i, x.2 = false → s.me.full x.1 = true) →
        ∀ r, (Claims.srcRegs s i).find? (fun x => x.2 && !s.me.full x.1) = some r → exec i s = .next (s.trap 6 0 (r.1.setWidth 64))))


/-! ### Registers and predicates (R62, R69, R71, R78, R91) -/

/-- R25, R52, R62, R69, R91: a register that is written and for which no producer is pending holds the
value and is full; every other register keeps its value and its FE bit. Writes to g0 are discarded;
it reads zero and is always full. A write to predicate p1 to p7 changes that predicate alone; p0 is
always true, and a write to it is discarded. That the halves of a pair are written one by one is the
model's choice (assumption 85). -/
def Obligations.RegistersAndPredicatesHold : Prop :=
  (∀ (t : Thread) (r : Reg) (v : Word), r ≠ 0 → t.pending r = false →
    (t.wr r v).rd r = v ∧ (t.wr r v).full r = true ∧
    (∀ q, q ≠ r → (t.wr r v).rd q = t.rd q ∧ (t.wr r v).full q = t.full q) ∧ (t.wr r v).prods = t.prods ∧ (t.wr r v).preds = t.preds) ∧
  (∀ (t : Thread) (v : Word), t.wr 0 v = t ∧ t.rd 0 = 0 ∧ t.full 0 = true) ∧
  (∀ (t : Thread) (r : Reg) (v : Dword), r.toNat % 2 = 0 → r ≠ 0 → t.pending r = false → t.pending (r + 1) = false → (t.wr2 r v).rd2 r = v) ∧
  (∀ (t : Thread) (p q : BitVec 3) (v : Bool),
    (p ≠ 0 → (t.setPred p v).pred p = v) ∧ (q ≠ p → (t.setPred p v).pred q = t.pred q) ∧ t.setPred 0 v = t ∧ t.pred 0 = true ∧
    (t.setPred p v).regs = t.regs ∧ (t.setPred p v).fe = t.fe ∧ t.predByte.getLsbD q.toNat = t.pred q)

/-- R25, R69, R71: a long-latency producer of `n` registers empties each of them but g0 at issue and
leaves every other register full or empty as it was; a write to one of them before the value arrives
leaves it empty until then; when the value arrives each register but g0, which stays zero and full,
turns full, and holds the later write where there was one and the producer's word elsewhere. A register
of two producers `p` and then `q` is empty until both have arrived, in either order, and then holds the
word of `q`. -/
def Obligations.ProducerFillsItsRegisters : Prop :=
  (∀ (t : Thread) (p q : Prod) (ws vs : List Word), t.prods = [] → p.dead = [] → q.dead = [] → p.tag ≠ q.tag → p.d.toNat + p.n ≤ 256 → q.d.toNat + q.n ≤ 256 →
    ws.length = p.n → vs.length = q.n →
    let u := (t.produce p).produce q
    ∀ p' ∈ u.prods, p'.tag = p.tag → ∀ k < q.n, q.d + BitVec.ofNat 8 k ≠ 0 → p.covers (q.d + BitVec.ofNat 8 k) = true →
      let r := q.d + BitVec.ofNat 8 k
      u.full r = false ∧
      (u.arrive p' ws).full r = false ∧ (u.arrive p' ws).pending r = true ∧ ((u.arrive p' ws).arrive q vs).full r = true ∧
      ((u.arrive p' ws).arrive q vs).rd r = vs.getD k 0 ∧
      (u.arrive q vs).full r = false ∧ (u.arrive q vs).pending r = true ∧
      ∀ p'' ∈ (u.arrive q vs).prods, ((u.arrive q vs).arrive p'' ws).full r = true ∧ ((u.arrive q vs).arrive p'' ws).rd r = vs.getD k 0) ∧
  ∀ (t : Thread) (p : Prod) (ws : List Word), t.prods = [] → p.dead = [] → p.d.toNat + p.n ≤ 256 → ws.length = p.n →
    let u := t.produce p
    (∀ r : Reg, r ≠ 0 → p.covers r = true → u.full r = false ∧ u.pending r = true) ∧
    (∀ r : Reg, r = 0 ∨ p.covers r = false → u.full r = t.full r ∧ u.rd r = t.rd r) ∧
    (∀ k < p.n, p.d + BitVec.ofNat 8 k ≠ 0 →
      (u.arrive p ws).rd (p.d + BitVec.ofNat 8 k) = ws.getD k 0 ∧ (u.arrive p ws).full (p.d + BitVec.ofNat 8 k) = true) ∧
    (∀ r : Reg, r = 0 ∨ p.covers r = false → (u.arrive p ws).rd r = t.rd r ∧ (u.arrive p ws).full r = t.full r) ∧
    (∀ (r : Reg) (v : Word), r ≠ 0 → p.covers r = true →
      (u.wr r v).full r = false ∧
      ∀ p' ∈ (u.wr r v).prods, ((u.wr r v).arrive p' ws).rd r = v ∧ ((u.wr r v).arrive p' ws).full r = true)

/-! ### Control instructions (R80 to R96) -/

namespace Claims

/-- PMOV.RD: the sum of Pred(i) × 2^i. -/
def predSum (t : Thread) : Nat := ((List.range 8).map (fun i => if t.pred (BitVec.ofNat 3 i) then 2 ^ i else 0)).sum

/-- The special register that SEL8 names. -/
def sel (m : CtlMod) : SReg := (SReg.ofCode m.sel).getD .tid
/-- The value that `SWRITE` takes from its source. -/
def swriteSrc (s : State) (r : SReg) (o : LOps) : Dword := if r.wide then s.me.rd2 o.a else (s.me.rd o.a).setWidth 64
/-- R92, R120, R121: what a write leaves in a special register of 32 bits that a thread may write: reserved bits read as zero, LOGM stays. -/
def kept (r : SReg) (old v : Word) : Word :=
  match r with
  | .fcr => (v &&& 0x003FFFF7) ||| (old &&& 0x00400000)
  | .fsr => v &&& 0x0000003F
  | .stk => v &&& 0xFFFFFFF8
  | _ => v

/-- R80 to R95: what an instruction of the control family that does not transfer control does before the PC moves to the next start; `none` for others,
and where it waits or traps. -/
def controlEffect (s : State) : Instr → Option State
  | .nop _ _ => some s
  | .plog o m =>
    let a := s.me.pred (o.a.setWidth 3)
    let b := s.me.pred (o.b.setWidth 3)
    some (s.setPred (o.d.setWidth 3) (if m.sub = 0 then a && b else if m.sub = 1 then a || b else if m.sub = 2 then a != b else a && !b))
  | .pmovRd o _ => some (s.wr o.d (BitVec.ofNat 32 (predSum s.me)))
  | .pmovWr o _ =>
    let mask := match o.lit with | some l => l | none => s.me.rd o.b
    let k : BitVec 8 := mask.setWidth 8 &&& 0b11111110
    some (s.upd (fun t => { t with preds := (t.preds &&& ~~~ k) ||| ((s.me.rd o.a).setWidth 8 &&& k) }))
  | .guardSet o _ =>
    let k := slotOf o.d
    let v := s.me.pred (o.a.setWidth 3)
    (match s.slot k with
      | none => some ((s.setSlot k (some v)).resolveSlot s.me.gkey (BitVec.ofNat 4 k) v)
      | some u => if u = v then some s else none)
  | .guardClr o _ => if s.slotBusy s.me.gkey (BitVec.ofNat 4 (slotOf o.d)) then none else some (s.setSlot (slotOf o.d) none)
  | .sread o m =>
    let r := sel m
    if (r = .fcr ∨ r = .fsr) ∧ s.me.queued then none
    else some (if r.wide then (s.sread r).2.wr2 o.d (s.sread r).1 else (s.sread r).2.wr o.d ((s.sread r).1.setWidth 32))
  | .swrite o m =>
    let r := sel m
    let v := swriteSrc s r o
    let w : Word := v.setWidth 32
    if (r = .fcr ∨ r = .fsr) ∧ s.me.queued then none
    else match r with
      | .fcr => some (s.upd (fun t => { t with fcr := kept .fcr t.fcr w }))
      | .fsr => some (s.upd (fun t => { t with fsr := kept .fsr t.fsr w }))
      | .stk => some (s.upd (fun t => { t with stk := kept .stk t.stk w }))
      | .trapf => some (s.upd (fun t => { t with trapf := v &&& 0xFFFFFFFFFFFFFFC0 }))
      | .asid => some (s.upd (fun t => { t with asid := w }))
      | .ptel => if ptValid v then some (s.upd (fun t => { t with ptel := v })) else none
      | .audit => some (s.mapRegion (s.regionNum s.me) (fun r => { r with audit := w }))
      | .wdog => some (s.mapRegion (s.regionNum s.me) (fun r => { r with wdog := w }))
      | _ => none
  | .feSet o m =>
    let rs := if m.sub.getLsbD 1 then [o.d, o.d + 1] else [o.d]
    if m.sub.getLsbD 0 then
      if rs.any s.me.pending then none
      else some (s.upd (fun t => rs.foldl (fun t r => if r = 0 then t else { t with fe := t.fe.set r.toNat false }) t))
    else some (s.upd (fun t => rs.foldl (fun t r => if r = 0 ∨ t.pending r then t else { t with fe := t.fe.set r.toNat true }) t))
  | .feTest o m => some (s.setPred (o.d.setWidth 3) (s.me.full o.a && (m.sub == 0 || s.me.full (o.a + 1))))
  | .ipref o m =>
    let a := match o.lit with | some l => s.me.pc + l.signExtend 64 | none => s.me.rd2 o.a
    some (if a.toNat % 4 = 0 then s.prefetchLines a (m.sub.toNat + 1) else s)
  | .nap o _ => if (o.lit.getD (s.me.rd o.b)).toNat = 0 then some s else none
  | _ => none

/-- R92: the number of each special register. -/
def selectors : List (Nat × SReg) :=
  [(0x00, .tid), (0x01, .gid), (0x02, .gw), (0x03, .lane), (0x04, .part), (0x05, .core), (0x06, .vdie), (0x07, .cls), (0x08, .ord), (0x09, .recAddr), (0x0A, .nrec),
   (0x0B, .depth), (0x0C, .time), (0x0D, .region), (0x0E, .fcr), (0x0F, .fsr), (0x10, .stk), (0x11, .qturn), (0x12, .trapf), (0x13, .msk), (0x80, .asid),
   (0x81, .ptel), (0x82, .audit), (0x83, .wdog)]
/-- R92: the contents of the special registers but `sr.time` and `sr.msk`, of a thread of gang `g`, group `p` and region `r` on a core of class `c`. -/
def specials (t : Thread) (g : Gang) (p : Group) (r : Region) (c : CoreClass) : List (SReg × Nat) :=
  [(.tid, t.tid), (.gid, t.gid), (.gw, p.width), (.lane, t.lane), (.part, t.part), (.core, t.core % 64), (.vdie, g.vdie),
   (.cls, match c with | .a => 0 | .b => 1 | .c => 2 | .d => 3), (.ord, t.ord.toNat), (.recAddr, g.recAddr.toNat), (.nrec, g.nrec), (.depth, g.depth), (.region, r.num),
   (.fcr, t.fcr.toNat), (.fsr, t.fsr.toNat), (.stk, t.stk.toNat), (.qturn, p.qturn), (.trapf, t.trapf.toNat), (.asid, t.asid.toNat), (.ptel, t.ptel.toNat),
   (.audit, r.audit.toNat), (.wdog, r.wdog.toNat)]

end Claims

/-- R80, R81, R85, R90 to R95: `NOP`, `PLOG` (all four), `PMOV.RD`, `PMOV.WR`, `GUARD.SET` of an
unresolved slot or to the value it holds, `GUARD.CLR` of a slot under which nothing is queued,
`SREAD`, `SWRITE`, `FE.SET`, `FE.TEST`, `IPREF` and `NAP` with a count of zero complete with the
effect of their rules, in the forms of L64, W96 and S32 (`nopS32`, `plogAndS32`, `plogOrS32`,
`plogXorS32`, `plogAndnS32`, `guardSetS32`, `guardClrS32`). Which queues a read or write of a system
register waits for is the model's reading (assumption 71). What `SREAD` reads of a thread's place, of its gang, its group and its region and of its own registers is
listed; `sr.msk` has bit 63 set for padding in a group of width 32 or less, and `sr.time` is Pavane time when it is read, how far that has moved since being free
(assumption 30). -/
def Obligations.ControlInstructionsComplete : Prop :=
  (∀ (i : Instr) (s t : State), s.issues i = true → Claims.controlEffect s i.long = some t → CompletesTo i s t) ∧
  (∀ x ∈ Claims.selectors, SReg.ofCode (BitVec.ofNat 8 x.1) = some x.2) ∧
  (∀ n : BitVec 8, SReg.ofCode n = none ↔ ∀ x ∈ Claims.selectors, x.1 ≠ n.toNat) ∧
  ∀ (s : State) (g : Gang) (p : Group) (r : Region) (c : CoreClass), s.gang? s.me.gang = some g → s.group? s.me = some p → s.regionOf s.me = some r →
    ((s.core? s.me.core).bind (·.cls)) = some c →
    (∀ x ∈ Claims.specials s.me g p r c, s.sread x.1 = (BitVec.ofNat 64 x.2, s)) ∧
    (s.sread .msk).2 = s ∧ (∀ k < 64, (s.sread .msk).1.getLsbD k = (p.started.getLsbD k || (decide (k = 63) && p.pad && decide (p.width ≤ 32)))) ∧
    (s.sread .time).1 = BitVec.ofNat 64 (s.sread .time).2.time ∧ s.time ≤ (s.sread .time).2.time

/-- R84, R85: `NAP` with a nonzero count makes the thread stand aside at the next instruction for the count, limited to 65,535, and `YIELD` and its S32 form for
64 cycles; both clear a reservation (R221) and change nothing else. `EXIT` and its S32 form end the thread: it runs no more, the values pending for its registers are
discarded, its reservation and its trigger go, and everything else is as it was, its pending accesses among it; stated where no other thread waits at a collective, which
the exit could complete or end (R76), where a member of the group still runs or no command of an engine is left (R79), and where no containment of the thread is still to be
reported to the host (R405). -/
def Obligations.NapYieldAndExitComplete : Prop :=
  (∀ s : State,
    (∀ (o : LOps) (m : CtlMod), s.issues (.nap o m) = true → (o.lit.getD (s.me.rd o.b)).toNat ≠ 0 →
      exec (.nap o m) s = .next { s with me := { s.me with
        pc := nextStart s.me.pc (Instr.nap o m).syllables, resv := none,
        run := .waiting { kind := .nap, since := s.time, limit := some (min (o.lit.getD (s.me.rd o.b)).toNat 65535) } } }) ∧
    (∀ i : Instr, (∃ o m, i.long = .yield o m) → s.issues i = true → s.uncancelled = true →
      exec i s = .next { s with me := { s.me with
        pc := nextStart s.me.pc i.syllables, resv := none, run := .waiting { kind := .yielded, since := s.time, limit := none } } })) ∧
  (∀ (i : Instr) (s : State), (∃ o m, i.long = .exit o m) → s.issues i = true → (∀ t ∈ s.others, t.arrival = none) → s.me.handling = [] → s.me.contained = [] →
    ((∃ t ∈ s.others, t.gkey = s.me.gkey ∧ t.run ≠ .exited) ∨ (s.copies = [] ∧ s.streams = [] ∧ s.matrix = [] ∧ s.shadows = [] ∧ s.binds = [])) →
    exec i s = .next { s with me := { s.me with run := .exited, prods := [], resv := none, handler := none, entering := none, trig := none } })

/-! ### Branches, calls and returns (R82, R83, R89) -/

namespace Claims

/-- PC + SignExtend(LIT32). -/
def relTarget (s : State) (o : LOps) : Dword := s.me.pc + (o.lit.getD 0).signExtend 64
/-- The thread goes on at `a`. -/
def goes (a : Dword) (t : Thread) : Thread := { t with pc := a, run := .ready, resv := t.resv.map Resv.older }
/-- R83: where a return goes: the 8 bytes at `sr.stk` of the private space, as the thread reads them, with its own pushes that are still pending, once the memory behind
them has translated. -/
def popped (s : State) : Option (State × Dword) :=
  if s.me.privSize < s.me.stk.toNat + 8 then none
  else match s.translate (s.me.privVa s.me.stk.toNat) .read with
    | (.ok pa, t) => some (t, BitVec.ofNat 64 (bytesNat (t.forward (t.stackOp s.me.stk.toNat [] pa) s.me.stk.toNat (t.prvRead s.me.uid s.me.stk.toNat 8))))
    | _ => none
/-- The state in which R38 checks the target of a transfer, the target, and whether its TGT bit counts; `none` where nothing is transferred. -/
def transfer (s : State) : Instr → Option (State × Dword × Bool)
  | .bra o _ | .call o _ => some (s, relTarget s o, true)
  | .jmp o _ | .calli o _ => some (s, s.me.rd2 o.a, true)
  | .brdec o _ => if s.me.rd o.a = 1 then none else some (s, relTarget s o, true)
  | .ret _ _ => (popped s).map (fun x => (x.1, x.2, false))
  | _ => none
/-- The state once the target check has passed in `u`: the PC is the target, and a call has pushed, a return popped, and `BRDEC` counted. A push is a store of the thread
of the next start, in 8 bytes, to its private space below `sr.stk`, once the memory behind them has translated. -/
def transferred (s : State) (i : Instr) (a : Dword) (u : State) : Option State :=
  match i.long with
  | .bra _ _ | .jmp _ _ => some (u.upd (goes a))
  | .brdec o _ => some ((u.wr o.d (s.me.rd o.a - 1)).upd (goes a))
  | .call _ _ | .calli _ _ =>
    if 8 ≤ u.me.stk.toNat ∧ u.me.stk.toNat ≤ u.me.privSize then
      match u.translate (u.me.privVa (u.me.stk.toNat - 8)) .write with
      | (.ok pa, v) =>
        some (((v.push (v.stackOp (u.me.stk.toNat - 8) ((natBytes 8 (nextStart u.me.pc i.syllables).toNat).map some) pa)).upd
          (fun t => { t with stk := u.me.stk - 8 })).upd (goes a))
      | _ => none
    else none
  | .ret _ _ => some ((u.upd (fun t => { t with stk := s.me.stk + 8 })).upd (goes a))
  | _ => none

end Claims

/-- R82, R83, R89: `BRA`, `JMP`, `CALL`, `CALLI`, `RET` (and `retS32`), and `BRDEC` when its counter does not reach zero, check their target (R38) and then go
there; a call has pushed the next start, a return has popped, and `BRDEC` has written the decremented counter. `BRDEC` of a counter of 1 falls through with
0. -/
def Obligations.TransfersComplete : Prop :=
  (∀ (i : Instr) (s v u w : State) (a : Dword) (g : Bool), s.issues i = true → Claims.transfer s i.long = some (v, a, g) →
    v.checkTarget a g = (.ok, u) → Claims.transferred s i a u = some w → exec i s = .next w) ∧
  (∀ (o : LOps) (m : CtlMod) (s : State), s.issues (.brdec o m) = true → s.me.rd o.a = 1 → CompletesTo (.brdec o m) s (s.wr o.d 0))

/-- R38, R83, R90, R93, R95, R174: where the control family traps. A checked transfer whose target fails the check takes the branch-target trap (3) with the target as its
address and with no effect; a target passes only if it is a multiple of 4 in syllables 0 to 14 that is an instruction start and, where it counts, has its TGT bit set. A
call whose push, and a return whose pop, would leave the private space takes the bounds trap (13) with the stack offset. `GUARD.SET` of a slot resolved to the other value
takes the guard-state trap (9), `SWRITE` of an invalid layout descriptor the illegal-instruction trap (1), and `FE.SET.EMPTY` of a register whose producer is pending the
empty-register trap (6). -/
def Obligations.ControlFamilyTraps : Prop :=
  (∀ (o : LOps) (m : CtlMod) (s : State),
    (∀ u, s.issues (.guardSet o m) = true → s.slot (slotOf o.d) = some u → u ≠ s.me.pred (o.a.setWidth 3) →
      exec (.guardSet o m) s = .next (s.trap 9 0 (BitVec.ofNat 64 (o.d.toNat % 16)))) ∧
    (s.issues (.swrite o m) = true → SReg.ofCode m.sel = some .ptel → ptValid (s.me.rd2 o.a) = false → exec (.swrite o m) s = .next (s.trap 1 0 0)) ∧
    (s.issues (.feSet o m) = true → m.sub = 1 → s.me.pending o.d = true → exec (.feSet o m) s = .next (s.trap 6 0 (o.d.setWidth 64))) ∧
    (∀ r, s.issues (.feSet o m) = true → m.sub = 3 → [o.d, o.d + 1].find? s.me.pending = some r → exec (.feSet o m) s = .next (s.trap 6 0 (r.setWidth 64)))) ∧
  (∀ (i : Instr) (s v u : State) (a : Dword) (g : Bool), s.issues i = true → Claims.transfer s i.long = some (v, a, g) →
    v.checkTarget a g = (.bad, u) → exec i s = .next (u.trap 3 a 0)) ∧
  (∀ (s u : State) (a : Dword) (g : Bool), s.checkTarget a g = (.ok, u) →
    a.toNat % 4 = 0 ∧ a.toNat % 64 / 4 < 15 ∧
    ∃ l, s.fetch a = (.line l, u) ∧ isStart l (a.toNat % 64 / 4) = true ∧ (g = true → (syllable l 15).getLsbD (a.toNat % 64 / 4) = true)) ∧
  (∀ (i : Instr) (s : State), s.issues i = true →
    ((∃ o m, i.long = .ret o m) → s.me.privSize < s.me.stk.toNat + 8 → exec i s = .next (s.trap 13 (s.me.stk.setWidth 64) 0)) ∧
    (∀ (u : State) (a : Dword), ((∃ o m, i = .call o m) ∨ ∃ o m, i = .calli o m) → Claims.transfer s i = some (s, a, true) → s.checkTarget a true = (.ok, u) →
      u.me.stk.toNat < 8 ∨ u.me.privSize < u.me.stk.toNat → exec i s = .next (u.trap 13 ((u.me.stk - 8).setWidth 64) 0)))


/-! ### Traps (R362 to R365, R377, R378) -/

namespace Claims

/-- R363: the frame of a trap that an instruction raises, bits [63:0] first: PC, FADDR, DETAIL0, DETAIL1 (0), CAUSE with REC, LIGHT and ENG
zero, TID, ORD, PRED, REGION, TIME, and the reserved bits, which are zero. -/
def isFrame (s : State) (cause : Nat) (pc faddr d0 : Dword) (n : Nat) : Prop :=
  bitsOf n 63 0 = pc.toNat ∧ bitsOf n 127 64 = faddr.toNat ∧ bitsOf n 191 128 = d0.toNat ∧ bitsOf n 255 192 = 0 ∧ bitsOf n 263 256 = cause ∧
  bitsOf n 287 264 = 0 ∧ bitsOf n 319 288 = s.me.tid ∧ bitsOf n 335 320 = s.me.ord.toNat ∧
  (∀ i, 1 ≤ i → i ≤ 7 → n.testBit (336 + i) = s.me.pred (BitVec.ofNat 3 i)) ∧ n.testBit 336 = true ∧ bitsOf n 351 344 = 0 ∧
  bitsOf n 383 352 = s.regionNum s.me ∧ bitsOf n 447 384 = s.time % 2 ^ 64 ∧ bitsOf n 511 448 = 0

/-- R364: `u` is the state after thread `s.me` has entered its handler from `s`, with the frame stored at the physical address `pa`, and `v` the state in which the
frame's page and the handler's entry had been found. -/
def entered (s v u : State) (pa cause : Nat) (pc faddr d0 : Dword) : Prop :=
  u.me = { s.me with pc := s.handlerEntry, run := .ready, entering := none, resv := none, light := false, asks := none,
                     handler := some { cause := cause, since := s.time, frozen := 0, record := [] } } ∧
  u.others = v.others ∧ u.mem = v.mem ∧ u.regions = s.regions ∧
  ∃ (o : MemOp) (bs : List Byte), u.ops = s.ops ++ [o] ∧ o.uid = s.me.uid ∧ o.kind = .store false ∧ o.space = .glb ∧ o.segs = [(pa, 64)] ∧ o.scope = .th ∧
    o.ord = .rlx ∧ o.data = bs.map some ∧ bs.length = 64 ∧ isFrame s cause pc faddr d0 (bytesNat bs)

/-- The frame's page translates for a write to memory that exists, and the handler's entry is an instruction start with its TGT bit set. -/
def canEnter (s v : State) (pa : Nat) : Prop :=
  s.me.handler = none ∧ s.me.tid < 2 ^ 32 ∧ s.regionNum s.me < 2 ^ 32 ∧ s.handlerEntry ≠ 0 ∧
  ∃ t : State, s.translate s.me.trapf .write = (.ok pa, t) ∧ t.physKind pa ≠ .bad ∧ t.checkTarget s.handlerEntry true = (.ok, v)

end Claims

/-- R362 to R364: a thread that is not in handler state and takes a trap of its own instruction enters
the handler: the frame is queued as one store of the thread at `.TH`, the PC is the handler's entry,
and registers, FE bits, predicates, `sr.stk` and the ordinal are unchanged. A machine check (5) and
a containment (21), which do more, are left out here. That the frame joins the thread's pending
accesses, and its zeros where the manual gives no contents, are the model's reading (assumption 13). -/
def Obligations.TrapEntersHandler : Prop :=
  ∀ (s v : State) (pa cause : Nat) (faddr d0 : Dword), Claims.canEnter s v pa → cause < 256 → cause ≠ 5 → cause ≠ 21 →
    Claims.entered s v (s.trap cause faddr d0) pa cause s.me.pc faddr d0

/-- R365, R242: a trap that a thread in handler state raises makes its handler fail: every region of its fault domain is `DEAD` afterwards, and
every thread of one of them has stopped. -/
def Obligations.TrapInHandlerTerminatesDomain : Prop :=
  ∀ (s : State) (r : Region) (cause : Nat) (faddr d0 : Dword), s.me.handler.isSome = true → s.regionOf s.me = some r →
    (∀ q ∈ (s.trap cause faddr d0).regions, q.fdom = r.fdom → q.state = .dead) ∧
    (∀ q ∈ s.regions, q.fdom = r.fdom → ∃ q' ∈ (s.trap cause faddr d0).regions, q'.num = q.num ∧ q'.state = .dead) ∧
    ∀ t ∈ s.threads, ∀ q, s.regionOf t = some q → q.fdom = r.fdom → ∃ t' ∈ (s.trap cause faddr d0).threads, t'.uid = t.uid ∧ t'.run = .exited

/-- R362, R377, R378: `TRAP` enters the handler with the software cause (29), its code in DETAIL0 and
the next start as the resume address; `DBG.BRK`, and its S32 form, where the region is not armed for
break-halting, with the breakpoint cause (30). `TRAP.RET` outside handler state takes the
illegal-instruction trap with detail 1; in handler state it reads the resume address, the predicates
and the cause from the frame, and, when the address is an instruction start, the thread leaves
handler state there; where the cause is that of the cancel trap (23) it ends as `EXIT`. A containment
that its handler was given is then reported to the host (R405). While
another thread's release holds the frame's line, it waits (R230). That `TRAP.RET` reads the address,
the predicates and the cause from the frame in memory is the model's reading (assumption 62). -/
def Obligations.TrapBreakAndReturnComplete : Prop :=
  (∀ (i : Instr) (s v : State) (pa : Nat), s.issues i = true → Claims.canEnter s v pa →
    (∀ o m, i = .trap o m →
      ∃ u, exec i s = .next u ∧ Claims.entered s v u pa 29 (nextStart s.me.pc i.syllables) 0 ((o.lit.getD (s.me.rd o.b)).setWidth 64)) ∧
    ((∃ o m, i.long = .dbgBrk o m) → (∀ r, s.regionOf s.me = some r → ∀ b ∈ r.dbg, b.die = s.me.die → b.armed = false) →
      ∃ u, exec i s = .next u ∧ Claims.entered s v u pa 30 (nextStart s.me.pc i.syllables) 0 0)) ∧
  (∀ (o : LOps) (m : CtlMod) (s : State), s.issues (.trapRet o m) = true →
    (s.me.handler = none → exec (.trapRet o m) s = .next (s.trap 1 0 1)) ∧
    ∀ (h : Handler) (p : Spot) (pa : Nat) (t : State), s.me.handler = some h → s.locate .glb 0 s.me.trapf 64 false .read true = .ok (p, t) →
      p.segs = [(pa, 64)] →
      let held := t.heldBack (t.newOp (.load false) .glb p.segs [] .th .rlx 0 none)
      (held = true → exec (.trapRet o m) s = .next (t.await .order)) ∧ (held = false →
      let r := t.ownRead [(pa, 8), (pa + 42, 1), (pa + 32, 1)]
      let a : Dword := BitVec.ofNat 64 (bytesNat (r.1.take 8))
      (r.1.getD 9 0 = 23 → exec (.trapRet o m) s = .next r.2.endThread) ∧
      (r.1.getD 9 0 ≠ 23 → ∀ u, r.2.checkTarget a false = (.ok, u) →
        let v := u.report false u.me u.me.handling
        (h.record = [] → v = u) ∧
        exec (.trapRet o m) s = .next { v with me := { v.me with
          pc := a, run := .ready, handler := none, preds := r.1.getD 8 0 ||| 1, syncs := v.me.syncs.filter (fun x => x.1 == a) } }) ∧
      (r.1.getD 9 0 ≠ 23 → ∀ u, r.2.checkTarget a false = (.bad, u) → exec (.trapRet o m) s = .next (u.trap 3 a 0))))

/-! ### Integer and address instructions (R97 to R112) -/

namespace Claims

/-- R97: the operand of an integer type: the low bits of a register or pair, signed or natural. -/
def ival (t : IType) (n : Nat) : Int := if t.signed then (BitVec.ofNat t.width n).toInt else (BitVec.ofNat t.width n).toNat
def isrc (s : State) (t : IType) (r : Reg) : Int := ival t (if t.width = 64 then (s.me.rd2 r).toNat else (s.me.rd r).toNat)
/-- R98: LIT32 in place of B, sign-extended for a signed type and zero-extended for a natural one. -/
def iarg (s : State) (o : LOps) (t : IType) : Int :=
  match o.lit with
  | some l => ival t (if t.signed then (l.signExtend 64).toNat else l.toNat)
  | none => isrc s t o.b
/-- R98: a count or control word. -/
def icount (s : State) (o : LOps) : Nat := match o.lit with | some l => l.toNat | none => (s.me.rd o.b).toNat
/-- R97: what a result writes: 64 bits fill a pair, and narrower results are extended to 32 bits by the type. -/
def iput (s : State) (d : Reg) (t : IType) (v : Int) : State :=
  if t.width = 64 then s.wr2 d (BitVec.ofInt 64 v)
  else s.wr d (if t.signed then (BitVec.ofInt t.width v).signExtend 32 else (BitVec.ofInt t.width v).setWidth 32)
/-- R99: `Fit`. -/
def ifit (m : IntMod) (v : Int) : Int :=
  let lo : Int := if m.ty.signed then -2 ^ (m.ty.width - 1) else 0
  let hi : Int := if m.ty.signed then 2 ^ (m.ty.width - 1) - 1 else 2 ^ m.ty.width - 1
  if m.sat then (if v < lo then lo else if hi < v then hi else v) else v

/-- R102, R103: the value that an arithmetic instruction writes. -/
def arith (s : State) : Instr → Option (LOps × IntMod × Int)
  | .add o m => some (o, m, ifit m (isrc s m.ty o.a + iarg s o m.ty))
  | .sub o m => some (o, m, ifit m (isrc s m.ty o.a - iarg s o m.ty))
  | .mul o m => some (o, m, ifit m (isrc s m.ty o.a * iarg s o m.ty))
  | .mad o m => some (o, m, ifit m (isrc s m.ty o.a * iarg s o m.ty + isrc s m.ty o.c))
  | .min o m => some (o, m, ifit m (if isrc s m.ty o.a ≤ iarg s o m.ty then isrc s m.ty o.a else iarg s o m.ty))
  | .max o m => some (o, m, ifit m (if isrc s m.ty o.a ≤ iarg s o m.ty then iarg s o m.ty else isrc s m.ty o.a))
  | .abs o m => some (o, m, ifit m (isrc s m.ty o.a).natAbs)
  | .neg o m => some (o, m, ifit m (-isrc s m.ty o.a))
  | .mulh o m => some (o, m, (isrc s m.ty o.a * iarg s o m.ty).fdiv (2 ^ m.ty.width))
  | .div o m =>
    let a := isrc s m.ty o.a
    let b := iarg s o m.ty
    some (o, m,
      if b = 0 then (if m.sat ∧ m.ty.signed then (if 0 ≤ a then 2 ^ (m.ty.width - 1) - 1 else -2 ^ (m.ty.width - 1)) else 2 ^ m.ty.width - 1)
      else ifit m (a.tdiv b))
  | .rem o m =>
    let a := isrc s m.ty o.a
    let b := iarg s o m.ty
    some (o, m, if b = 0 then a else a - a.tdiv b * b)
  | _ => none

/-- The bits of source A at the type's width, of which bit `i` below the width is asked. -/
def abit (s : State) (o : LOps) (m : IntMod) (i : Nat) : Bool := decide (i < m.ty.width) && (isrc s m.ty o.a).testBit i
def bbit (s : State) (o : LOps) (m : IntMod) (i : Nat) : Bool := (iarg s o m.ty).testBit i
def cbit (s : State) (o : LOps) (m : IntMod) (i : Nat) : Bool := (isrc s m.ty o.c).testBit i
/-- Bit `i` of source A extended without limit, signed for `.I` and natural for `.N`. -/
def aext (s : State) (o : LOps) (m : IntMod) (i : Nat) : Bool := (isrc s m.ty o.a).testBit i

/-- R105 to R108: bit `i`, below the type's width w, of the result of an instruction that works on bits. -/
def resultBit (s : State) : Instr → Option (LOps × IntMod × (Nat → Bool))
  | .and o m => some (o, m, fun i => abit s o m i && bbit s o m i)
  | .or o m => some (o, m, fun i => abit s o m i || bbit s o m i)
  | .xor o m => some (o, m, fun i => abit s o m i != bbit s o m i)
  | .andn o m => some (o, m, fun i => abit s o m i && !bbit s o m i)
  | .shl o m => some (o, m, fun i => decide (icount s o ≤ i) && abit s o m (i - icount s o))
  | .shr o m => some (o, m, fun i => abit s o m (i + icount s o))
  | .sar o m => some (o, m, fun i => abit s o m (if i + icount s o < m.ty.width then i + icount s o else m.ty.width - 1))
  | .rot o m => some (o, m, fun i => abit s o m ((i + (m.ty.width - icount s o % m.ty.width)) % m.ty.width))
  | .bfx o m =>
    let pos := icount s o % 256
    let len := icount s o / 256 % 256
    some (o, m, fun i => if len = 0 then false else if i < len then aext s o m (i + pos) else m.ty.signed && aext s o m (len - 1 + pos))
  | .bfi o m =>
    let pos := icount s o % 256
    let len := icount s o / 256 % 256
    some (o, m, fun i => if pos ≤ i ∧ i < pos + len then cbit s o m (i - pos) else abit s o m i)
  | .brev o m => some (o, m, fun i => abit s o m (m.ty.width - 1 - i))
  | _ => none

/-- R52, R109. -/
def relation (c : Nat) (a b : Int) : Bool :=
  if c = 0 then a == b else if c = 1 then a != b else if c = 2 then decide (a < b) else if c = 3 then decide (a ≤ b) else if c = 4 then decide (b < a)
  else decide (b ≤ a)

/-- R104, R108 to R112: the effect of the remaining integer instructions. -/
def moveEffect (s : State) : Instr → Option State
  | .addc o m =>
    let v := isrc s m.ty o.a + iarg s o m.ty + (if s.me.pred m.cp then 1 else 0)
    some ((iput s o.d m.ty (v % 2 ^ m.ty.width)).setPred m.cp (decide (2 ^ m.ty.width ≤ v)))
  | .subb o m =>
    let v := isrc s m.ty o.a - iarg s o m.ty - (if s.me.pred m.cp then 1 else 0)
    some ((iput s o.d m.ty (v % 2 ^ m.ty.width)).setPred m.cp (decide (v < 0)))
  | .popc o m => some (s.wr o.d (BitVec.ofNat 32 ((List.range m.ty.width).filter (abit s o m)).length))
  | .clz o m => some (s.wr o.d (BitVec.ofNat 32 (((List.range m.ty.width).reverse).takeWhile (fun i => !abit s o m i)).length))
  | .cmp o m => some (s.setPred (o.d.setWidth 3) (relation (o.d.toNat / 8 % 8) (isrc s m.ty o.a) (iarg s o m.ty)))
  | .sel o m => some (iput s o.d m.ty (if s.me.pred (o.c.setWidth 3) then isrc s m.ty o.a else iarg s o m.ty))
  | .mov o m => some (iput s o.d m.ty (iarg s o m.ty))
  | .lea o m =>
    let base : Dword := if o.a = 0 then s.me.pc else s.me.rd2 o.a
    let index : Dword := if m.ty = .i32 then (s.me.rd o.b).signExtend 64 else (s.me.rd o.b).setWidth 64
    let off : Dword := match o.lit with | some l => l.signExtend 64 | none => 0
    some (s.wr2 o.d (base + index * 2 ^ m.sub.toNat + off))
  | _ => none

end Claims

/-- R97 to R99, R102, R103: `ADD`, `SUB`, `MUL`, `MAD`, `MIN`, `MAX`, `ABS`, `NEG`, `MULH`, `DIV` and `REM`, in every type, with a literal and
in their S32 forms, complete: they write the exact result, fitted to the type, and change nothing else. -/
def Obligations.IntegerArithmeticCompletes : Prop :=
  ∀ (i : Instr) (s : State) (o : LOps) (m : IntMod) (v : Int), s.issues i = true → Claims.arith s i.long = some (o, m, v) → CompletesTo i s (Claims.iput s o.d m.ty v)

/-- R105 to R108: `AND`, `OR`, `XOR`, `ANDN`, `SHL`, `SHR`, `SAR`, `ROT`, `BFX`, `BFI` and `BREV`, in every type, with a literal and in their S32 forms,
complete: each bit of the result below the type's width is the one that the rule gives, and nothing else changes. -/
def Obligations.IntegerBitsComplete : Prop :=
  ∀ (i : Instr) (s : State) (o : LOps) (m : IntMod) (f : Nat → Bool), s.issues i = true → Claims.resultBit s i.long = some (o, m, f) →
    ∃ v : Int, (∀ k < m.ty.width, v.testBit k = f k) ∧ CompletesTo i s (Claims.iput s o.d m.ty v)

/-- R104, R108 to R112: `ADDC`, `SUBB`, `POPC`, `CLZ`, `CMP`, `SEL`, `MOV` and `LEA`, with a literal and in the S32 forms `cmpI32S32`, `cmpN32S32` and `movN32S32`, complete
with the effect of their rules. -/
def Obligations.CarryCompareMoveComplete : Prop :=
  ∀ (i : Instr) (s t : State), s.issues i = true → Claims.moveEffect s i.long = some t → CompletesTo i s t


/-! ### Numbers and floating point (R113 to R145) -/

namespace Claims

/-- The exact value of a finite number. -/
def rat : Sys2Proof.Num → Option ℚ
  | .fin neg m e => some ((if neg then -1 else 1) * m * 2 ^ e)
  | _ => none
/-- The formats of fixed layout, without the programmable ones. -/
def fixedFmts : List Fmt :=
  [.f64, .f32, .f19, .bf16, .f16, .e4m3, .e5m2, .e3m4, .e2m5, .e3m2, .e2m3, .e2m1, .e1m2, .e8m0, .i32, .i16, .i8, .n8, .i4, .n4, .i2, .b1, .e6m1, .q7]
/-- R113: the bits of a format's codes, and the place of the lowest one in its storage. -/
def codeBits (f : Fmt) : Nat × Nat :=
  match f with
  | .f64 => (64, 0) | .f32 | .i32 => (32, 0) | .f19 => (19, 13) | .bf16 | .f16 | .i16 => (16, 0) | .e3m2 | .e2m3 => (6, 0)
  | .e2m1 | .e1m2 | .i4 | .n4 => (4, 0) | .i2 => (2, 0) | .b1 => (1, 0) | _ => (8, 0)

/-- R122, R123: the value, one of the neighbours ⌊x⌋ and ⌊x⌋ + 1, that a magnitude `x` between them rounds to in units of the last place. `neg` is the sign of the
number and `d` the dither. -/
def chosen (mode : Rnd) (neg : Bool) (d : Nat) (x : ℚ) : ℤ :=
  let f := x - ⌊x⌋
  let up : Bool := match mode with
    | .rn => decide (1 / 2 < f) || (decide (f = 1 / 2) && decide (⌊x⌋ % 2 = 1))
    | .rz | .dyn => false
    | .rp => !neg
    | .rm => neg
    | .ra => decide (1 / 2 ≤ f)
    | .rs => decide (1 ≤ f + d / 64)
    | .ro => decide (⌊x⌋ % 2 = 0)
  if up then ⌊x⌋ + 1 else ⌊x⌋

end Claims

namespace Claims

/-- The number `v` stands for the exact result `x` where no number of the form m × 2^e need equal it: its magnitude without the last bit lies at most one unit below, and
the last bit says whether that leaves anything out. Where `x` is not zero it has more than 80 bits. -/
def standsFor (v : Sys2Proof.Num) (x : ℝ) : Prop :=
  ∃ (neg : Bool) (m : Nat) (e : Int), v = .fin neg m e ∧ (x = 0 → m = 0) ∧ (x ≠ 0 → neg = decide (x < 0) ∧ 2 ^ 80 ≤ m) ∧
    let w : ℝ := (m / 2 : Nat) * 2 ^ (e + 1)
    w ≤ |x| ∧ |x| < w + 2 ^ (e + 1) ∧ (m % 2 = 0 ↔ w = |x|)

end Claims

/-- R99, R131, R132, R133, R138: sums, products, fused products and scalings of finite numbers are exact, and comparison is that of the exact values. A quotient and a root
stand for the exact one to more than 80 bits and a last bit for what is left, which rounding looks at. A finite number over a zero is an infinity with DZ, or invalid
where both are zero, as are the quotient of infinities and the root of a negative number. `MIN` and `MAX` of numbers give the smaller or the larger operand's own bits, a
zero of negative sign before one of positive sign, and of one NaN the other operand. -/
def Obligations.NumberArithmeticIsExact : Prop :=
  (∀ (a b : Sys2Proof.Num) (x y : ℚ), Claims.rat a = some x → Claims.rat b = some y →
    (y ≠ 0 → Claims.standsFor (a.div b).1 ((x / y : ℚ) : ℝ) ∧ (a.div b).2 = 0) ∧
    (y = 0 → a.div b = if x = 0 then (.nan false, flagIV) else (.inf (a.sign ^^ b.sign), flagDZ)) ∧
    (0 < x → Claims.standsFor a.sqrt.1 (Real.sqrt (x : ℝ)) ∧ a.sqrt.2 = 0) ∧ (x = 0 → a.sqrt = (a, 0)) ∧ (x < 0 → a.sqrt = (.nan false, flagIV)) ∧
    (∀ neg : Bool, (Sys2Proof.Num.inf neg).div a = (.inf (neg ^^ a.sign), 0) ∧ a.div (.inf neg) = (.fin (a.sign ^^ neg) 0 0, 0))) ∧
  (∀ n k : Bool, (Sys2Proof.Num.inf n).div (.inf k) = (.nan false, flagIV) ∧ (Sys2Proof.Num.inf n).sqrt = if n then (.nan false, flagIV) else (.inf false, 0)) ∧
  (∀ (bank : FBank) (f : Fmt) (max : Bool) (p q : Nat),
    let a := f.value bank p
    let b := f.value bank q
    let r := minMaxBits bank f max p q
    r.2 = (a.snan ||| b.snan) ∧
    (a.isNan = true → b.isNan = true → r.1 = (f.round bank { mode := .rn } (.nan false)).1) ∧
    (a.isNan = true → b.isNan = false → r.1 = q) ∧ (a.isNan = false → b.isNan = true → r.1 = p) ∧
    (a.cmp b = some .lt → r.1 = if max then q else p) ∧ (a.cmp b = some .gt → r.1 = if max then p else q) ∧
    (a.cmp b = some .eq → a.sign ≠ b.sign → r.1 = if a.sign != max then p else q) ∧ (r.1 = p ∨ r.1 = q ∨ a.isNan = true)) ∧
  ∀ (rm : Bool) (a b c : Sys2Proof.Num) (x y z : ℚ), Claims.rat a = some x → Claims.rat b = some y → Claims.rat c = some z →
    Claims.rat (a.add rm b).1 = some (x + y) ∧ (a.add rm b).2 = 0 ∧ Claims.rat (a.mul b).1 = some (x * y) ∧ (a.mul b).2 = 0 ∧
    Claims.rat (Sys2Proof.Num.fma rm a b c).1 = some (x * y + z) ∧ Claims.rat a.neg = some (-x) ∧ (∀ k : Int, Claims.rat (a.scale k) = some (x * 2 ^ k)) ∧
    a.cmp b = some (if x < y then .lt else if x = y then .eq else .gt)

/-- R113 to R117, R124, R122, R123: in every rounding mode a magnitude that lies on the grid of
multiples of 2^q stays, exactly; one that lies between two of them rounds to the one that the mode
names, and inexactly. A value that a format represents rounds to its own code in every mode and
without a flag, in every format of fixed layout. NaNs, which are canonicalised, and the codes of one
value in a format without a sign are left out. Where a format has no mantissa bits, which bit counts
as the last is the model's choice (assumption 81). -/
def Obligations.RoundingModesChoose : Prop :=
  (∀ (b : RoundBy) (neg : Bool) (m : Nat) (e q : Int), b.dither < 64 →
    let x : ℚ := m * 2 ^ (e - q)
    let r := roundGrid b neg false m e q
    (r.2 = true ↔ x = ⌊x⌋) ∧ (r.2 = true → (r.1 : ℤ) = ⌊x⌋) ∧ (r.2 = false → (r.1 : ℤ) = Claims.chosen b.mode neg b.dither x)) ∧
  (∀ (f : Fmt) (bank : FBank) (mode : Rnd) (c : Nat), f ∈ Claims.fixedFmts → c < 2 ^ (Claims.codeBits f).1 →
    let x := c * 2 ^ (Claims.codeBits f).2
    (f.value bank x).isNan = false → f.round bank { mode := mode } (f.value bank x) = (x, 0))

namespace Claims

/-- R129: an operand: a pair for F64, the low half of a register for a 16-bit format; LIT32 in place of B, widened exactly for F64. -/
def fbits (s : State) (f : Fmt) (r : Reg) : Nat :=
  if f = .f64 then (s.me.rd2 r).toNat else if f = .f32 then (s.me.rd r).toNat else (s.me.rd r).toNat % 2 ^ 16
def farg (s : State) (o : LOps) (f : Fmt) : Nat :=
  match o.lit with
  | some l => if f = .f64 then widenF32 l.toNat else if f = .f32 then l.toNat else l.toNat % 2 ^ 16
  | none => fbits s f o.b
def fa (s : State) (o : LOps) (m : FpMod) : Sys2Proof.Num := m.ty.value (s.bank s.me) (fbits s m.ty o.a)
def fb (s : State) (o : LOps) (m : FpMod) : Sys2Proof.Num := m.ty.value (s.bank s.me) (farg s o m.ty)
def fc (s : State) (o : LOps) (m : FpMod) : Sys2Proof.Num := m.ty.value (s.bank s.me) (fbits s m.ty o.c)
/-- R120, R122: the mode of an instruction, with DRND in place of `.DYN`. -/
def fmode (s : State) (m : FpMod) : Rnd :=
  if m.rnd ≠ .dyn then m.rnd else
  match (s.me.fcr &&& 7).toNat with
  | 1 => .rz | 2 => .rp | 3 => .rm | 4 => .ra | 5 => .rs | 6 => .ro | _ => .rn
/-- R123, R124: `Round` by the fields of an instruction for element `k` of `n` in a register. -/
def fround (s : State) (m : FpMod) (f : Fmt) (n k : Nat) (v : Sys2Proof.Num × Flags) : Nat × Flags :=
  let by_ : RoundBy := { mode := fmode s m, sat := m.sat, ftz := m.ftz, scaled := false,
                         dither := ditherIdx (n * s.me.member + k) ((s.me.fcr >>> 16) &&& 63).toNat }
  ((f.round (s.bank s.me) by_ v.1).1, (f.round (s.bank s.me) by_ v.1).2 ||| v.2)
/-- Write a result of a format: a pair for F64. -/
def fput (s : State) (d : Reg) (f : Fmt) (x : Nat) : State := if f = .f64 then s.wr2 d (BitVec.ofNat 64 x) else s.wr d (BitVec.ofNat 32 x)

/-- R135: the outcome of a comparison, and its flag. -/
def fcompare (c : Nat) (a b : Sys2Proof.Num) : Bool × Flags :=
  let signalling : Bool := a == .nan true || b == .nan true
  let iv : Flags := if signalling then flagIV else 0
  match a.cmp b with
  | some r => ((if c = 0 then r == .eq else if c = 1 then r != .eq else if c = 2 then r == .lt else if c = 3 then r != .gt
               else if c = 4 then r == .gt else if c = 5 then r != .lt else c == 7), 0)
  | none => if c = 0 then (false, iv) else if c = 1 then (true, iv) else if c = 6 then (true, iv) else if c = 7 then (false, iv) else (false, flagIV)

/-- The active elements of a packed instruction of two elements (R142). -/
def fpairs (m : FpMod) : List Nat := if m.sub = 0 then [0, 1] else List.range m.sub.toNat
/-- Element `k` of 16 bits. -/
def half (w : Word) (k : Nat) : Nat := w.toNat / 2 ^ (16 * k) % 2 ^ 16
def packed (s : State) (o : LOps) (m : FpMod) (f : Nat → Nat → Nat → Nat → Nat × Flags) : Flags × (State → State) :=
  let w := o.lit.getD (s.me.rd o.b)
  let rs := (fpairs m).map (fun k => f k (half (s.me.rd o.a) k) (half w k) (half (s.me.rd o.c) k))
  (rs.foldl (fun x r => x ||| r.2) 0, fun t => t.wr o.d (BitVec.ofNat 32 ((rs.getD 0 (0, 0)).1 % 2 ^ 16 + 2 ^ 16 * ((rs.getD 1 (0, 0)).1 % 2 ^ 16))))

/-- R144: the elements of a dot product: their format's count, and those that are active. -/
def dotCount (s : State) (m : FpMod) : Nat :=
  match m.ty with
  | .bf16 | .f16 => 2
  | .e2m1 | .e1m2 | .i4 | .n4 => 8
  | .i2 => 16
  | .b1 => 32
  | .pf k => if pfStorage (s.bank s.me)[k.toNat] = 4 then 8 else 4
  | _ => 4
def dotActive (s : State) (m : FpMod) : Nat :=
  let e := m.sub.toNat + (if m.ty = .b1 ∧ m.ftz then 16 else 0)
  if e = 0 then dotCount s m else e
def dotTerm (s : State) (o : LOps) (m : FpMod) (j : Nat) : Sys2Proof.Num × Sys2Proof.Num :=
  let w := 32 / dotCount s m
  let el (x : Word) : Sys2Proof.Num := m.ty.value (s.bank s.me) (x.toNat / 2 ^ (w * j) % 2 ^ w)
  (el (s.me.rd o.a), el (o.lit.getD (s.me.rd o.b)))

/-- R136: the bit of the class of an operand. -/
def classBit (ty : Fmt) : Sys2Proof.Num → Nat
  | .nan sg => if sg then 0 else 1
  | .inf neg => if neg then 2 else 9
  | .fin neg n e =>
    if n = 0 then (if neg then 5 else 6)
    else if (2 : ℚ) ^ (if ty = .f64 then -1022 else if ty = .f16 then -14 else -126 : ℤ) ≤ (n : ℚ) * 2 ^ e then (if neg then 3 else 8)
    else (if neg then 4 else 7)

/-- R129 to R138, R142 to R144: the flags that an instruction raises, and what it writes when no trap stops it. -/
def float (s : State) : Instr → Option (Flags × (State → State))
  | .fpAdd o m => val s o m ((fa s o m).add (fmode s m == .rm) (fb s o m))
  | .fpSub o m => val s o m ((fa s o m).add (fmode s m == .rm) (fb s o m).neg)
  | .fpMul o m => val s o m ((fa s o m).mul (fb s o m))
  | .fma o m => val s o m (Sys2Proof.Num.fma (fmode s m == .rm) (fa s o m) (fb s o m) (fc s o m))
  | .fms o m => val s o m (Sys2Proof.Num.fma (fmode s m == .rm) (fa s o m) (fb s o m) (fc s o m).neg)
  | .fnma o m => val s o m (Sys2Proof.Num.fma (fmode s m == .rm) (fa s o m).neg (fb s o m) (fc s o m))
  | .fnms o m => val s o m (Sys2Proof.Num.fma (fmode s m == .rm) (fa s o m).neg (fb s o m) (fc s o m).neg)
  | .fpDiv o m =>
    let v := (fa s o m).div (fb s o m)
    if v.2 = flagDZ ∧ m.sat ≠ .none then some (flagDZ, fun t => fput t o.d m.ty (m.ty.round (s.bank s.me) { mode := .rn, sat := .sati } v.1).1)
    else val s o m v
  | .sqrt o m => val s o m (fa s o m).sqrt
  | .scale o m => val s o m ((fa s o m).scale (o.lit.getD (s.me.rd o.b)).toInt, (fa s o m).snan)
  | .fpMin o m => some (bits s o m false)
  | .fpMax o m => some (bits s o m true)
  | .fpCmp o m =>
    let r := fcompare (o.d.toNat / 8 % 8) (fa s o m) (fb s o m)
    some (r.2, fun t => t.setPred (o.d.setWidth 3) r.1)
  | .rint o m => some ((rintValue s m (fa s o m)).2, fun t => fput t o.d m.ty (rintValue s m (fa s o m)).1)
  | .getexp o m => some (match fa s o m with
    | .nan _ => (flagIV, fun t => t.wr o.d 0x80000000)
    | .inf _ => (0, fun t => t.wr o.d 0x7FFFFFFF)
    | .fin _ k e => if k = 0 then (flagDZ, fun t => t.wr o.d 0x80000000) else (0, fun t => t.wr o.d (BitVec.ofInt 32 (k.log2 + e))))
  | .padd o m => some (packed s o m (fun k a b _ => fround s m m.ty 2 k ((v2 s m a).add (fmode s m == .rm) (v2 s m b))))
  | .pmul o m => some (packed s o m (fun k a b _ => fround s m m.ty 2 k ((v2 s m a).mul (v2 s m b))))
  | .pfma o m => some (packed s o m (fun k a b c => fround s m m.ty 2 k (Sys2Proof.Num.fma (fmode s m == .rm) (v2 s m a) (v2 s m b) (v2 s m c))))
  | .fclass o m => some (0, fun t => t.wr o.d (BitVec.ofNat 32 (2 ^ classBit m.ty (fa s o m))))
  | .pdot o m =>
    let ts := (List.range (dotActive s m)).map (dotTerm s o m)
    if m.ty.isIntDot then
      (ts.foldlM (fun (acc : ℚ) (t : Sys2Proof.Num × Sys2Proof.Num) => do let a ← rat t.1; let b ← rat t.2; some (acc + a * b)) ((s.me.rd o.c).toInt : ℚ)).map
        (fun (x : ℚ) => (0, fun t => iput t o.d .i32 (ifit { IntMod.s .i32 with sat := m.sat == Sat.sat } ⌊x⌋)))
    else
      let c := Fmt.f32.value (s.bank s.me) (s.me.rd o.c).toNat
      let ps := ts.map (fun t => t.1.mul t.2)
      let xs := c :: ps.map (·.1)
      let fl := ps.foldl (fun x p => x ||| p.2) c.snan
      let v := if xs.any (·.isNan) then (.nan false, fl) else if xs.contains (.inf true) && xs.contains (.inf false) then (.nan false, fl ||| flagIV)
        else (ps.foldl (fun x p => (x.add (fmode s m == .rm) p.1).1) c, fl)
      let r := fround s m .f32 1 0 v
      some (r.2, fun t => t.wr o.d (BitVec.ofNat 32 r.1))
  | .pmax o m => some (packed s o m (fun _ a b _ => minMaxBits (s.bank s.me) m.ty true a b))
  | _ => none
where
  val (s : State) (o : LOps) (m : FpMod) (v : Sys2Proof.Num × Flags) : Option (Flags × (State → State)) :=
    some ((fround s m m.ty 1 0 v).2, fun t => fput t o.d m.ty (fround s m m.ty 1 0 v).1)
  bits (s : State) (o : LOps) (m : FpMod) (max : Bool) : Flags × (State → State) :=
    let r := minMaxBits (s.bank s.me) m.ty max (fbits s m.ty o.a) (farg s o m.ty)
    (r.2, fun t => fput t o.d m.ty r.1)
  v2 (s : State) (m : FpMod) (x : Nat) : Sys2Proof.Num := m.ty.value (s.bank s.me) x

/-- R121: raise flags. -/
def fraise (s : State) (fl : Flags) : State := s.upd (fun t => { t with fsr := t.fsr ||| fl.setWidth 32 })

end Claims

/-- R121, R127 to R133, R135 to R138, R142 to R144: `ADD`, `SUB`, `MUL`, `FMA`, `FMS`, `FNMA`, `FNMS`,
`DIV`, `SQRT`, `MIN`, `MAX`, `CMP`, `CLASS`, `RINT`, `SCALE`, `GETEXP`, `PADD`, `PMUL`, `PFMA`,
`PMAX` and `PDOT`, and the S32 forms, complete when no flag that they raise is enabled: the result
is the exact one rounded once, the flags join `sr.fsr`, and nothing else changes. Where a flag that
they raise is enabled, without the logged mode they take the arithmetic trap (cause 11) with all the
flags and write nothing; in the logged mode they write their result and flags, and the exception is
logged (R128). The division by zero under SAT, the PC in a log record, the rounding where the manual
leaves it open and the literal of packed instructions are the model's reading and choice
(assumptions 16, 18, 80, 81 and 86). -/
def Obligations.FloatCompletesOrTraps : Prop :=
  ∀ (i : Instr) (s : State) (fl : Flags) (w : State → State), s.issues i = true → Claims.float s i.long = some (fl, w) →
    (s.quiet fl = true → CompletesTo i s (w (Claims.fraise s fl))) ∧
    (s.quiet fl = false →
      (s.me.fcr.getLsbD 22 = false → exec i s = .next (s.trap 11 0 (fl.setWidth 64))) ∧
      (s.me.fcr.getLsbD 22 = true → CompletesTo i s (w ((Claims.fraise s fl).appendLog fl)))) ∧
    -- R137: what `RINT` makes of a number
    (∀ (m : FpMod) (v : Sys2Proof.Num),
      let mode := match Claims.fmode s m with | .rs | .ro => .rn | x => x
      let out (v : Sys2Proof.Num) : Nat := (m.ty.round (s.bank s.me) { mode := .rn } v).1
      (∀ neg k e, v = .fin neg k e →
        let x : ℚ := k * 2 ^ e
        let n : ℤ := if x = ⌊x⌋ then ⌊x⌋ else Claims.chosen mode neg 0 x
        rintValue s m v = (out (.fin neg n.toNat 0), if x = ⌊x⌋ then 0 else flagNX)) ∧
      (∀ neg, v = .inf neg → rintValue s m v = (out v, 0)) ∧ (∀ sg, v = .nan sg → rintValue s m v = (out v, if sg then flagIV else 0)))

/-- R134: `ABS` clears the sign bit of A, `NEG` inverts it, and `CPYSGN` writes A with the sign bit of B; all other bits pass through, and no flag is set. -/
def Obligations.SignInstructionsComplete : Prop :=
  ∀ (i : Instr) (o : LOps) (m : FpMod) (s : State), s.issues i = true →
    let w := if m.ty = .f64 then 64 else if m.ty = .f32 then 32 else 16
    let a := Claims.fbits s m.ty o.a
    let put (sgn : Bool) : State := Claims.fput s o.d m.ty ((List.range w).foldl (fun n k => n + (if (if k = w - 1 then sgn else a.testBit k) then 2 ^ k else 0)) 0)
    (i = .fpAbs o m → CompletesTo i s (put false)) ∧ (i = .fpNeg o m → CompletesTo i s (put (!a.testBit (w - 1)))) ∧
    (i = .cpysgn o m → CompletesTo i s (put ((Claims.farg s o m.ty).testBit (w - 1))))

namespace Claims

/-- R139 to R141, R145, R158 to R160: the destination, the words and the flags of a conversion or a special function. -/
def queued (s : State) : Instr → Option (Reg × List Word × Flags)
  | .cvt o m =>
    let f := Fmt.ofCode (o.c.setWidth 5)
    let v := f.value (s.bank s.me) ((if f = .f64 then (s.me.rd2 o.a).toNat else (s.me.rd o.a).toNat) % 2 ^ f.bits (s.bank s.me))
    some (wordsOf o.d m.ty (fround s m m.ty 1 0 (v, v.snan)))
  | .cvti o m =>
    let t := IType.ofCode (o.c.setWidth 3)
    let by_ : RoundBy := { mode := fmode s m, dither := ditherIdx s.me.member ((s.me.fcr >>> 16) &&& 63).toNat }
    let r := cvtiValue by_ t (fa s o m)
    some (o.d, (if t.width = 64 then [BitVec.ofInt 32 r.1, BitVec.ofInt 32 (r.1 / 2 ^ 32)]
      else [if t.signed then (BitVec.ofInt t.width r.1).signExtend 32 else (BitVec.ofInt t.width r.1).setWidth 32]), r.2)
  | .cvtf o m => some (wordsOf o.d m.ty (fround s m m.ty 1 0 (.int (isrc s (IType.ofCode (o.c.setWidth 3)) o.a), 0)))
  | .pcvt o m =>
    let n := pcvtN (s.bank s.me) m.ty
    let k := if m.sub.toNat % 8 = 0 then n else m.sub.toNat % 8
    let sc := Fmt.e8m0.value noBank ((o.lit.getD (s.me.rd o.b)).toNat % 256)
    if m.sub.getLsbD 3 then
      let rs := (List.range k).map (fun j => pcvtElem s m n j sc (m.ty.value (s.bank s.me) ((s.me.rd o.a).toNat / 2 ^ (32 / n * j) % 2 ^ (32 / n))))
      some (o.d, rs.map (fun r => BitVec.ofNat 32 r.1), rs.foldl (fun x r => x ||| r.2) 0)
    else
      let rs := (List.range k).map (fun j => pcvtElem s m n j sc (Fmt.f32.value (s.bank s.me) (s.me.rd (o.a + BitVec.ofNat 8 j)).toNat))
      some (o.d, [BitVec.ofNat 32 (((List.range k).map (fun j => (rs.getD j (0, 0)).1 % 2 ^ (32 / n) * 2 ^ (32 / n * j))).sum)],
        rs.foldl (fun x r => x ||| r.2) 0)
  | .rcp o m => some (special s o m .rcp)
  | .rsq o m => some (special s o m .rsq)
  | .exp2 o m => some (special s o m .exp2)
  | .log2 o m => some (special s o m .log2)
  | .sin o m => some (special s o m .sin)
  | .cos o m => some (special s o m .cos)
  | .tanh o m => some (special s o m .tanh)
  | _ => none
where
  wordsOf (d : Reg) (f : Fmt) (r : Nat × Flags) : Reg × List Word × Flags :=
    (d, (if f = .f64 then [BitVec.ofNat 32 r.1, BitVec.ofNat 32 (r.1 / 2 ^ 32)] else [BitVec.ofNat 32 r.1]), r.2)
  special (s : State) (o : LOps) (m : FpMod) (f : Sfu) : Reg × List Word × Flags :=
    let r := sfuValue f m { mode := .rn, sat := m.sat, ftz := m.ftz } (fbits s m.ty o.a)
    (o.d, [BitVec.ofNat 32 r.1], r.2)

end Claims

namespace Claims
/-- R159: the ulp of a format at a magnitude, with subnormal spacing below the smallest normal value. -/
def ulp (f : Fmt) (c : ℚ) : ℚ :=
  let (lo, bits) : ℤ × ℤ := match f with | .f32 => (-149, 23) | .bf16 => (-133, 7) | _ => (-24, 10)
  if c = 0 then 2 ^ lo else 2 ^ max lo (Int.log 2 |c| - bits)
/-- R159: how far from the exact result `c` the approximation for an input `x` may lie. -/
def sfuRoom (f : Sfu) (ty : Fmt) (x c : ℚ) : ℚ :=
  match f with
  | .rcp => if ty = .f32 then ulp ty c else 0
  | .rsq => if ty = .f32 then 2 * ulp ty c else 0
  | .exp2 => if ty = .f32 then 2 * ulp ty c else ulp ty c
  | .log2 => if ty ≠ .f32 then ulp ty c else if x < 1 / 2 ∨ 2 < x then 2 * ulp ty c else 2 ^ (-22 : ℤ)
  | .sin | .cos => if ty = .f32 then 2 ^ (-21 : ℤ) else 2 ^ (-9 : ℤ)
  | .tanh => if ty = .f32 then max (2 * ulp ty c) (2 ^ (-24 : ℤ)) else ulp ty c
/-- R158: the instruction goes to the SFU queue. -/
def isSfu : Instr → Bool
  | .rcp _ _ | .rsq _ _ | .exp2 _ _ | .log2 _ _ | .sin _ _ | .cos _ _ | .tanh _ _ => true
  | _ => false
end Claims

/-- R69, R126, R127, R139 to R141, R145, R158 to R160: `CVT`, `CVTI`, `CVTF`, `PCVT`, `RCP`, `RSQ`, `EXP2`, `LOG2`, `SIN`, `COS` and `TANH`, and the S32 forms, complete. While no
trap is enabled the result is a producer's, which arrives later with its flags; otherwise it is written at once with its flags, and a flag that is enabled takes the
arithmetic trap instead, or is logged in the logged mode. A function waits while the SFU queue of its partition holds 32 bundles (R158) and it belongs to none of
them. The special inputs of the functions
give the results and flags of the table in R160. The bits of an approximated function are free values (assumption 1), within the bound of R159 of what the model takes
for the exact result, which is worked out to about 2^-80 (assumption 17), and NX is set; that is shown here of `RCP` and `RSQ`. `RCP` of ±2^k, `RSQ` of 4^k, `EXP2` of an
integer with a representable result and `LOG2` of 2^k are exact. `CVTI` rounds to an integer and judges the range then, and `PCVT` rounds the scaled value. What an
overflow on the negative side gives, and which bit counts as the last where a format has no mantissa bits, are the model's reading and choice (assumptions 80 and 81). -/
def Obligations.ConversionsAndFunctionsComplete : Prop :=
  (∀ (i : Instr) (s : State) (d : Reg) (ws : List Word) (fl : Flags), s.issues i = true → Claims.queued s i.long = some (d, ws, fl) →
    let put (t : Thread) : Thread := (t.wrs d ws).mend d ws.length
    (Claims.isSfu i.long = true → s.sfuFull = true → exec i s = .next (s.await .queue)) ∧
    ((Claims.isSfu i.long = true → s.sfuFull = false) →
      ((s.me.fcr >>> 4) &&& 63 = 0 → CompletesTo i s (s.enqueue d ws fl (if Claims.isSfu i.long then some (s.me.pc, s.cycle) else none))) ∧
      ((s.me.fcr >>> 4) &&& 63 ≠ 0 →
        (s.quiet fl = true → CompletesTo i s ((Claims.fraise s fl).upd put)) ∧
        (s.quiet fl = false → s.me.fcr.getLsbD 22 = false → exec i s = .next (s.trap 11 0 (fl.setWidth 64))) ∧
        (s.quiet fl = false → s.me.fcr.getLsbD 22 = true → CompletesTo i s (((Claims.fraise s fl).appendLog fl).upd put))))) ∧
  (∀ (f : Sfu) (neg : Bool) (e : Int) (sg : Bool) (m : Nat),
    sfuSpecial f (.nan sg) = some (.nan false, if sg then flagIV else 0) ∧
    sfuSpecial f (.fin neg 0 e) = some (match f with
      | .rcp | .rsq => (.inf neg, flagDZ) | .exp2 | .cos => (.fin false 1 0, 0) | .log2 => (.inf true, flagDZ) | .sin | .tanh => (.fin neg 0 e, 0)) ∧
    sfuSpecial f (.inf neg) = some (match f, neg with
      | .rcp, n => (.fin n 0 0, 0) | .rsq, false => (.fin false 0 0, 0) | .exp2, false => (.inf false, 0) | .exp2, true => (.fin false 0 0, 0)
      | .log2, false => (.inf false, 0) | .tanh, n => (.fin n 1 0, 0) | _, _ => (.nan false, flagIV)) ∧
    (m ≠ 0 → (f = .rsq ∨ f = .log2) → sfuSpecial f (.fin true m e) = some (.nan false, flagIV))) ∧
  -- R159
  (∀ (f : Sfu) (m : FpMod) (b : RoundBy) (bits : Nat) (x : ℚ), m.ty = .f32 ∨ m.ty = .bf16 ∨ m.ty = .f16 → sfuSpecial f (m.ty.value noBank bits) = none →
    Claims.rat (m.ty.value noBank bits) = some x →
    ∃ (v : Sys2Proof.Num) (q c : ℚ), Claims.rat v = some q ∧ Claims.rat (sfuCentre f (m.ty.value noBank bits)) = some c ∧ |q - c| ≤ Claims.sfuRoom f m.ty x c ∧
      (sfuValue f m b bits).1 = (m.ty.round noBank b v).1 ∧
      ((sfuValue f m b bits).2 = (m.ty.round noBank b v).2 ||| flagNX ∨ sfuExact f m.ty (m.ty.value noBank bits) = some v ∧ (sfuValue f m b bits).2 = (m.ty.round noBank b v).2)) ∧
  (∀ (v : Sys2Proof.Num) (x : ℚ), Claims.rat v = some x →
    (x ≠ 0 → ∃ c, Claims.rat (sfuCentre .rcp v) = some c ∧ |c - 1 / x| ≤ |1 / x| * 2 ^ (-78 : ℤ)) ∧
    (0 < x → ∃ c, Claims.rat (sfuCentre .rsq v) = some c ∧ 0 < c ∧ c * c * x ≤ 1 + 2 ^ (-78 : ℤ) ∧ 1 ≤ c * c * x + 2 ^ (-78 : ℤ)) ∧
    (∀ k : ℤ, (|x| = 2 ^ k → ∃ w, sfuExact .rcp .f32 v = some w ∧ Claims.rat w = some (1 / x)) ∧
      (x = 4 ^ k → ∃ w, sfuExact .rsq .f32 v = some w ∧ Claims.rat w = some (2 ^ (-k))) ∧
      (x = 2 ^ k → ∃ w, sfuExact .log2 .f32 v = some w ∧ Claims.rat w = some (k : ℚ)) ∧
      (x = k → -149 ≤ k → k ≤ 127 → ∃ w, sfuExact .exp2 .f32 v = some w ∧ Claims.rat w = some (2 ^ k)))) ∧
  -- R140, R145
  (∀ (b : RoundBy) (t : IType), b.dither < 64 →
    let lo : ℤ := if t.signed then -2 ^ (t.width - 1) else 0
    let hi : ℤ := if t.signed then 2 ^ (t.width - 1) - 1 else 2 ^ t.width - 1
    (∀ sg, cvtiValue b t (.nan sg) = (0, flagIV)) ∧ (∀ neg, cvtiValue b t (.inf neg) = (if neg then lo else hi, flagIV)) ∧
    ∀ (neg : Bool) (k : Nat) (e : ℤ),
      let x : ℚ := k * 2 ^ e
      let n : ℤ := (if neg then -1 else 1) * (if x = ⌊x⌋ then ⌊x⌋ else Claims.chosen b.mode neg b.dither x)
      cvtiValue b t (.fin neg k e) = if n < lo then (lo, flagIV) else if hi < n then (hi, flagIV) else (n, if x = ⌊x⌋ then 0 else flagNX)) ∧
  (∀ (s : State) (m : FpMod) (n j k : Nat) (v : Sys2Proof.Num),
    let up : Bool := m.sub.getLsbD 3
    let f : Fmt := if up then .f32 else m.ty
    let by_ : RoundBy := { mode := Claims.fmode s m, sat := m.sat, ftz := m.ftz, scaled := true, dither := ditherIdx (n * s.me.member + j) ((s.me.fcr >>> 16) &&& 63).toNat }
    let out (v : Sys2Proof.Num) : Nat × Flags := f.round (s.bank s.me) by_ v
    (k < 255 → pcvtElem s m n j (Fmt.e8m0.value noBank k) v = ((out (v.scale (if up then k - 127 else 127 - k))).1, (out (v.scale (if up then k - 127 else 127 - k))).2 ||| v.snan)) ∧
    pcvtElem s m n j (Fmt.e8m0.value noBank 255) v = ((out (.nan false)).1, (out (.nan false)).2 ||| v.snan))


/-! ### Collectives (R72 to R76, R86 to R88, R146 to R157) -/

namespace Claims

/-- R65: the started membership of the issuing thread's group. -/
def startedMask (s : State) : BitVec 64 := match s.group? s.me with | some g => g.started | none => 0
/-- R146: the member mask of a cross-lane instruction. -/
def laneMask (s : State) (o : LOps) : BitVec 64 := match o.lit with | some l => l.setWidth 64 | none => if o.b = 0 then startedMask s else s.me.rd2 o.b
/-- R73: a participant goes on at the next start, its ordinal raised by 1. -/
def passOn (n : Nat) (s : State) : State := s.upd (fun t => { t with ord := t.ord + 1, pc := nextStart t.pc n, run := .ready, resv := t.resv.map Resv.older })
/-- R146, R147: a value that a participant presents. -/
def laneVal (s : State) (m : FpMod) (r : Reg) : Dword := if m.ty = .f64 then s.me.rd2 r else (s.me.rd r).setWidth 64
def lanePut (s : State) (m : FpMod) (d : Reg) (v : Nat) : State := if m.ty = .f64 then s.wr2 d (BitVec.ofNat 64 v) else s.wr d (BitVec.ofNat 32 v)
/-- What participant `j` presented: V(j). -/
def at_ (ps : Parts) (j : Nat) : Option Nat := (ps.find? (fun p => p.2.1 = j)).map (fun p => (p.2.2.headD 0).toNat)
/-- The participants that presented true. -/
def onTrue (ps : Parts) : List Nat := (ps.filter (fun p => p.2.2.headD 0 ≠ 0)).map (fun p => p.2.1)
def maskSum (l : List Nat) : Nat := (l.map (fun j => 2 ^ j)).sum

/-- R153: node (l, i) of the fixed tree, with the flags of the nodes under it. -/
def node (op : Nat → Nat → Nat × Flags) (v : Nat → Option Nat) : Nat → Nat → Option Nat × Flags
  | 0, i => (v i, 0)
  | l + 1, i =>
    let a := node op v l (2 * i)
    let b := node op v l (2 * i + 1)
    match a.1, b.1 with
    | none, _ => (b.1, a.2 ||| b.2)
    | _, none => (a.1, a.2 ||| b.2)
    | some x, some y => (some (op x y).1, a.2 ||| b.2 ||| (op x y).2)
/-- R153: the node operation. -/
def nodeOp (m : FpMod) (x y : Nat) : Nat × Flags :=
  let by_ : RoundBy := { mode := m.rnd, sat := m.sat, ftz := m.ftz }
  let op := m.sub.toNat % 8
  if m.ty = .i32 then
    let sx : Int := if x.testBit 31 then x - 2 ^ 32 else x
    let sy : Int := if y.testBit 31 then y - 2 ^ 32 else y
    (if op = 0 then (x + y) % 2 ^ 32 else if op = 1 then (if sx ≤ sy then x else y) else if op = 2 then (if sx < sy then y else x)
     else if op = 3 then x &&& y else if op = 4 then x ||| y else x ^^^ y, 0)
  else if op = 0 then
    let v := (m.ty.value noBank x).add (m.rnd == .rm) (m.ty.value noBank y)
    ((m.ty.round noBank by_ v.1).1, v.2 ||| (m.ty.round noBank by_ v.1).2)
  else minMaxBits noBank m.ty (op == 2) x y
/-- `Tree(S)` over those participants of which `p` holds. -/
def tree (m : FpMod) (ps : Parts) (p : Nat → Bool) : Option Nat × Flags := node (nodeOp m) (fun j => if p j then at_ ps j else none) 6 0
/-- R153: the members over which a scan's participant `self` sums. -/
def scanned (m : FpMod) (self j : Nat) : Bool := decide (j < self) || (!m.sub.getLsbD 3 && j == self)
/-- R154: a participant receives its result and the flags of the instance, or takes the arithmetic trap, or makes its record. -/
def laneOut (m : FpMod) (n : Nat) (d : Reg) (v : Nat) (fl : Flags) (s : State) : State :=
  if fl &&& ((s.me.fcr >>> 4).setWidth 6) = 0 then passOn n (lanePut (fraise s fl) m d v)
  else if s.me.fcr.getLsbD 22 then passOn n (lanePut ((fraise s fl).appendLog fl) m d v)
  else (s.upd (fun t => { t with ord := t.ord + 1 })).trap 11 0 (fl.setWidth 64)

/-- A collective: the kind of its wait, its mask, whether exited members count as arrived (R76), what a member presents, and what happens in each participant's
place once all have arrived. -/
structure Meeting where
  kind : WaitKind
  mask : BitVec 64
  exitOk : Bool
  data : List Dword
  act : Parts → State → State

/-- R86 to R88, R149 to R154. -/
def meeting (s : State) (n : Nat) : Instr → Option Meeting
  | .conv o _ =>
    some { kind := .conv, mask := match o.lit with | some l => l.setWidth 64 | none => s.me.rd2 o.a, exitOk := true, data := [BitVec.ofNat 64 n], act := fun _ => passOn n }
  | .barGrp _ _ =>
    if s.ops.any (fun x => x.uid == s.me.uid) then none
    else some { kind := .barGrp, mask := startedMask s, exitOk := true, data := [BitVec.ofNat 64 n], act := fun _ => passOn n }
  | .brv o m =>
    some { kind := .coll, mask := if o.b = 0 then startedMask s else s.me.rd2 o.b, exitOk := false, data := [if s.me.pred (o.a.setWidth 3) then 1 else 0],
           act := fun ps t =>
             let some_ := !(onTrue ps).isEmpty
             let all := (onTrue ps).length == ps.length
             let a := s.me.pc + (o.lit.getD 0).signExtend 64
             if (if m.sub = 0 then some_ else if m.sub = 1 then all else !some_) then
               match (t.checkTarget a true).1 with
               | .held | .park => t.transferTo a true id
               | _ => (t.upd (fun x => { x with ord := x.ord + 1 })).transferTo a true (State.goto a)
             else passOn n t }
  | .shfl o m => lane s o [laneVal s m o.a] (fun ps t =>
      let c : Int := (t.me.rd o.c).toNat
      let self : Int := t.me.member
      let src : Int := if m.sub = 0 then c else if m.sub = 1 then self - c else if m.sub = 2 then self + c else (t.me.member ^^^ (t.me.rd o.c).toNat : Nat)
      let own := (at_ ps t.me.member).getD 0
      let w : Int := match t.group? t.me with | some g => g.width | none => 8
      passOn n (lanePut t m o.d (if 0 ≤ src ∧ src < w then (at_ ps src.toNat).getD own else own)))
  | .bcast o m => lane s o [laneVal s m o.a, (s.me.rd o.c).setWidth 64] (fun ps t =>
      let c := (t.me.rd o.c).toNat
      if ps.any (fun p => (p.2.2.getD 1 0).toNat ≠ c) then t.trap 8 0 0
      else match at_ ps c with
        | none => t.trap 7 0 0
        | some v => passOn n (lanePut t m o.d v))
  | .vote o m => lane s o [if s.me.pred (o.a.setWidth 3) then 1 else 0] (fun ps t =>
      passOn n (if m.sub = 0 then t.setPred (o.d.setWidth 3) (!(onTrue ps).isEmpty)
        else if m.sub = 1 then t.setPred (o.d.setWidth 3) ((onTrue ps).length == ps.length)
        else if m.sub = 2 then t.wr2 o.d (BitVec.ofNat 64 (maskSum (onTrue ps)))
        else t.wr o.d (BitVec.ofNat 32 (onTrue ps).length)))
  | .matchAny o m => lane s o [laneVal s m o.a] (fun ps t =>
      passOn n (t.wr2 o.d (BitVec.ofNat 64 (maskSum ((ps.map (fun p => p.2.1)).filter (fun j => at_ ps j = at_ ps t.me.member))))))
  | .laneRed o m => lane s o [laneVal s m o.a] (fun ps t => laneOut m n o.d ((tree m ps (fun _ => true)).1.getD 0) (tree m ps (fun _ => true)).2 t)
  | .laneScan o m => lane s o [laneVal s m o.a] (fun ps t =>
      let id : Nat := match m.sub.toNat % 8, m.ty with
        | 1, .f64 => 0x7FF0000000000000 | 1, .f32 => 0x7F800000 | 1, _ => 0x7FFFFFFF
        | 2, .f64 => 0xFFF0000000000000 | 2, .f32 => 0xFF800000 | 2, _ => 0x80000000
        | 3, _ => 0xFFFFFFFF | _, _ => 0
      laneOut m n o.d ((tree m ps (scanned m t.me.member)).1.getD id) (ps.foldl (fun fl p => fl ||| (tree m ps (scanned m p.2.1)).2) 0) t)
  | _ => none
where
  lane (s : State) (o : LOps) (data : List Dword) (act : Parts → State → State) : Option Meeting :=
    some { kind := .coll, mask := laneMask s o, exitOk := false, data := data, act := act }

end Claims

/-- R72, R73, R76, R86 to R88, R146, R149 to R154: `CONV`, `BAR.GRP`, `BRV`, `SHFL`, `BCAST`, `VOTE`,
`MATCH`, `LANE.RED` and `LANE.SCAN`, and the S32 forms of the first two, complete in the step in
which the last member that the mask names arrives: the effect that the rule gives happens in the
place of every participant. That the instance completes at the turn of the last member, for all, is
the model's reading (assumption 19), and so are the flags of a scan (assumption 45). -/
def Obligations.CollectivesComplete : Prop :=
  ∀ (i : Instr) (s : State) (c : Claims.Meeting) (ps : Parts), s.issues i = true → s.uncancelled = true → Claims.meeting s i.syllables i.long = some c →
    s.gathered c.kind c.mask c.exitOk c.data ps = true → exec i s = .next (ps.foldl (fun t p => t.asThread p.1 (c.act ps)) s)

/-- R72, R73: a member of a collective waits at it while another that its mask names has not arrived, takes the illegal-convergence trap (7) when its mask does not
name itself or names a member that did not start, and the collective-mismatch trap (8) when a named member is ahead of it. -/
def Obligations.CollectivesWaitOrTrap : Prop :=
  ∀ (i : Instr) (s : State) (c : Claims.Meeting) (g : Group), s.issues i = true → s.uncancelled = true → Claims.meeting s i.syllables i.long = some c →
    s.group? s.me = some g →
    let mask := if g.width ≤ 32 then c.mask &&& 0x7FFFFFFFFFFFFFFF else c.mask
    ((mask.getLsbD s.me.member = false ∨ mask &&& ~~~ g.started ≠ 0 ∨ 2 ^ g.width ≤ mask.toNat) → exec i s = .next (s.trap 7 0 0)) ∧
    (mask.getLsbD s.me.member = true → mask &&& ~~~ g.started = 0 → mask.toNat < 2 ^ g.width →
      (∀ t ∈ s.others, t.sameGroup s.me = true → t.arrival = none) →
      ((∃ t ∈ s.others, t.uid ≠ s.me.uid ∧ t.sameGroup s.me = true ∧ mask.getLsbD t.member = true ∧ t.run ≠ .exited ∧ 1 ≤ (t.ord - s.me.ord).toNat ∧ (t.ord - s.me.ord).toNat ≤ 32768) →
        exec i s = .next (s.trap 8 0 0)) ∧
      ((∀ t ∈ s.others, t.sameGroup s.me = true → mask.getLsbD t.member = true → t.run ≠ .exited ∧ t.ord = s.me.ord) →
        (∃ t ∈ s.others, t.uid ≠ s.me.uid ∧ t.sameGroup s.me = true ∧ mask.getLsbD t.member = true ∧ t.member ≠ s.me.member ∧ t.member < 64) →
        exec i s = .next (s.awaitWith { kind := c.kind, mask := mask, data := c.data })))

/-- R73, R86: when a `CONV` or a `BAR.GRP` completes, every participant stands at the next start with its ordinal raised by 1 (and a reservation one instruction older), and no other thread, and nothing else in the
module, has changed. -/
def Obligations.ConvergencePassesEveryMember : Prop :=
  ∀ (i : Instr) (s : State) (c : Claims.Meeting) (ps : Parts), s.issues i = true → s.uncancelled = true → Claims.meeting s i.syllables i.long = some c →
    (c.kind = .conv ∨ c.kind = .barGrp) → s.gathered c.kind c.mask c.exitOk c.data ps = true → (s.threads.map (·.uid)).Nodup →
    ∃ u, exec i s = .next u ∧
      u.threads = s.threads.map (fun t => if ps.any (fun p => p.1 == t.uid) then { t with ord := t.ord + 1, pc := nextStart t.pc i.syllables, run := .ready, resv := t.resv.map Resv.older } else t) ∧
      { u with me := s.me, others := s.others } = s

namespace Claims

/-- A group of the issuing thread's role. -/
def groupOf (s : State) (gid : Nat) : Option Group := s.groups.find? (fun g => g.gang = s.me.gang ∧ g.role = s.me.role ∧ g.gid = gid)
/-- A group with a thread that has not exited. -/
def openGroup (s : State) (gid : Nat) : Bool := s.threads.any (fun t => t.gang == s.me.gang && t.role == s.me.role && t.gid == gid && t.run != .exited)
def buffer (up : Bool) (g : Group) : Option Dword := if up then g.edgeUp else g.edgeDown
def setBuffer (s : State) (gid : Nat) (up : Bool) (v : Option Dword) : State :=
  { s with groups := s.groups.map (fun g => if g.gang = s.me.gang ∧ g.role = s.me.role ∧ g.gid = gid then
      (if up then { g with edgeUp := v } else { g with edgeDown := v }) else g) }
def startedList (g : Group) : List Nat := (List.range 64).filter (fun j => g.started.getLsbD j)
/-- The group that receives a value, if it exists and is not closed (R156, R157). -/
def chainDest (s : State) (g : Group) (up : Bool) : Option Group :=
  (if up then groupOf s (g.gid + 1) else if g.gid = 0 then none else groupOf s (g.gid - 1)).filter (fun h => openGroup s h.gid)
/-- The edge member's value is C: the group is the chain's first in its direction. -/
def chainStart (s : State) (g : Group) (up : Bool) : Bool := if up then g.gid == 0 else (groupOf s (g.gid + 1)).isNone

end Claims

/-- R156, R157: `LANE.CHAIN` completes when all started members have arrived, the instance finds its inbound value in the inbound buffer, or lacks it as the chain's first
group, and the buffer that receives its own value, if any, is empty: the inbound buffer is emptied, the last member's value is put, and every member receives its
neighbour's value. Until both hold it waits, and neither buffer has changed (R7). That the take and the put come together is the model's reading (assumption 45). -/
def Obligations.LaneChainCompletes : Prop :=
  ∀ (o : LOps) (m : FpMod) (s : State) (g : Group) (ps : Parts) (e : Option Dword), s.issues (.laneChain o m) = true → s.uncancelled = true → s.group? s.me = some g →
    (if g.width ≤ 32 then Claims.laneMask s o &&& 0x7FFFFFFFFFFFFFFF else Claims.laneMask s o) = g.started →
    s.participants .chain g.started false [Claims.laneVal s m o.a] = some ps →
    let up : Bool := m.sub = 0
    let first := Claims.chainStart s g up
    let wait : Wait := { kind := .chain, mask := g.started, data := [Claims.laneVal s m o.a], obj := if up then 1 else 2 }
    (first = false → Claims.buffer up g = none → Claims.openGroup s (if up then g.gid - 1 else g.gid + 1) = true → exec (.laneChain o m) s = .next (s.awaitWith wait)) ∧
    ((if first then some none else (Claims.buffer up g).map some) = some e →
    (((Claims.chainDest s g up).bind (Claims.buffer up)).isSome = true → exec (.laneChain o m) s = .next (s.awaitWith wait)) ∧
    (((Claims.chainDest s g up).bind (Claims.buffer up)) = none →
    let t := if first then s else Claims.setBuffer s g.gid up none
    let last := if up then (Claims.startedList g).getLast? else (Claims.startedList g).head?
    let t := match Claims.chainDest s g up, last.bind (Claims.at_ ps) with
      | some h, some v => Claims.setBuffer t h.gid up (some (BitVec.ofNat 64 v))
      | _, _ => t
    exec (.laneChain o m) s = .next (ps.foldl (fun t p => t.asThread p.1 (fun x =>
      let near := if up then ((Claims.startedList g).filter (fun j => decide (j < x.me.member))).getLast?
        else ((Claims.startedList g).filter (fun j => decide (x.me.member < j))).head?
      let v := match near with
        | some j => (Claims.at_ ps j).getD 0
        | none => (e.getD (Claims.laneVal x m o.c)).toNat
      Claims.passOn (Instr.laneChain o m).syllables (Claims.lanePut x m o.d v))) t)))

/-! ### Memory instructions (R171 to R200, R213 to R227) -/

namespace Claims

/-- R172: the offset of an access to a parcel, which does not wrap. -/
def parcelOffset (s : State) (o : LOps) : Int := (if o.b = 0 then 0 else (s.me.rd2 o.b).toNat : Int) + (o.lit.getD 0).toInt
/-- R172: the address that the operand of a memory instruction names, as 64 bits. -/
def effective (s : State) (sp : Space) (o : LOps) : Dword :=
  let off : Word := match o.lit with | some l => l | none => 0
  match sp with
  | .glb => s.me.rd2 o.a + off.signExtend 64
  | .scr | .prv => (s.me.rd o.a + off).setWidth 64
  | .par => BitVec.ofInt 64 (parcelOffset s o)
/-- R172: the same without limit. -/
def exact (s : State) (sp : Space) (o : LOps) : Int := if sp = .par then parcelOffset s o else (effective s sp o).toNat
/-- Byte `k` of the data registers from `r` on. -/
def dataByte (s : State) (r : Reg) (k : Nat) : Byte := ((s.me.rd (r + BitVec.ofNat 8 (k / 4))) >>> (8 * (k % 4))).setWidth 8
/-- R193: the registers of a loaded value: up to 4 bytes are extended in one, more fill several, lowest bytes first. -/
def loaded (sx : Bool) (bs : List Byte) : List Word :=
  if bs.length ≤ 4 then
    let v : BitVec (8 * bs.length) := BitVec.ofNat _ (bytesNat bs)
    [if sx then v.signExtend 32 else v.setWidth 32]
  else (List.range (bs.length / 4)).map (fun k => BitVec.ofNat 32 (bytesNat ((bs.drop (4 * k)).take 4)))
/-- R229: the thread counts one event. -/
def tallied (s : State) : State := s.upd (fun t => { t with psn := t.psn + 1 })
/-- R221, R229: the thread counts one event, and a reservation has seen a memory access after its own. -/
def counted (s : State) : State := s.upd (fun t => { t with psn := t.psn + 1, resv := t.resv.map (fun r => { r with other := true }) })
/-- An access of the issuing thread joins its pending accesses, with what `more` adds to it; it performs later (R201, R213). -/
def pend (s : State) (kind : OpKind) (sp : OpSpace) (segs : List (Nat × Nat)) (data : List (Option Byte)) (scope : Scope) (ord : Ord) (evict : Nat)
    (tag : Option Nat) (more : MemOp → MemOp := id) : State :=
  let x : MemOp := { id := s.fresh, uid := s.me.uid, core := s.me.core, part := s.me.part, pc := s.me.pc, psn := s.me.psn, kind := kind, space := sp,
                     segs := segs, data := data, scope := scope, ord := ord, evict := evict, tag := tag, issued := s.cycle }
  { s with ops := s.ops ++ [more x], fresh := s.fresh + 1 }

/-- R192, R193: a load: whether it sign-extends, and whether its address must be a multiple of its size. -/
def load : Instr → Option (LOps × MemMod × Bool × Bool)
  | .ld o m => some (o, m, false, true)
  | .ldSignExtend o m => some (o, m, true, true)
  | .ldu o m => some (o, m, false, false)
  | _ => none
/-- R194: a store, with the bytes that it writes; `none` is a byte that stays. -/
def store (s : State) : Instr → Option (LOps × MemMod × List (Option Byte))
  | .st o m => some (o, m, (List.range (2 ^ m.size.toNat)).map (fun k => some (dataByte s o.c k)))
  | .stz o m => some (o, m, (List.range (2 ^ m.size.toNat)).map (fun _ => some 0))
  | .stm o m => some (o, m, (List.range (2 ^ m.size.toNat)).map (fun k =>
      if (if k < 32 then (s.me.rd o.b).getLsbD k else (s.me.rd (o.b + 1)).getLsbD (k - 32)) then some (dataByte s o.c k) else none))
  | _ => none

end Claims

/-- R172, R174, R190 to R194, R201: `LD`, its sign-extending form, `LDU`, `ST`, `STZ` and `STM`, in
every space, complete where the address passes the checks of R192. A load empties its destination
and joins the thread's pending accesses, to perform as the model orders it; a store joins them with
exactly the bytes it writes, at the place that its address names. An access of the private space
lies in the thread's own bytes, behind an address that has translated. That accesses pend, and
perform later, is the model's choice (assumption 8). That a parcel's bytes are reached without
translation is its choice too (assumption 89). -/
def Obligations.LoadsAndStoresComplete : Prop :=
  ∀ (i : Instr) (s t : State) (p : Spot), s.issues i = true →
    (∀ o m sx al, Claims.load i = some (o, m, sx, al) →
      let n := 2 ^ m.size.toNat
      let k := if n ≤ 4 then 1 else n / 4
      let a := Claims.effective s m.space o
      s.locate m.space (s.me.rd2 o.a) a n al .read true (Claims.exact s m.space o) = .ok (p, t) →
      CompletesTo i s (Claims.counted (Claims.pend (t.produce o.d k none) (.load sx) p.space p.segs [] m.scope m.ord m.evict.toNat (some t.fresh)
        (fun x => { x with va := a, back := p.back, split := !al }))) ∧
      (m.space = .prv → p.space = .prv s.me.uid ∧ p.segs = [(a.toNat, n)] ∧ a.toNat + n ≤ s.me.privSize)) ∧
    (∀ o m bs, Claims.store s i = some (o, m, bs) →
      let n := 2 ^ m.size.toNat
      let a := Claims.effective s m.space o
      s.locate m.space (s.me.rd2 o.a) a n true .write false (Claims.exact s m.space o) = .ok (p, t) →
      CompletesTo i s (Claims.counted (Claims.pend t (.store false) p.space p.segs bs m.scope m.ord m.evict.toNat none (fun x => { x with back := p.back }))) ∧
      (m.space = .prv → p.space = .prv s.me.uid ∧ p.segs = [(a.toNat, n)] ∧ a.toNat + n ≤ s.me.privSize))

namespace Claims

/-- R192: what an instruction of the memory rows accesses: its operands, space, size in bytes, whether the address must be a multiple of the size, whether it translates for a write, and whether
it returns bytes of memory. -/
def access : Instr → Option (LOps × Space × Nat × Bool × Acc × Bool)
  | .ld o m | .ldSignExtend o m => some (o, m.space, 2 ^ m.size.toNat, true, .read, true)
  | .ldu o m => some (o, m.space, 2 ^ m.size.toNat, false, .read, true)
  | .st o m | .stz o m | .stm o m => some (o, m.space, 2 ^ m.size.toNat, true, .write, false)
  | .atom o m | .atomFloat o m | .atomCas o m | .red o m | .redFloat o m => some (o, m.space, m.ty.bytes, true, .write, true)
  | .ldLink o m | .waitVal o m => some (o, m.space, m.ty.bytes, true, .read, true)
  | .stCond o m => some (o, m.space, m.ty.bytes, true, .write, false)
  | .barInit o m | .barArrive o m | .barDrop o m | .barWait o m | .barSync o m => some (o, m.space, 16, true, .write, true)
  | .barTest o m => some (o, m.space, 16, true, .read, true)
  | _ => none
/-- R319: the instruction is a cancellation point. -/
def cancels : Instr → Bool
  | .barWait _ _ | .barSync _ _ => true
  | _ => false

end Claims

/-- R173 to R175, R178, R180, R192, R217, R224, R335: where an access of the memory, atomic and barrier rows traps, in the order of the checks: a misaligned address (12), then an
access past the scratch or the private space (13) with its offset, or, in the global space, a page fault (14), also on the second page of an access that crosses into one, and an
address without memory (machine check 5, detail 3). An access to a parcel meets the checks of R335 in their order: the parcel handle (26, details 1 to 4 and 5 for a write to a
sealed parcel), the parcel's state (27), its size (28) and its payload (13). -/
def Obligations.AccessesTrap : Prop :=
  ∀ (i : Instr) (s : State) (o : LOps) (sp : Space) (n : Nat) (al rd : Bool) (acc : Acc), s.issues i = true → Claims.access i = some (o, sp, n, al, acc, rd) →
    (Claims.cancels i = true → s.uncancelled = true) →
    let a := Claims.effective s sp o
    (al = true → a.toNat % n ≠ 0 → exec i s = .next (s.trap 12 a 0)) ∧
    ((al = true → a.toNat % n = 0) →
      (sp = .scr → (∀ p, s.pad? s.me.gang s.me.core = some p → p.size < a.toNat + n) → 0 < n → exec i s = .next (s.trap 13 a 0)) ∧
      (sp = .prv → s.me.privSize < a.toNat + n → exec i s = .next (s.trap 13 a 0)) ∧
      (sp = .glb → ∀ b t, s.translate a acc = (.fault b, t) → exec i s = .next (t.trap 14 a (t.pageDetail t.me acc b))) ∧
      (sp = .glb → ∀ pa t, s.translate a acc = (.ok pa, t) →
        (a.toNat % 4096 + n ≤ 4096 → t.physKind pa = .bad → exec i s = .next (t.trap 5 a 3)) ∧
        (4096 < a.toNat % 4096 + n →
          let b := a + BitVec.ofNat 64 (4096 - a.toNat % 4096)
          (∀ c u, t.translate b acc = (.fault c, u) → exec i s = .next (u.trap 14 b (u.pageDetail u.me acc c))) ∧
          (∀ pb u, t.translate b acc = (.ok pb, u) → u.physKind pa = .bad ∨ u.physKind pb = .bad → exec i s = .next (u.trap 5 a 3)))) ∧
      (sp = .par →
        let h := s.me.rd2 o.a
        let p := s.parcel (h.toNat / 2 ^ 24 % 2 ^ 24)
        let off := Claims.parcelOffset s o
        let end_ : Int := off + n
        let trap (c d : Nat) : State := s.trap c a (BitVec.ofNat 64 d)
        if h.toNat / 2 ^ 48 ≠ s.chip.toNat then exec i s = .next (trap 26 1)
        else if p.st = .free ∨ p.num = 0 then exec i s = .next (trap 26 2)
        else if p.gen ≠ h.toNat % 2 ^ 24 then exec i s = .next (trap 26 3)
        else if s.reaches p.region (s.regionNum s.me) = false then exec i s = .next (trap 26 4)
        else if p.st ≠ .opened ∧ p.st ≠ .sealed then exec i s = .next (trap 27 0)
        else if ((2 ^ p.lsz : Nat) : Int) < end_ then exec i s = .next (trap 28 1)
        else if off < 64 ∨ ((2 ^ p.lsz - 2 ^ p.lsz / 64 : Nat) : Int) < end_ then exec i s = .next (trap 13 0)
        else acc = .write → p.st = .sealed → exec i s = .next (trap 26 5)))

namespace Claims

/-- A value of an atomic's type in registers. -/
def typed (s : State) (ty : DType) (r : Reg) : Nat :=
  ((List.range ty.regs).map (fun k => (s.me.rd (r + BitVec.ofNat 8 k)).toNat * 2 ^ (32 * k))).sum
/-- R218 to R220: an atomic: whether it returns the old value, and its function. -/
def atomic (s : State) : Instr → Option (LOps × SyncMod × Bool × RmwFn)
  | .atom o m => some (o, m, true, .int m.sub.toNat m.ty (typed s m.ty o.c))
  | .atomFloat o m => some (o, m, true, .flt m.sub.toNat m.ty (typed s m.ty o.c))
  | .atomCas o m => some (o, m, true, .cas m.ty (typed s m.ty o.b) (typed s m.ty o.c))
  | .red o m => some (o, m, false, .int m.sub.toNat m.ty (typed s m.ty o.c))
  | .redFloat o m => some (o, m, false, .flt m.sub.toNat m.ty (typed s m.ty o.c))
  | _ => none
/-- R218, R220: what an integer atomic or a compare-and-swap writes over the old value, at `w` bits. -/
def atomicValue (op : Nat) (sg : Bool) (w : Nat) (old v : BitVec w) : BitVec w :=
  if op = 0 then v else if op = 1 then old + v else if op = 2 then old - v else if op = 3 then old &&& v else if op = 4 then old ||| v
  else if op = 5 then old ^^^ v
  else if op = 6 then (if (if sg then decide (v.toInt < old.toInt) else decide (v.toNat < old.toNat)) then v else old)
  else (if (if sg then decide (old.toInt < v.toInt) else decide (old.toNat < v.toNat)) then v else old)
/-- R219: one element of a float atomic: the sum rounded by `.RN` without SAT and FTZ, or the smaller or larger operand as `MIN` and `MAX` choose it. -/
def floatElem (op : Nat) (f : Fmt) (old v : Nat) : Nat :=
  if op = 0 then (f.round noBank { mode := .rn, sat := .none, ftz := false } ((f.value noBank old).add false (f.value noBank v)).1).1
  else (minMaxBits noBank f (op == 2) old v).1

end Claims

/-- R217 to R220, R222: `ATOM` and `RED`, their float forms and `ATOM.CAS` complete where the address
passes its checks: the read-modify-write joins the thread's pending accesses with its operands, and
one that returns the old value empties its destination. `FENCE` joins them too; at `.TH` it orders
nothing. The functions are those of R218 to R220 on values of the type's width; `.BF16X2` acts on its
halves. That they pend and
perform later is the model's choice (assumption 8). So is what a release with EVICT 7 writes back
(assumption 79). -/
def Obligations.AtomicsAndFencesComplete : Prop :=
  (∀ (i : Instr) (s t : State) (o : LOps) (m : SyncMod) (dst : Bool) (f : RmwFn) (p : Spot), s.issues i = true →
    Claims.atomic s i = some (o, m, dst, f) →
    let a := Claims.effective s m.space o
    s.locate m.space (s.me.rd2 o.a) a m.ty.bytes true .write true (Claims.exact s m.space o) = .ok (p, t) →
    CompletesTo i s (Claims.counted (if dst then
        Claims.pend (t.produce o.d m.ty.regs none) (.rmw f) p.space p.segs [] m.scope m.ord 0 (some t.fresh) (fun x => { x with va := a })
      else Claims.pend t (.rmw f) p.space p.segs [] m.scope m.ord 0 none (fun x => { x with va := a })))) ∧
  (∀ (o : LOps) (m : SyncMod) (s : State), s.issues (.fence o m) = true →
    CompletesTo (.fence o m) s (Claims.tallied (Claims.pend s .fence .glb [] [] m.scope m.ord 0 none))) ∧
  (∀ x y : MemOp, (x.isFence = true ∧ x.scope = .th) ∨ (y.isFence = true ∧ y.scope = .th) → x.before y = false) ∧
  (∀ (op : Nat) (ty : DType) (v old : Nat), op < 8 → v < 2 ^ (8 * ty.bytes) → old < 2 ^ (8 * ty.bytes) →
    (RmwFn.int op ty v).apply old = some (Claims.atomicValue op ty.signed (8 * ty.bytes) (BitVec.ofNat _ old) (BitVec.ofNat _ v)).toNat) ∧
  (∀ (ty : DType) (cmp new old : Nat), (RmwFn.cas ty cmp new).apply old = if old = cmp then some new else none) ∧
  (∀ (op v old : Nat), op < 3 →
    (RmwFn.flt op .f32 v).apply old = some (Claims.floatElem op .f32 old v) ∧ (RmwFn.flt op .f64 v).apply old = some (Claims.floatElem op .f64 old v) ∧
    (v < 2 ^ 32 → old < 2 ^ 32 → (RmwFn.flt op .bf16x2 v).apply old = some (Claims.floatElem op .bf16 (old % 2 ^ 16) (v % 2 ^ 16) +
      2 ^ 16 * Claims.floatElem op .bf16 (old / 2 ^ 16) (v / 2 ^ 16))))

namespace Claims

/-- The pending access that an instruction performs itself at its atomic point. -/
def atPoint (s : State) (kind : OpKind) (sp : OpSpace) (segs : List (Nat × Nat)) (scope : Scope) (ord : Ord) : MemOp :=
  { id := s.fresh, uid := s.me.uid, core := s.me.core, part := s.me.part, pc := s.me.pc, psn := s.me.psn, kind := kind, space := sp, segs := segs, data := [],
    scope := scope, ord := ord, evict := 0, tag := none, issued := s.cycle }
/-- R223: the relation of `WAIT.VAL`. -/
def waits (cc : Nat) (sg : Bool) (w : Nat) (x y : Nat) : Bool :=
  let a : BitVec w := BitVec.ofNat w x
  let b : BitVec w := BitVec.ofNat w y
  let lt : Bool := if sg then decide (a.toInt < b.toInt) else decide (a.toNat < b.toNat)
  if cc = 0 then a == b else if cc = 1 then a != b else if cc = 2 then lt else if cc = 3 then lt || a == b else if cc = 4 then !lt && a != b else !lt

end Claims

/-- R221, R223: `LD.LINK` empties its destination, joins the thread's pending accesses, and gives the
thread a reservation on the line, which stands once the link has performed. `ST.COND` waits for the
thread's own link; under a standing reservation that covers it, it stores, where it may perform,
clears the reservation and writes a true predicate; under none it stores nothing, clears any
reservation and writes a false one. `WAIT.VAL` clears the reservation, and completes with a true
predicate when it may perform and the relation holds; until then the thread waits. That `ST.COND`
and `WAIT.VAL` act at the moment of issue, and that `LD.LINK` pends, is the model's reading
(assumption 22). -/
def Obligations.LinksAndValueWaitsComplete : Prop :=
  (∀ (i : Instr) (s t : State) (o : LOps) (m : SyncMod) (p : Spot) (b : Nat), s.issues i = true →
    let n := m.ty.bytes
    let a := Claims.effective s m.space o
    let glb : Bool := p.space == .glb
    let place (acc : Acc) (reads : Bool) := s.locate m.space (s.me.rd2 o.a) a n true acc reads (Claims.exact s m.space o)
    p.segs = [(b, n)] →
    (i = .ldLink o m → place .read true = .ok (p, t) →
      CompletesTo i s ((Claims.counted (Claims.pend (t.produce o.d m.ty.regs none) (.rmw (.link m.ty)) p.space p.segs [] m.scope m.ord 0 (some t.fresh)
        (fun x => { x with va := a }))).upd (fun x => { x with resv := some { glb := glb, line := b / 64, size := n, live := false } }))) ∧
    (i = .stCond o m → place .write false = .ok (p, t) →
      let v := Claims.typed t m.ty o.c
      let x := Claims.atPoint t (.rmw (.int 0 m.ty v)) p.space p.segs m.scope m.ord
      let covered := ∃ r, t.me.resv = some r ∧ r.live = true ∧ r.glb = glb ∧ r.line = b / 64 ∧ r.size = n
      ((∃ y ∈ t.ops, y.uid = t.me.uid ∧ y.isLink = true) → exec i s = .next (t.await .order)) ∧
      ((∀ y ∈ t.ops, y.uid = t.me.uid → y.isLink = false) →
        (covered → ∀ u, t.admits x = some u →
          CompletesTo i s (Claims.counted (((u.rmwNow x (fun _ => some v)).2.upd (fun y => { y with resv := none })).setPred (o.d.setWidth 3) true))) ∧
        (¬ covered → CompletesTo i s (Claims.counted ((t.upd (fun y => { y with resv := none })).setPred (o.d.setWidth 3) false))))) ∧
    (i = .waitVal o m → place .read true = .ok (p, t) →
      let t := t.upd (fun y => { y with resv := none })
      let x := Claims.atPoint t (.rmw (.link m.ty)) p.space p.segs m.scope m.ord
      let wait (v : State) := v.awaitWith { kind := .value, data := [o.d.setWidth 64, BitVec.ofNat 64 i.syllables], limit := v.wdogLimit v.me }
      (t.admits x = none → exec i s = .next (wait t)) ∧
      (∀ u, t.admits x = some u →
        let v := u.toPoint p.space u.me.core b n u.myCause
        let holds := Claims.waits m.sub.toNat m.ty.signed (8 * n) (v.pointRead p.space b n) (Claims.typed v m.ty o.c)
        (holds = true → CompletesTo i s (Claims.counted (((v.countBatten v.me.core 0).acquireOf x).setPred (o.d.setWidth 3) true))) ∧
        (holds = false → exec i s = .next (wait v))))) ∧
  (∀ (s : State) (x : MemOp) (ty : DType) (b n : Nat) (r : Resv), x.kind = .rmw (.link ty) → x.segs = [(b, n)] → x.uid = s.me.uid → s.me.resv = some r →
    r.line = b / 64 → (∀ y ∈ s.ops, y.uid = x.uid → y.isLink = true → y.id = x.id) → s.lateError x = false →
    (s.perform x).me.resv = some { r with live := true })

namespace Claims

/-- R224: a barrier object as a number: phase in [31:0], arrivals due in [47:32], arrivals expected in [63:48], scope in [66:64]. -/
def object (phase due expect scope : Nat) : Nat := phase + 2 ^ 32 * due + 2 ^ 48 * expect + 2 ^ 64 * scope
def goodObject (v phase due expect scope : Nat) : Prop :=
  v = object phase due expect scope ∧ phase < 2 ^ 32 ∧ 1 ≤ due ∧ due ≤ expect ∧ expect < 2 ^ 16 ∧ 2 ≤ scope ∧ scope ≤ 5
/-- R226: the object after `k` arrivals, and one fewer expected for a drop. -/
def arrived (phase due expect scope k : Nat) (drop : Bool) : Nat :=
  let e := if drop then expect - 1 else expect
  if due = k then object ((phase + 1) % 2 ^ 32) e e scope else object phase (due - k) e scope
/-- R224: what an object holds is valid. -/
def soundObject (v : Nat) : Prop := 2 ≤ bitsOf v 66 64 ∧ bitsOf v 66 64 ≤ 5 ∧ 1 ≤ bitsOf v 47 32 ∧ bitsOf v 47 32 ≤ bitsOf v 63 48
/-- R226, R227: a barrier instruction has left the object at a phase; the model keeps it for Batten's check (assumption 23). -/
def noted (s : State) (sp : OpSpace) (b phase : Nat) : State :=
  { s with phases := { space := sp, a := b, phase := phase } :: s.phases.filter (fun y => !(y.space == sp && y.a == b)) }
/-- R227, R231: `u` is `s` after a wait on `tok` has seen `phase` of the object: where the phase is not the one that a barrier instruction left there, Batten counts a
violation, and the thread has a containment trap of RULE 11 to take. -/
def pairing (s u : State) (sp : OpSpace) (b phase : Nat) (tok : Word) : Prop :=
  ((∀ y ∈ s.phases, y.space = sp → y.a = b → y.phase = phase) → u = s) ∧
  ((∃ y ∈ s.phases, y.space = sp ∧ y.a = b ∧ y.phase ≠ phase) →
    ∃ v : Violation, v.rule = 11 ∧ v.kind = 0 ∧ v.pc = s.me.pc ∧ v.expected = tok ∧ v.observed = BitVec.ofNat 32 phase ∧ u = (s.countBatten s.me.core 5).contain s.me.uid v)

end Claims

/-- R224 to R227: `BAR.INIT` completes with an object of phase 0 whose arrivals are all due;
`BAR.ARRIVE` and `BAR.DROP` of a valid object complete where enough arrivals are due: the count
falls, and at zero the phase rises and the count starts again; an arrival gets the phase before as
its token. `BAR.TEST` completes with whether the phase differs from its token, and `BAR.WAIT`, and
`BAR.SYNC` whose arrival was made, complete when it does and wait while it does not. The first
execution of a `BAR.SYNC` makes its arrival, keeps the token, and goes on as such a wait. A count of
0 or above 65,535, an arrival that is not due, and an object that holds no valid content take the
barrier-state trap (22) with the object's bits [66:32]. A wait that sees a phase which no barrier
instruction left there has a containment trap to take (R227). That these act at the moment of issue,
how a `BAR.SYNC` keeps its arrival, and how Batten knows the phase, are the model's reading
(assumptions 22 and 23). -/
def Obligations.BarrierObjectsComplete : Prop :=
  (∀ (phase due expect scope k : Nat) (drop : Bool), Claims.goodObject (Claims.object phase due expect scope) phase due expect scope → 1 ≤ k → k ≤ due →
    (drop = true → k = 1 ∧ 2 ≤ expect) →
    arrive (Claims.object phase due expect scope) k drop = some (Claims.arrived phase due expect scope k drop)) ∧
  ∀ (i : Instr) (s t : State) (o : LOps) (m : SyncMod) (p : Spot) (b phase due expect scope : Nat), s.issues i = true → p.segs = [(b, 16)] →
    let a := Claims.effective s m.space o
    let place (acc : Acc) := s.locate m.space (s.me.rd2 o.a) a 16 true acc true (Claims.exact s m.space o)
    let at_ (s : State) := s.toPoint p.space s.me.core b 16 s.myCause
    let value (s : State) := (at_ s).pointRead p.space b 16
    let rmw (scope : Scope) (ord : Ord) := Claims.atPoint t (.rmw (.cas .n128 0 0)) p.space p.segs scope ord
    let read (s : State) (ord : Ord) := Claims.atPoint s (.rmw (.link .n128)) p.space p.segs (scopeOf scope) ord
    let seen (s : State) (x : MemOp) : State := ((at_ s).countBatten (at_ s).me.core 0).acquireOf x
    let scopeAt (s : State) : Scope := scopeOf (bitsOf (value s) 66 64)
    let badTrap (s : State) : State := (at_ s).trap 22 a (BitVec.ofNat 64 (bitsOf (value s) 66 32))
    let wait (v : State) := v.awaitWith { kind := .barObj, obj := a, scr := p.space != .glb, limit := v.wdogLimit v.me }
    (place .write = .ok (p, t) → i = .barInit o m → ∀ u, t.admits (rmw m.scope m.ord) = some u → 1 ≤ (t.me.rd o.c).toNat → (t.me.rd o.c).toNat ≤ 65535 →
      CompletesTo i s (Claims.counted (Claims.noted (u.rmwNow (rmw m.scope m.ord) (fun _ => some (Claims.object 0 (t.me.rd o.c).toNat (t.me.rd o.c).toNat m.scope.code))).2 p.space b 0))) ∧
    -- R224, R225, R226: the barrier-state trap
    (place .write = .ok (p, t) →
      (i = .barInit o m → (t.admits (rmw m.scope m.ord)).isSome = true → t.me.rd o.c = 0 ∨ 65535 < (t.me.rd o.c).toNat → exec i s = .next (badTrap t)) ∧
      ((t.admits (rmw (scopeAt t) .rel)).isSome = true →
        (i = .barArrive o m → ∀ k, k = (if o.c = 0 then 1 else (t.me.rd o.c).toNat) → ¬ Claims.soundObject (value t) ∨ k = 0 ∨ bitsOf (value t) 47 32 < k → exec i s = .next (badTrap t)) ∧
        (i = .barDrop o m → ¬ Claims.soundObject (value t) ∨ bitsOf (value t) 63 48 = 1 → exec i s = .next (badTrap t)) ∧
        (i = .barSync o m → s.uncancelled = true → t.me.syncs.find? (fun y => y.1 == t.me.pc) = none → ¬ Claims.soundObject (value t) → exec i s = .next (badTrap t))) ∧
      (i = .barWait o m → s.uncancelled = true → ¬ Claims.soundObject (value t) →
        let w := t.upd (fun y => { y with resv := none })
        (w.admits (Claims.atPoint w (.rmw (.link .n128)) p.space p.segs (scopeAt w) .acq)).isSome = true → exec i s = .next (badTrap w))) ∧
    (place .read = .ok (p, t) → i = .barTest o m → ¬ Claims.soundObject (value t) →
      (t.admits (Claims.atPoint t (.rmw (.link .n128)) p.space p.segs (scopeAt t) (if BitVec.ofNat 32 (bitsOf (value t) 31 0) != t.me.rd o.c then .acq else .rlx))).isSome = true →
      exec i s = .next (badTrap t)) ∧
    (Claims.goodObject (value t) phase due expect scope →
      (place .write = .ok (p, t) →
        let x := rmw (scopeOf scope) .rel
        ∀ u, t.admits x = some u →
        let after (k : Nat) (drop : Bool) : State :=
          Claims.noted (u.rmwNow x (fun v => arrive v k drop)).2 p.space b (if due = k then (phase + 1) % 2 ^ 32 else phase)
        (i = .barArrive o m → ∀ k, k = (if o.c = 0 then 1 else (t.me.rd o.c).toNat) → 1 ≤ k → k ≤ due →
          CompletesTo i s (Claims.counted ((after k false).produce o.d 1 (some [BitVec.ofNat 32 phase])))) ∧
        (i = .barDrop o m → 2 ≤ expect → CompletesTo i s (Claims.counted (after 1 true))) ∧
        -- R227: the first execution of a `BAR.SYNC`
        (i = .barSync o m → s.uncancelled = true → t.me.syncs.find? (fun y => y.1 == t.me.pc) = none →
          let tok : Word := BitVec.ofNat 32 phase
          let w := (Claims.counted ((after 1 false).upd (fun y => { y with syncs := (y.pc, tok) :: y.syncs }))).upd (fun y => { y with resv := none })
          let z := Claims.atPoint w (.rmw (.link .n128)) p.space p.segs (scopeAt w) .acq
          (w.admits z = none → exec i s = .next (wait w)) ∧
          ((w.admits z).isSome = true → Claims.soundObject (value w) →
            (BitVec.ofNat 32 (bitsOf (value w) 31 0) = tok → exec i s = .next (wait (at_ w))) ∧
            (BitVec.ofNat 32 (bitsOf (value w) 31 0) ≠ tok → ∃ v, Claims.pairing (seen w z) v p.space b (bitsOf (value w) 31 0) tok ∧
              CompletesTo i s (v.upd (fun y => { y with syncs := y.syncs.filter (fun z => z.1 != y.pc) })))))) ∧
      (place .read = .ok (p, t) → i = .barTest o m →
        let passed : Bool := BitVec.ofNat 32 phase != t.me.rd o.c
        let x := read t (if passed then .acq else .rlx)
        (t.admits x).isSome = true → ∃ v, (if passed then Claims.pairing (seen t x) v p.space b phase (t.me.rd o.c) else v = seen t x) ∧
          CompletesTo i s (Claims.counted (v.setPred (o.d.setWidth 3) passed))) ∧
      (place .write = .ok (p, t) → s.uncancelled = true →
        let w := t.upd (fun y => { y with resv := none })
        let x := read w .acq
        ∀ tok : Word, ((i = .barWait o m ∧ tok = t.me.rd o.c) ∨ (i = .barSync o m ∧ t.me.syncs.find? (fun y => y.1 == t.me.pc) = some (t.me.pc, tok))) →
        (w.admits x = none → exec i s = .next (wait w)) ∧
        ((w.admits x).isSome = true →
          (BitVec.ofNat 32 phase ≠ tok → ∃ v, Claims.pairing (seen w x) v p.space b phase tok ∧ CompletesTo i s
            (if i = .barWait o m then Claims.counted v else v.upd (fun y => { y with syncs := y.syncs.filter (fun z => z.1 != y.pc) }))) ∧
          (BitVec.ofNat 32 phase = tok → exec i s = .next (wait (at_ w))))))

namespace Claims

/-- The byte that a core's L1 holds dirty for a physical address, if any (R184). -/
def dirtyByte (s : State) (core b : Nat) : Option Byte :=
  match s.l1? core (b / 64) with
  | some l => if l.dirty.getLsbD (b % 64) then some ((l.data >>> (8 * (b % 64))).setWidth 8) else none
  | none => none
/-- The issuing thread has a store to a line, or any store, that has not performed; or an acquire. -/
def storing (s : State) (line : Nat) : Bool :=
  s.ops.any (fun x => x.uid == s.me.uid && x.isWrite && x.space == .glb && x.segs.any (fun y => (linesOf y.1 y.2).contains line))
def anyStore (s : State) : Bool := s.ops.any (fun x => x.uid == s.me.uid && x.isWrite)
def anyAcquire (s : State) : Bool := s.ops.any (fun x => x.uid == s.me.uid && x.acquires)
/-- A state that differs in memory, caches and what the checkers record only: threads keep all but reservations (R221) and the intervals of what they wrote (R239), and regions, gangs and pending accesses are as they were. -/
def sameButMemory (s t : State) : Prop :=
  t.me = { s.me with resv := t.me.resv, wrote := t.me.wrote } ∧ t.regions = s.regions ∧ t.gangs = s.gangs ∧ t.groups = s.groups ∧ t.pads = s.pads ∧ t.ops = s.ops ∧ t.tiles = s.tiles

end Claims

namespace Claims
/-- R200: the word for a page of 2^`log` bytes: present, writable, executable, user, size, home die, device memory. -/
def probes (s : State) (w : Word) (pa log : Nat) (wr us ex : Bool) : Prop :=
  let dev : Bool := decide (s.mbase ≤ pa ∧ pa < s.mbase + 2 ^ 42)
  w.getLsbD 0 = true ∧ w.getLsbD 1 = wr ∧ w.getLsbD 2 = ex ∧ w.getLsbD 3 = us ∧
    w.toNat / 16 % 4 = (if log = 12 then 0 else if log = 16 then 1 else if log = 21 then 2 else 3) ∧
    w.toNat / 64 % 4 = (if dev then (pa - s.mbase) / 2 ^ 40 else 0) ∧ w.getLsbD 8 = dev ∧ w.toNat / 2 ^ 10 = 0
end Claims

/-- R41, R195 to R200: `PREF`, `PREF.CNT`, the six operations of `CCTL`, `CDISC`, `SALLOC`, `SFREE` and
`PROBE` complete. A write-back puts the dirty bytes of the line, or of every line, of the core's L1
into memory and changes no other byte of it; `.INV` also removes what it wrote back, and `.INVALL`
every line of the L1; a line whose ownership record fails stays until that is found (R238). `PREF` and
`PREF.CNT` change no byte of memory and no dirty byte of an L1. `CDISC` changes no byte of memory; `SALLOC` answers the dynamic pointer and moves it, or answers 0xFFFFFFFF when the
request does not fit; `SFREE` sets the pointer, or takes the bounds trap (13); `PROBE` answers with
a cached translation or with that of a walk, and changes nothing but its register beside the reads
of the walk. A line that a release holds is waited for (R230). What the cache instructions wait for,
and what memory holds after `CDISC`, are the model's choice (assumptions 24 and 76). -/
def Obligations.CacheAndScratchComplete : Prop :=
  ∀ (i : Instr) (o : LOps) (m : MemMod) (s : State), s.issues i = true →
    let a := Claims.effective s .glb o
    let arg := (s.me.rd o.a + o.lit.getD 0).toNat
    let tr := s.translate a .read
    let kept (u : State) : Prop := Claims.sameButMemory s u ∧ u.mem = s.mem ∧ ∀ core b, Claims.dirtyByte u core b = Claims.dirtyByte s core b
    (i = .pref o m → ∃ u, CompletesTo i s (Claims.counted u) ∧ kept u) ∧
    (i = .prefCnt o m → (o.d = 0 → exec i s = .next (s.trap 1 0 0)) ∧
      (o.d ≠ 0 → tr.1 ≠ .held → (∀ pa, tr.1 = .ok pa → tr.2.lineHeld (pa / 64) = false) → ∃ u, CompletesTo i s (Claims.counted u) ∧ kept u)) ∧
    (∀ pa t, tr = (.ok pa, t) → t.physKind pa ≠ .bad → Claims.storing t (pa / 64) = false →
      (t.lineHeld (pa / 64) = true → (i = .cctl o m ∧ o.d.toNat ≤ 1) ∨ i = .cdisc o m → exec i s = .next (t.await .order)) ∧
      (t.lineHeld (pa / 64) = false → i = .cctl o m → o.d.toNat = 0 ∨ o.d.toNat = 1 → ∃ u, CompletesTo i s (Claims.counted u) ∧ Claims.sameButMemory t u ∧
        (s.memoriesWf → ∀ b, readByte u.mem b = if b / 64 = pa / 64 then (Claims.dirtyByte t s.me.core b).getD (readByte t.mem b) else readByte t.mem b) ∧
        (u.suspect (pa / 64) = false → (∀ b, b / 64 = pa / 64 → Claims.dirtyByte u s.me.core b = none) ∧ (o.d.toNat = 1 → u.l1? s.me.core (pa / 64) = none))) ∧
      (i = .cctl o m → o.d.toNat = 4 → Claims.anyAcquire s = false →
        CompletesTo i s (Claims.counted (t.mapCore s.me.core (fun c => { c with icache := c.icache.filter (fun l => l.1 != pa / 64) })))) ∧
      (t.lineHeld (pa / 64) = false → i = .cdisc o m → (∀ l, t.l1? s.me.core (pa / 64) = some l → l.rel = false) →
        ∃ u, CompletesTo i s (Claims.counted u) ∧ Claims.sameButMemory t u ∧ u.mem = t.mem ∧ u.l1? s.me.core (pa / 64) = none)) ∧
    (i = .cctl o m → o.d.toNat = 2 ∨ o.d.toNat = 3 → Claims.anyStore s = false → (∀ c ∈ s.cores, (c.l1.map (·.line)).Nodup) →
      (∀ b x, Claims.dirtyByte s s.me.core b = some x → s.lineHeld (b / 64) = false) → ∃ u, CompletesTo i s (Claims.counted u) ∧
      Claims.sameButMemory s u ∧ (s.memoriesWf → ∀ b, readByte u.mem b = (Claims.dirtyByte s s.me.core b).getD (readByte s.mem b)) ∧ (∀ b, u.suspect (b / 64) = false → Claims.dirtyByte u s.me.core b = none) ∧
      (o.d.toNat = 3 → ∀ l, u.suspect l = false → u.l1? s.me.core l = none)) ∧
    (i = .cctl o m → o.d.toNat = 5 → Claims.anyAcquire s = false → CompletesTo i s (Claims.counted (s.mapCore s.me.core (fun c => { c with icache := [] })))) ∧
    (i = .salloc o m →
      let k := (arg + 63) / 64 * 64
      ((∀ p, s.pad? s.me.gang s.me.core = some p → k = 0 ∨ p.size < p.dynPtr + k) → CompletesTo i s (Claims.tallied (s.wr o.d 0xFFFFFFFF))) ∧
      (∀ p, s.pad? s.me.gang s.me.core = some p → k ≠ 0 → p.dynPtr + k ≤ p.size →
        CompletesTo i s (Claims.tallied ((s.mapPad s.me.gang s.me.core (fun p => { p with dynPtr := p.dynPtr + k })).wr o.d (BitVec.ofNat 32 p.dynPtr))))) ∧
    (i = .sfree o m → ∀ p, s.pad? s.me.gang s.me.core = some p →
      (p.dynBase ≤ arg ∧ arg ≤ p.dynPtr ∧ arg % 64 = 0 → CompletesTo i s (Claims.tallied (s.mapPad s.me.gang s.me.core (fun p => { p with dynPtr := arg })))) ∧
      (¬ (p.dynBase ≤ arg ∧ arg ≤ p.dynPtr ∧ arg % 64 = 0) → exec i s = .next (s.trap 13 (BitVec.ofNat 64 arg) 0))) ∧
    (i = .probe o m →
      (∀ e, s.cached s.me.core s.me.asid a .read = some e →
        ∃ w : Word, CompletesTo i s (Claims.tallied (s.wr o.d w)) ∧ Claims.probes s w (e.pa + a.toNat % 2 ^ e.log) e.log e.w e.u e.x) ∧
      (s.cached s.me.core s.me.asid a .read = none →
        let r := walk s.mem s.tableEntry (s.ptroot s.me) s.me.ptel a
        let t := r.2.foldl (fun u b => u.walkRead s.me.die b s.myCause) s
        (∀ l, r.1 = .leaf l → ∃ w : Word, CompletesTo i s (Claims.tallied (t.wr o.d w)) ∧
          Claims.probes s w (l.frame + a.toNat % 2 ^ l.log) l.log (l.entry.testBit (ptWB s.me.ptel)) (l.entry.testBit (ptUB s.me.ptel))
            (l.entry.testBit (ptNXB s.me.ptel) == ptXPOL s.me.ptel)) ∧
        (r.1 = .absent ∨ r.1 = .malformed ∨ r.1 = .noncanonical → CompletesTo i s (Claims.tallied (t.wr o.d 1024))) ∧
        (r.1 = .held → exec i s = .next (t.await .order)) ∧ (∀ d, r.1 = .mchk d → exec i s = .next (t.trap 5 a (BitVec.ofNat 64 d)))))

/-! ### Checking instructions (R244 to R248) -/

namespace Claims

/-- R240: a UNIT code: die, kind (0 Batten, 1 Purlin at an L2 slice, 2 Purlin at an HBM controller), index. -/
def unitDie (w : Word) : Nat := w.toNat / 2 ^ 14 % 4
def unitKindOf (w : Word) : Nat := w.toNat / 2 ^ 12 % 4
def unitIndex (w : Word) : Nat := w.toNat % 2 ^ 12
/-- The unit is present and enabled. -/
def unitPresent (s : State) (w : Word) : Prop :=
  (∃ d, s.die? (unitDie w) = some d ∧ d.enabled = true) ∧
  ((unitKindOf w = 0 ∧ unitIndex w < 64 ∧ ∃ c, s.core? (64 * unitDie w + unitIndex w) = some c ∧ c.cls.isSome = true) ∨
   (unitKindOf w = 1 ∧ unitIndex w < 32) ∨ (unitKindOf w = 2 ∧ unitIndex w < 3))
/-- R245: the fault that an injection arms. -/
def injected (form : Nat) (w : Word) (scope : Nat) (region : Word) : Inject := { form := form, scope := scope, skip := w.toNat / 2 ^ 16, region := region }
def injectForm (m : CtlMod) (o : LOps) : Instr → Option Nat
  | .chkInjectEarly o' m' => if o' = o ∧ m' = m then some 0 else none
  | .chkInjectHash o' m' => if o' = o ∧ m' = m then some 1 else none
  | .chkInjectSkip o' m' => if o' = o ∧ m' = m then some 2 else none
  | .chkInjectDup o' m' => if o' = o ∧ m' = m then some 3 else none
  | _ => none

end Claims

/-- R244 to R248: `CHK.INJECT` (`.EARLY`, `.HASH`, `.SKIP`, `.DUP`) arms the unit that its target word
names, where the unit is of the form's kind, and takes the illegal-instruction trap for another;
`CHK.READ` completes with the line's interval, the number of held releases or the next PSN;
`CHK.SYNC` completes when no write, release, fence or record of the thread is pending, or takes a pending
containment trap; `CHK.CLEAR` disarms one unit or all and resets their counters; `CHK.SAMPLE`
completes with a counter. What
`CHK.SYNC` waits for is the model's reading (assumption 25), and the trap of `CHK.CLEAR` and
`CHK.SAMPLE` where the target word names no unit its choice (assumption 94). -/
def Obligations.CheckingInstructionsComplete : Prop :=
  ∀ (i : Instr) (o : LOps) (m : CtlMod) (s : State), s.issues i = true →
    let w := s.me.rd o.a
    let unit := w.toNat % 2 ^ 16
    (∀ form, Claims.injectForm m o i = some form →
      let x := Claims.injected form w m.sel.toNat (o.lit.getD (s.me.rd o.b))
      (Claims.unitPresent s w → Claims.unitKindOf w = 0 → form = 0 → CompletesTo i s (s.mapCore (64 * Claims.unitDie w + Claims.unitIndex w) (fun c => { c with inject := some x }))) ∧
      (Claims.unitPresent s w → (Claims.unitKindOf w = 1 ∧ form ≠ 0) ∨ (Claims.unitKindOf w = 2 ∧ (form = 1 ∨ form = 2)) →
        CompletesTo i s (s.setPurlin { s.purlin? unit with inject := some x })) ∧
      (¬ Claims.unitPresent s w ∨ (Claims.unitKindOf w = 0) ≠ (form = 0) ∨ (Claims.unitKindOf w = 2 ∧ form = 3) → exec i s = .next (s.trap 1 0 0))) ∧
    (i = .chkRead o m → m.sub = 0 → ∀ p pa t, s.locate .glb 0 (s.me.rd2 o.a) 1 true .read false = .ok (p, t) → p.segs = [(pa, 1)] →
      CompletesTo i s (t.wr2 o.d (BitVec.ofNat 64 (t.lineState (pa / 64)).interval))) ∧
    (i = .chkRead o m → m.sub = 1 → CompletesTo i s (s.wr2 o.d (BitVec.ofNat 64 (s.holds.filter (fun h => h.op.uid == s.me.uid)).length))) ∧
    (i = .chkRead o m → m.sub = 2 → CompletesTo i s (s.wr2 o.d (s.me.psn.setWidth 64))) ∧
    (i = .chkSync o m → (∀ x ∈ s.ops, x.uid = s.me.uid → x.isWrite = false ∧ x.releases = false ∧ x.isFence = false) → (∀ h ∈ s.holds, h.op.uid ≠ s.me.uid) →
      (∀ r ∈ s.handovers, ∀ x ∈ s.me.wrote, x.line = r.line → 7 < x.scope) →
      ((∀ t ∈ s.me.held, t.cause ≠ 21) ∨ s.me.handler.isSome = true → CompletesTo i s s) ∧
      (∀ t, s.me.held = [t] → t.cause = 21 → s.me.handler = none → exec i s = .next ((s.upd (fun y => { y with held := [] })).takeTrap { t with pc := s.me.pc }))) ∧
    -- the model's choice (assumption 94)
    ((i = .chkClear o m ∧ m.sub = 0) ∨ i = .chkSample o m → ¬ Claims.unitPresent s w → exec i s = .next (s.trap 1 0 0)) ∧
    (i = .chkClear o m →
      (m.sub = 1 → CompletesTo i s { s with purlin := [], cores := s.cores.map (fun c => { c with inject := none, batten := Vector.replicate 7 0 }) }) ∧
      (m.sub = 0 → Claims.unitPresent s w →
        (Claims.unitKindOf w = 0 → CompletesTo i s (s.mapCore (64 * Claims.unitDie w + Claims.unitIndex w) (fun c => { c with inject := none, batten := Vector.replicate 7 0 }))) ∧
        (Claims.unitKindOf w ≠ 0 → CompletesTo i s { s with purlin := s.purlin.filter (fun p => p.unit != unit) }))) ∧
    (i = .chkSample o m → ∀ k : Fin 7, k.val = m.sel.toNat → Claims.unitPresent s w →
      (Claims.unitKindOf w = 0 → ∀ c, s.core? (64 * Claims.unitDie w + Claims.unitIndex w) = some c →
        CompletesTo i s (s.wr2 o.d (BitVec.ofNat 64 c.batten[k]))) ∧
      (Claims.unitKindOf w ≠ 0 → CompletesTo i s (s.wr2 o.d (BitVec.ofNat 64 (if k.val = 3 then 0 else (s.purlin? unit).counts[k])))))

/-! ### Tiles and the copy engine (R279 to R296) -/

namespace Claims

/-- R282, R287, R398: the entry is the gang's own and was not freed while the thread waited on it, no fault is pending for it, and it holds no error. -/
def owns (s : State) (id : Nat) (t : Tile) : Prop :=
  s.tile? s.me.core id = some t ∧ t.gang = s.me.gang ∧ s.tileFault id = none ∧ s.me.lostTile id = false ∧ s.tileStruck s.me.core id = false
/-- R281, R282: the entry may be filled, defined anew or freed: it is `EMPTY` or `READY`, no queued command reads it and no claimed slate pins it. -/
def loose (s : State) (id : Nat) (t : Tile) : Prop :=
  (t.st = .empty ∨ t.st = .ready) ∧ s.tileRead s.me.core id = false ∧ ∀ x ∈ s.slates, x.core = s.me.core → x.claim.isSome = true → id ∉ x.pins
/-- R214, R288: the instruction observes a tile that is `READY` or `EMPTY`: the thread acquires what the copy command that brought it there wrote. -/
def sees (s : State) (t : Tile) : State :=
  match t.copied with
  | some (by_, sc) => if t.st = .ready ∨ t.st = .empty then s.acquireL1 t.core s.me.part (if s.me.uid = by_ then sc.code else 2) else s
  | none => s
/-- R286: the core's copy queue has room. -/
def room (s : State) : Prop := ((s.copiesOf s.me.core).filter (fun c => !c.started)).length < 32
/-- A command of the issuing thread joins its core's copy queue, and its tile enters `st`. -/
def copyQueued (s : State) (id : Nat) (op : CopyOp) (m : EngMod) (addr : Dword) (org : List Int) (prior st : TState) (trig : Bool) : State :=
  let s' := s.mapTile s.me.core id (fun t => { t with st := st, chk := if st = .draining then t.chk else none })
  { s' with
    me := if trig then { s'.me with trig := none } else s'.me, fresh := s.fresh + 1,
    copies := s.copies ++ [{ id := s.fresh, core := s.me.core, uid := s.me.uid, pc := s.me.pc, gs := m.gs, op := op, tile := id, addr := addr,
                             origin := org, scope := m.scope, prior := prior, started := false, tens := none, done := 0, st := .queued,
                             trig := if trig then s.me.trig.map (fun x => { x with late := decide (x.tick < s.time) }) else none }] }
/-- R290: the origin of a tensor copy: two natural indices from the literal, zero, or nine signed ones from scratch. -/
def origin (s : State) (o : LOps) (l : List Int) : Prop :=
  match o.lit with
  | some w => l = [((w.toNat % 2 ^ 16 : Nat) : Int), ((w.toNat / 2 ^ 16 : Nat) : Int)]
  | none => if o.b = 0 then l = [] else
    ∃ p, s.pad? s.me.gang s.me.core = some p ∧ (s.me.rd o.b).toNat % 4 = 0 ∧ (s.me.rd o.b).toNat + 36 ≤ p.size ∧ (∀ x ∈ s.ops, x.uid = s.me.uid → x.isWrite = true → x.space = .glb) ∧
      s.scratchStruck s.me.gang s.me.core (s.me.rd o.b).toNat 36 = false ∧
      l = (List.range 9).map (fun j => (BitVec.ofNat 32 (readNat p.bytes ((s.me.rd o.b).toNat + 4 * j) 4)).toInt)
/-- R294: the shape word: columns − 1 in [11:0], rows − 1 in [25:16], the rest zero. -/
def shaped (w : Nat) (rows cols : Nat) : Prop := w = (cols - 1) + 2 ^ 16 * (rows - 1) ∧ 1 ≤ cols ∧ cols ≤ 4096 ∧ 1 ≤ rows ∧ rows ≤ 1024
/-- R280: the row pitch. -/
def rowPitch (width cols : Nat) : Nat := (cols * width + 31) / 32 * 4

end Claims

/-- R280 to R282, R286, R289 to R296: `TCOPY`, `TSTORE`, `TWAIT`, `TSTATE`, `TDEF`, `TFREE`, `TFILL`,
`TMOV` and `TCANCEL`, and the S32 forms of `TWAIT` and `TSTATE`, complete on a tile of the gang
whose state allows them: a copy command joins the queue and moves its tile to `FILLING` or
`DRAINING`, `TDEF` makes or replaces the entry, `TFREE` frees it, `TCANCEL` discards the commands on
it, `TSTATE` answers its word, in which a fault is pending only where a thread is left to take it (R287),
and `TWAIT` goes on once the tile is as it asks, and waits until then; an instruction that finds the
tile `READY` or `EMPTY` acquires what the copy command wrote that brought it there (R214). The event that releases a thread which waits on a tile is the model's reading (assumption 72). -/
def Obligations.TileInstructionsComplete : Prop :=
  ∀ (i : Instr) (o : LOps) (m : EngMod) (s : State), s.issues i = true →
    (∀ t, Claims.owns s o.d.toNat t →
      let v := Claims.sees s t
      (i = .tcopy o m → Claims.loose s o.d.toNat t → Claims.room s → (s.me.rd2 o.a).toNat % 128 = 0 → ∀ l, Claims.origin s o l →
        CompletesTo i s (Claims.copyQueued v o.d.toNat .load m (s.me.rd2 o.a) l t.st .filling true)) ∧
      (i = .tstore o m → t.st = .ready → s.tileRead s.me.core o.d.toNat = false → Claims.room s → (s.me.rd2 o.a).toNat % 128 = 0 → ∀ l, Claims.origin s o l →
        CompletesTo i s (Claims.copyQueued v o.d.toNat (.store (m.sub == 1)) m (s.me.rd2 o.a) l t.st .draining true)) ∧
      (i = .tfill o m → Claims.loose s o.d.toNat t → Claims.room s → t.width ≠ 64 ∨ o.lit.isSome = true →
        CompletesTo i s (Claims.copyQueued v o.d.toNat (.fill ((o.lit.getD (s.me.rd o.b)).toNat % 2 ^ t.width)) m 0 [] t.st .filling false)) ∧
      (i = .tfill o m → Claims.loose s o.d.toNat t → Claims.room s → t.width = 64 → o.lit = none → o.b.toNat % 2 = 0 → o.b.toNat + 2 ≤ s.me.budget →
        s.me.full o.b = true → s.me.full (o.b + 1) = true → CompletesTo i s (Claims.copyQueued v o.d.toNat (.fill (s.me.rd2 o.b).toNat) m 0 [] t.st .filling false)) ∧
      (i = .tmov o m → Claims.loose s o.d.toNat t → Claims.room s → ∀ a, Claims.owns s o.a.toNat a → a.st = .ready →
        (t.width = a.width ∧ (if m.sub = 1 then t.rows = a.cols ∧ t.cols = a.rows ∧ 8 ≤ a.width else t.rows = a.rows ∧ t.cols = a.cols) →
          CompletesTo i s (Claims.copyQueued (Claims.sees v a) o.d.toNat (.move o.a.toNat (m.sub == 1)) m 0 [] t.st .filling false)) ∧
        (t.width ≠ a.width → exec i s = .next ((Claims.sees v a).trap 20 0 5))) ∧
      (i = .tfree o m → Claims.loose s o.d.toNat t →
        CompletesTo i s (State.mapThreads
          { v with tiles := s.tiles.filter (fun x => !(x.core == s.me.core && x.id == o.d.toNat && !s.away x.gang)), struck := s.struck.filter (· ≠ .tile s.me.core o.d.toNat) }
          (fun u => if u.gang = s.me.gang ∧ u.core = s.me.core then u.tileGone o.d.toNat else u))) ∧
      (i = .tcancel o m → s.streams = [] → s.matrix = [] → (∀ x ∈ s.threads, ∀ w, x.run = .waiting w → w.kind ≠ .tile) →
        CompletesTo i s (s.mapTile s.me.core o.d.toNat (fun x => { x with st := if t.st = .filling then .empty else if t.st = .draining then .ready else x.st })
          |> fun u => { u with copies := s.copies.filter (fun c => !(c.core == s.me.core && c.tile == o.d.toNat && !s.cmdAway c.uid)) }))) ∧
    (i = .tdef o m → ∀ rows cols, Claims.shaped (o.lit.getD (s.me.rd o.b)).toNat rows cols →
      let base := (s.me.rd o.a).toNat
      let desc : BitVec 16 := match m.ty with | .pf k => (s.bank s.me)[k.toNat] | _ => 0
      let new : Tile := { core := s.me.core, id := o.d.toNat, gang := s.me.gang, base := base, rows := rows, cols := cols, fmt := m.ty, desc := desc, st := .empty, chk := none }
      ∀ p, s.pad? s.me.gang s.me.core = some p → base % 64 = 0 → base + rows * Claims.rowPitch (m.ty.bits (s.bank s.me)) cols ≤ p.size →
        (s.tile? s.me.core o.d.toNat = none → CompletesTo i s { s with tiles := s.tiles ++ [new] }) ∧
        (∀ t, Claims.owns s o.d.toNat t → Claims.loose s o.d.toNat t → CompletesTo i s ((Claims.sees s t).mapTile s.me.core o.d.toNat (fun _ => new)))) ∧
    (∀ o' m', i.long = .twait o' m' → ∀ t, Claims.owns s o'.a.toNat t →
      let came : Bool := if m'.sub = 0 then t.st == .ready else (t.st == .empty || t.st == .ready) && !s.namesTile s.me.uid o'.a.toNat
      (came = true → CompletesTo i s (Claims.sees s t)) ∧ (came = false → ∃ w, exec i s = .next ((Claims.sees s t).awaitWith w) ∧ w.kind = .tile ∧ w.obj.toNat = o'.a.toNat)) ∧
    (∀ o' m', i.long = .tstate o' m' → o'.a.toNat < 64 → ∃ w : Word,
      (s.tile? s.me.core o'.a.toNat = none → CompletesTo i s (s.produce o'.d 1 (some [64]))) ∧
      (∀ t, Claims.owns s o'.a.toNat t → CompletesTo i s ((Claims.sees s t).produce o'.d 1 (some [w])) ∧
        w.toNat % 4 = (match t.st with | .empty => 0 | .filling => 1 | .ready => 2 | .draining => 3) ∧ w.getLsbD 2 = t.chk.isSome ∧
        w.getLsbD 3 = s.slates.any (fun x => x.core == s.me.core && x.claim.isSome && x.pins.contains o'.a.toNat) ∧
        (w.getLsbD 4 = true ↔ (∃ c ∈ s.copies, c.core = s.me.core ∧ c.tile = o'.a.toNat ∧ s.cmdAway c.uid = false ∧ ∃ r, c.st = .parked r) ∨
          ∃ c ∈ s.streams, c.core = s.me.core ∧ c.tile = some o'.a.toNat ∧ s.cmdAway c.uid = false ∧ ∃ r, c.st = .parked r) ∧
        (w.getLsbD 5 = true ↔ (∃ c ∈ s.copies, c.core = s.me.core ∧ c.tile = o'.a.toNat ∧ (∃ p, c.st = .faulted p) ∧ ∃ h, s.heir c.uid = some h ∧ s.cmdAway h = false) ∨
          ∃ c ∈ s.streams, c.core = s.me.core ∧ c.tile = some o'.a.toNat ∧ (∃ p, c.st = .faulted p) ∧ ∃ h, s.heir c.uid = some h ∧ s.cmdAway h = false) ∧ w.getLsbD 6 = false ∧
        w.toNat / 2 ^ 8 = t.fmt.code.toNat)) ∧
    (∀ id, (i = .tcopy o m ∨ i = .tstore o m ∨ i = .tfree o m ∨ i = .tcancel o m) → id = o.d.toNat → s.tileStruck s.me.core id = false →
      (s.me.lostTile id = true → exec i s = .next (s.trap 15 0 (BitVec.ofNat 64 (2 ^ 8 * id + 4)))) ∧
      (s.me.lostTile id = false → s.tile? s.me.core id = none → exec i s = .next (s.trap 15 0 (BitVec.ofNat 64 (2 ^ 8 * id + 2)))) ∧
      (s.me.lostTile id = false → ∀ t, s.tile? s.me.core id = some t → t.gang ≠ s.me.gang → exec i s = .next (s.trap 15 0 (BitVec.ofNat 64 (2 ^ 8 * id + 1)))) ∧
      (∀ t, Claims.owns s id t → (∃ x ∈ s.slates, x.core = s.me.core ∧ x.claim.isSome = true ∧ id ∈ x.pins) → (i = .tcopy o m ∨ i = .tfree o m) →
        exec i s = .next (s.trap 15 0 (BitVec.ofNat 64 (2 ^ 8 * id + 3)))))

/-! ### Stream instructions (R161 to R170) -/

namespace Claims

/-- R58, R165: the operation number of a loop-nest instruction. -/
def nestCode : Instr → Option (Nat × NestOps)
  | .nestCopy o => some (0x01, o) | .nestFill o => some (0x02, o) | .nestCvt o => some (0x03, o) | .nestAdd o => some (0x04, o)
  | .nestSub o => some (0x05, o) | .nestMul o => some (0x06, o) | .nestFma o => some (0x07, o) | .nestMin o => some (0x08, o)
  | .nestMax o => some (0x09, o) | .nestAbs o => some (0x0A, o) | .nestNeg o => some (0x0B, o) | .nestScale o => some (0x0C, o)
  | .nestRelu o => some (0x0D, o) | .nestExp2 o => some (0x0E, o) | .nestTanh o => some (0x0F, o) | .nestRcp o => some (0x10, o)
  | .nestRsq o => some (0x11, o) | .nestSum o => some (0x12, o) | .nestSumsq o => some (0x13, o) | .nestRmax o => some (0x14, o)
  | .nestRmin o => some (0x15, o) | .nestDot o => some (0x16, o) | .nestArgmax o => some (0x17, o) | .nestScan o => some (0x18, o)
  | _ => none
/-- R165 to R167: the memory operands (0 D, 1 A, 2 B), and whether the destination is a register. -/
def nestMem (op : Nat) : List Nat :=
  if op = 2 then [0] else if op = 1 ∨ op = 3 ∨ (0x0A ≤ op ∧ op ≤ 0x11) ∨ op = 0x18 then [0, 1] else if op = 0x16 then [1, 2] else if 0x12 ≤ op then [1] else [0, 1, 2]
def nestToReg (op : Nat) : Bool := decide (0x12 ≤ op ∧ op ≤ 0x17)
/-- The operand word of operand `k`: the pair that a 7-bit base field names. -/
def nestWord (s : State) (o : NestOps) (k : Nat) : Dword :=
  s.me.rd2 (2 * (if k = 0 then o.db else if k = 1 then o.ab else o.bb).setWidth 8)
def nestSp (w : Dword) : Nat := w.toNat / 2 ^ 62
def nestTile (w : Dword) : Nat := w.toNat / 2 ^ 32 % 64
/-- R163, R164, R168: operand `k` is legal: its word is as R163 asks; every element of a scratch operand lies in the scratchpad, and of a tile operand in the tile, which is the gang's own and as the
operation needs it: `READY` for a source, and `READY` or, where the operation does not read its destination, `EMPTY` for a destination that nothing reads. -/
def nestOperand (s : State) (op : Nat) (o : NestOps) (k : Nat) : Prop :=
  let w := nestWord s o k
  let f := if op = 3 ∧ k = 1 then Fmt.ofCode (BitVec.ofNat 5 (w.toNat / 2 ^ 57 % 32)) else o.ty
  let size := f.bits (s.bank s.me) / 8
  let inside (lo hi : Nat) : Prop := ∀ x : Nat → Nat, (∀ j < o.nlev.toNat, x j < o.extent j) →
    let a : Int := lo + (w.toNat % 2 ^ 32 : Nat) + size * ((List.range o.nlev.toNat).map (fun j => (x j : Int) * o.stride k j)).sum
    (lo : Int) ≤ a ∧ a + size ≤ hi
  (if op = 3 ∧ k = 1 then f.nestCvt (some (s.bank s.me)) = true else w.toNat / 2 ^ 57 % 32 = 0) ∧
  (nestSp w = 0 ∨
   (nestSp w = 1 ∧ w.toNat / 2 ^ 32 % 2 ^ 25 = 0 ∧ ∃ p, s.pad? s.me.gang s.me.core = some p ∧ inside 0 p.size) ∨
   (nestSp w = 2 ∧ w.toNat / 2 ^ 38 % 2 ^ 19 = 0 ∧ ∃ t, owns s (nestTile w) t ∧ inside t.base (t.base + t.rows * rowPitch t.width t.cols) ∧
     (if k = 0 then loose s (nestTile w) t ∧ (op = 7 → t.st = .ready) else t.st = .ready)))

end Claims

/-- R163 to R169: each of the 24 loop-nest instructions completes, where its operands are legal and the
core's stream queue has room: it joins the queue with its operand words and the float control
register as they are now, empties its register pair or moves its destination tile to `FILLING`, and
steps PHASE if it rounds by `.RS`; a tile that it finds `READY` or `EMPTY` is acquired (R214), and in the logged mode the thread notes the command, whose
records may name a later PC (R128, assumption 18). Which source formats `NEST.CVT` accepts is the model's choice
(assumption 87). -/
def Obligations.StreamInstructionsQueue : Prop :=
  ∀ (i : Instr) (s : State) (op : Nat) (o : NestOps), s.issues i = true → Claims.nestCode i = some (op, o) →
    (∀ k ∈ Claims.nestMem op, Claims.nestOperand s op o k) → ((s.streamsOf s.me.core).filter (fun x => x.st.live)).length < 32 →
    let reg := Claims.nestToReg op
    let dst : Option Nat := if reg = false ∧ Claims.nestSp (Claims.nestWord s o 0) = 2 then some (Claims.nestTile (Claims.nestWord s o 0)) else none
    let srcs := ((Claims.nestMem op).filter (fun k => k != 0 && Claims.nestSp (Claims.nestWord s o k) == 2)).map (fun k => Claims.nestTile (Claims.nestWord s o k))
    let v := (Claims.nestMem op).foldl (fun v k => match (if Claims.nestSp (Claims.nestWord s o k) = 2 then s.tile? s.me.core (Claims.nestTile (Claims.nestWord s o k)) else none) with | some x => Claims.sees v x | none => v) s
    let t : State := match dst with | some id => v.mapTile s.me.core id (fun x => { x with st := .filling, chk := none }) | none => v
    let t : State := if reg then t.produce (2 * o.db.setWidth 8) 2 none else { t with fresh := t.fresh + 1 }
    let mode := if o.rnd = .dyn then (s.me.fcr &&& 7).toNat else 8
    let t := if o.rnd = .rs ∨ mode = 5 then t.upd (fun x => { x with fcr := (x.fcr &&& 0xFFC0FFFF) ||| (BitVec.ofNat 32 (((x.fcr >>> 16).toNat % 64 + (x.fcr >>> 10).toNat % 64) % 64) <<< 16) }) else t
    let t := t.upd (fun x => if s.me.fcr.getLsbD 22 = true ∧ (s.me.fcr >>> 4).toNat % 64 ≠ 0 then
      { x with logs := x.logs ++ [{ pc := s.me.pc, cmd := some s.fresh, flags := none, n := Config.logPcSlip s.fresh % 16, starts := [] }] } else x)
    let cmd : StreamCmd :=
      { id := s.fresh, core := s.me.core, uid := s.me.uid, pc := s.me.pc, op := op, o := o, dw := Claims.nestWord s o 0, aw := Claims.nestWord s o 1, bw := Claims.nestWord s o 2,
        fcr := s.me.fcr, tag := if reg then some s.fresh else none, tile := dst,
        prior := match dst.bind (s.tile? s.me.core) with | some x => x.st | none => .empty, chk := (dst.bind (s.tile? s.me.core)).bind (·.chk), srcs := srcs, done := 0, acc := [], flags := 0, st := .queued }
    CompletesTo i s (Claims.tallied { t with streams := s.streams ++ [cmd] })

/-- R161, R163, R170: `SSYNC` and its S32 form complete when no stream instruction of the thread is left or pending, wait while one is, and take the trap that a stopped one holds. A loop-nest instruction whose destination
word of D, A or B names the reserved space, and no operand before it is at fault, takes the stream-operand trap (16) with the operand's number. -/
def Obligations.StreamSyncCompletes : Prop :=
  ∀ (i : Instr) (s : State), s.issues i = true →
    ((∃ o m, i.long = .ssync o m) →
      ((∀ c ∈ s.streams, c.uid = s.me.uid → c.st = .dead) → CompletesTo i s s) ∧
      ((∃ c ∈ s.streams, c.uid = s.me.uid ∧ c.st = .queued) → exec i s = .next (s.await .order)) ∧
      (∀ c p, s.streams = [c] → c.uid = s.me.uid → c.st = .faulted p → c.tile = none →
        exec i s = .next (State.takeTrap ({ s with streams := [], me := { s.me with prods := s.me.prods.filter (fun x => some x.tag != c.tag) } })
          { cause := p.cause, pc := s.me.pc, faddr := p.faddr, d0 := BitVec.ofNat 64 (p.code + 2 ^ 32 * p.elem), d1 := c.pc, eng := true, record := [] }))) ∧
    (∀ op o, Claims.nestCode i = some (op, o) → ∀ k ∈ Claims.nestMem op, Claims.nestSp (Claims.nestWord s o k) = 3 →
      (∀ j ∈ Claims.nestMem op, j < k → Claims.nestSp (Claims.nestWord s o j) = 0 ∧ (Claims.nestWord s o j).toNat / 2 ^ 57 % 32 = 0 ∧ ¬ (op = 3 ∧ j = 1)) →
      exec i s = .next (s.trap 16 0 (BitVec.ofNat 64 k)))

/-! ### Matrix instructions (R250 to R276) -/

namespace Claims

/-- R252: Aw and Bw of the formats that have no descriptor. -/
def widthTable : List (Fmt × Option Nat × Option Nat) :=
  [(.i2, some 2, some 4), (.b1, some 2, some 4), (.e2m1, some 4, some 4), (.e1m2, some 4, some 4), (.i4, some 4, some 4), (.e4m3, some 8, some 8),
   (.e5m2, some 8, some 8), (.e3m4, some 8, some 8), (.e2m5, some 8, some 8), (.e3m2, some 8, some 8), (.e2m3, some 8, some 8), (.e6m1, some 8, some 8),
   (.i8, some 8, some 8), (.q7, some 8, some 8), (.n4, some 8, some 8), (.n8, some 12, some 16), (.bf16, some 12, some 16), (.f16, some 16, some 16),
   (.f19, some 16, some 16), (.i16, some 16, some 16), (.f32, some 24, none), (.f64, none, none), (.e8m0, none, none), (.i32, none, none)]
/-- The tile that a field names, and the format in which the instruction reads or writes it (R258). -/
def tileAt (s : State) (r : Reg) : Tile := (s.tile? s.me.core r.toNat).getD default
def inFormat (s : State) (m : EngMod) (t : Tile) : Fmt × BitVec 16 :=
  match m.ty with | .f64 => (t.fmt, t.desc) | .pf k => (.pf k, (s.bank s.me)[k.toNat]) | f => (f, 0)
/-- The storage width of a format, and whether it is the tile's. -/
def fits (f : Fmt × BitVec 16) (t : Tile) : Bool := f.1.bits (descBank f.2) == t.width
/-- R263: the scale tile of a field, and what it must be (R259). -/
def scaleOf (r : Reg) : Option Nat := if r.getLsbD 6 then some (r.toNat % 64) else none
def scaleFits (s : State) (r : Reg) (rows cols : Nat) : Prop :=
  ∀ id, scaleOf r = some id → ∀ t, s.tile? s.me.core id = some t → t.fmt = .e8m0 ∧ t.rows = rows ∧ t.cols = cols
/-- R259, R282, R281: the named tiles are the gang's; a source is `READY`, and a destination may be written. -/
def tilesStand (s : State) (l : List (Nat × Bool)) : Prop :=
  ∀ x ∈ l, ∃ t, owns s x.1 t ∧ (if x.2 then loose s x.1 t else t.st = .ready)
/-- R259, R72, R73: every one of the group's members was started and has arrived at this instruction, and they present equal values. -/
def assembled (s : State) (data : List Dword) (ps : Parts) : Prop :=
  ∃ g, s.group? s.me = some g ∧ g.started.toNat + 1 = 2 ^ g.width ∧
    (∀ t ∈ s.others, t.sameGroup s.me = true → t.uid ≠ s.me.uid → t.run ≠ .exited ∧ behind s.me.ord t.ord = false) ∧
    (∀ t ∈ s.instance_ g.started, t.pc = s.me.pc ∧ t.arrival.map (·.mask) = some g.started) ∧
    s.participants .matrix g.started false data = some ps ∧ ∀ p ∈ ps, p.2.2.headD 0 = data.headD 0
def scaled (r : Reg) : List (Nat × Bool) := ((scaleOf r).map (fun t => (t, false))).toList
/-- A command of the group, led by its lowest member. -/
def command (s : State) (ps : Parts) (m : EngMod) (op : MatOp) : MatCmd :=
  { id := s.fresh, core := s.me.core, g := s.me.gkey, uid := (ps.map (·.1)).headD 0, pc := s.me.pc, gs := m.gs, op := op, h := 8, slate := 2,
    out := none, t1 := 64, t2 := 64, scale := none, fmt := .f32, off := 0, desc := none, prior := .empty, turn := 0, trig := none, done := 0 }
/-- It joins the core's matrix queue, and a tile that it writes moves to `FILLING` (R262); the check vector goes where the result has none; in the
logged mode each member notes the command (R128). -/
def matQueued (s : State) (c : MatCmd) (clear : Bool) : State :=
  let t := match c.out with
    | some id => s.mapTile c.core id (fun t => { t with st := .filling, chk := if clear then none else t.chk })
    | none => s
  let t := t.mapThreads (fun x => if x.gkey = c.g ∧ x.fcr.getLsbD 22 = true ∧ (x.fcr >>> 4).toNat % 64 ≠ 0 then
    { x with logs := x.logs ++ [{ pc := c.pc, cmd := some s.fresh, flags := none, n := Config.logPcSlip s.fresh % 16, starts := [] }] } else x)
  { t with fresh := s.fresh + 1,
           matrix := s.matrix ++ [{ c with id := s.fresh, prior := match c.out.bind (s.tile? c.core) with | some t => t.st | none => .empty }] }
/-- R251, R264: the slate is free or the gang's; a load claims it, pins its tiles, and becomes its descriptor. -/
def claimable (s : State) (n : Nat) : Prop := ∃ x, s.slate? s.me.core n = some x ∧ (x.claim = none ∨ x.claim = some s.me.gang)
def loadQueued (s : State) (ps : Parts) (m : EngMod) (op : MatOp) (n : Nat) (d : SlateDesc) : State :=
  let s := s.mapSlate s.me.core n (fun x =>
    let x := if x.claim = some s.me.gang then x else { x with got := none, void := false, data := [], sum := [] }
    { x with claim := some s.me.gang, pins := d.tile :: (d.idx.toList ++ d.scale.toList), want := some d })
  matQueued s { command s ps m op with slate := n, t1 := d.tile, t2 := d.idx.getD 64, scale := d.scale, desc := some d } false
/-- R252: Kmax and Nmax. -/
def kLimit (bw : Nat) : Nat := if bw = 4 then 768 else 384
def nLimit (bw : Nat) : Nat := if bw = 16 then 128 else 256
/-- R256: the handle is bound, and keeps its entry, or an entry of the pool is free for it. -/
def bindable (s : State) (h : Nat) : Prop := (s.bound? s.me.gkey h).isSome = true ∨ s.poolHeld s.me.core < 32
/-- R265, R266: the operand conditions of a product of tile A with slate B: the descriptor of the slate is `d`. -/
def product (s : State) (o : LOps) (m : EngMod) (reads : Bool) (d : SlateDesc) : Prop :=
  let t := tileAt s o.a
  let f := inFormat s m t
  (∃ x, s.slate? s.me.core o.b.toNat = some x ∧ x.claim = some s.me.gang ∧ x.void = false ∧ x.want = some d) ∧
  (reads = true → (s.bound? s.me.gkey o.d.toNat).isSome = true) ∧
  (∃ aw bw, aWidth f.1 f.2 = some aw ∧ bWidth d.fmt d.desc = some bw ∧ aw + bw ≤ 32) ∧ fits f t = true ∧ t.rows = 16 ∧ t.cols = d.k ∧
  scaleFits s o.c 16 (d.k / 48)
def productCmd (s : State) (o : LOps) (m : EngMod) (d : SlateDesc) (c : MatCmd) : MatCmd :=
  let f := inFormat s m (tileAt s o.a)
  { c with h := o.d.toNat, slate := o.b.toNat, t1 := o.a.toNat, scale := scaleOf o.c, fmt := f.1, off := f.2.toNat, desc := some d }
/-- R266: the group is one of four that stand on the cores of one quad, in the order of quad positions. -/
def quad (s : State) : Prop :=
  ∃ k, ∀ q < 4, ∃ g, s.groupAt? { s.me.gkey with gid := 4 * (s.me.gid / 4) + q } = some g ∧ g.core = 4 * k + q

/-- R276: the groups that `MRESET` of a core takes matrix state from: those on the core with a bound handle, a slate claim or a queued command, and the partners of a lost joint command. -/
def loses (s : State) (w : Nat) (k : GKey) : Prop :=
  let keyOf (g : Group) : GKey := { gang := g.gang, role := g.role, gid := g.gid }
  let quads (a b : GKey) : Prop := a.gang = b.gang ∧ a.role = b.role ∧ a.gid / 4 = b.gid / 4
  (∃ g ∈ s.groups, keyOf g = k ∧ g.core = w ∧ s.away g.gang = false ∧ ((∃ b ∈ s.binds, b.g = k) ∨ ∃ x ∈ s.slates, x.core = w ∧ x.claim = some g.gang)) ∨
  (∃ c ∈ s.matrix, c.core = w ∧ s.away c.g.gang = false ∧ c.g = k) ∨
  ∃ c ∈ s.matrix, s.away c.g.gang = false ∧ (∃ acc, c.op = .joint acc) ∧ (∃ g ∈ s.groups, g.core = w ∧ s.away g.gang = false ∧ quads c.g (keyOf g)) ∧
    (c.g = k ∨ ∃ g ∈ s.groups, keyOf g = k ∧ quads c.g k)

/-- What a matrix instruction that queues a command needs: the tiles it names (and whether it writes each), what its members present, its operand
conditions, and its effect. -/
structure MatNeed where
  tiles : List (Nat × Bool)
  data : List Dword
  ok : Prop
  act : Parts → State

/-- R263 to R273. -/
def matNeed (s : State) : Instr → Option MatNeed
  | .mma o m => some
      { tiles := (o.a.toNat, false) :: scaled o.c, data := [0],
        ok := ∃ d, product s o m (m.sub == 1) d ∧ (m.sub ≠ 1 → bindable s o.d.toNat),
        act := fun ps =>
          let d := ((s.slate? s.me.core o.b.toNat).bind (·.want)).getD default
          let t := if m.sub = 1 then s else s.bindHandle o.d.toNat
          matQueued t (productCmd s o m d { command t ps m (.mma (m.sub == 1)) with pc := s.me.pc }) false }
  | .mmaJ o m => some
      { tiles := (o.a.toNat, false) :: scaled o.c, data := [0], ok := quad s ∧ ∃ d, product s o m true d,
        act := fun ps =>
          let d := ((s.slate? s.me.core o.b.toNat).bind (·.want)).getD default
          let trig := ((ps.head?.bind (fun p => s.thread? p.1)).bind (·.trig)).map (fun x => { x with late := decide (x.tick < s.time) })
          let t := ps.foldl (fun t p => t.mapThread p.1 (fun x => { x with trig := none })) s
          let t := t.mapGroup t.me (fun g => { g with joint := g.joint + 1, qturn := (g.joint + 1) % 4 })
          let n := match s.group? s.me with | some g => g.joint | none => 0
          matQueued t (productCmd s o m d { command s ps m (.joint (m.sub == 1)) with gs := none, turn := n, trig := trig }) false }
  | .mmaF64 o m => some
      { tiles := [(o.d.toNat, true), (o.a.toNat, false), (o.b.toNat, false)], data := [0],
        ok := let d := tileAt s o.d
              let a := tileAt s o.a
              let b := tileAt s o.b
              d.fmt = .f64 ∧ a.fmt = .f64 ∧ b.fmt = .f64 ∧ d.rows = a.rows ∧ d.cols = b.cols ∧ a.cols = b.rows ∧ d.rows ≤ 64 ∧ d.cols ≤ 64 ∧ a.cols ≤ 1024,
        act := fun ps => matQueued s { command s ps m (.f64 (m.sub == 1)) with out := some o.d.toNat, t1 := o.a.toNat, t2 := o.b.toNat } true }
  | .slateLd o m => some
      { tiles := (o.a.toNat, false) :: scaled o.c, data := [0],
        ok := let t := tileAt s o.a
              let f := inFormat s m t
              (∃ bw, bWidth f.1 f.2 = some bw ∧ t.rows ≤ kLimit bw ∧ t.cols ≤ nLimit bw) ∧ fits f t = true ∧ t.rows % 48 = 0 ∧
                scaleFits s o.c (t.rows / 48) t.cols ∧ claimable s o.d.toNat,
        act := fun ps =>
          let t := tileAt s o.a
          let f := inFormat s m t
          loadQueued s ps m .load o.d.toNat { tile := o.a.toNat, idx := none, scale := scaleOf o.c, fmt := f.1, desc := f.2, k := t.rows, n := t.cols, sp := 0 } }
  | .slateSp o m => some
      { tiles := (o.a.toNat, false) :: (o.b.toNat, false) :: scaled o.c, data := [0],
        ok := let t := tileAt s o.a
              let x := tileAt s o.b
              let f := inFormat s m t
              let n := if m.sub = 0 then 12 else if m.sub = 1 then 16 else 24
              (∃ bw, bWidth f.1 f.2 = some bw ∧ t.rows ≤ kLimit bw ∧ t.cols ≤ nLimit bw) ∧ fits f t = true ∧ t.rows % n = 0 ∧
                x.fmt = .n8 ∧ x.rows = t.rows ∧ x.cols = t.cols ∧ scaleFits s o.c (t.rows / n) t.cols ∧ claimable s o.d.toNat,
        act := fun ps =>
          let t := tileAt s o.a
          let f := inFormat s m t
          let n := if m.sub = 0 then 12 else if m.sub = 1 then 16 else 24
          loadQueued s ps m .sparse o.d.toNat { tile := o.a.toNat, idx := some o.b.toNat, scale := scaleOf o.c, fmt := f.1, desc := f.2,
                                                k := t.rows / n * 48, n := t.cols, sp := n } }
  | .epi o m => some
      { tiles := [(o.d.toNat, true)], data := [(s.me.rd o.b).setWidth 64],
        ok := let t := tileAt s o.d
              let f := inFormat s m t
              (s.me.rd o.b).toNat % 16 = 0 ∧ (∃ p, s.pad? s.me.gang s.me.core = some p ∧ (s.me.rd o.b).toNat + 16 ≤ p.size) ∧
                (s.bound? s.me.gkey o.a.toNat).isSome = true ∧ f.1.epiOk (some (descBank f.2)) = true ∧ fits f t = true ∧ t.rows = 16 ∧ t.cols ≤ 256,
        act := fun ps =>
          let f := inFormat s m (tileAt s o.d)
          matQueued s { command s ps m .epi with h := o.a.toNat, out := some o.d.toNat, fmt := f.1, turn := f.2.toNat, off := (s.me.rd o.b).toNat, fcr := s.leadFcr ps } false }
  | .accWr o m => some
      { tiles := [(o.a.toNat, false)], data := [0],
        ok := (tileAt s o.a).fmt = .f32 ∧ (tileAt s o.a).rows = 16 ∧ (tileAt s o.a).cols ≤ 256 ∧ bindable s o.d.toNat,
        act := fun ps => let t := s.bindHandle o.d.toNat
                         matQueued t { command t ps m .accWr with h := o.d.toNat, t1 := o.a.toNat } false }
  | .accZero o m => some
      { tiles := [], data := [0], ok := bindable s o.d.toNat,
        act := fun ps => let t := s.bindHandle o.d.toNat
                         matQueued t { command t ps m .accZero with h := o.d.toNat } false }
  | .accZeroFree o m => some
      { tiles := [], data := [0], ok := True,
        act := fun ps => match s.bound? s.me.gkey o.d.toNat with
          | none => s
          | some b => matQueued { s with binds := s.binds.map (fun x => if x.id = b.id then { x with leaving := true } else x) }
              { command s ps m .accFree with gs := none, h := o.d.toNat, turn := b.id } false }
  | .slateRel o m => some
      { tiles := [], data := [0],
        ok := (∃ x, s.slate? s.me.core o.d.toNat = some x ∧ x.claim = some s.me.gang) ∧ s.me.run ≠ .exited ∧ s.away s.me.gang = false ∧ (∀ c ∈ s.matrix, c.id ≠ s.fresh),
        act := fun ps =>
          if s.matrix.any (fun c => c.core == s.me.core && c.slate == o.d.toNat && !s.away c.g.gang) then matQueued s { command s ps m .rel with gs := none, slate := o.d.toNat } false
          else { s with fresh := s.fresh + 1, slates := s.slates.map (fun x => if x.core = s.me.core ∧ x.n = o.d.toNat then Slate.fresh x.core x.n else x) } }
  | _ => none

end Claims

/-- R251, R252, R256, R258, R259, R262 to R273: `MMA`, `MMA.J`, `MMA.F64`, `SLATE.LD`, `SLATE.SP`,
`SLATE.REL`, `EPI`, `ACC.WR`, `ACC.ZERO` and `ACC.ZERO.FREE` complete, where every member has
arrived, the named tiles are the gang's and stand as they must, the operand conditions hold and the
queue has room: the command joins the core's queue with its binding, claim and descriptor, and every
member goes on; `SLATE.REL` frees the slate at once when no queued command names it (the model's
choice of when). A core of class C or D takes the illegal-instruction trap (1) for those that need
the unit. The tiles that a slate pins and the order of the checks are the model's reading and choice
(assumptions 41, 48 and 90). -/
def Obligations.MatrixInstructionsComplete : Prop :=
  (∀ x ∈ Claims.widthTable, ∀ d, aWidth x.1 d = x.2.1 ∧ bWidth x.1 d = x.2.2) ∧
  (∀ (i : Instr) (s : State) (n : Claims.MatNeed) (ps : Parts), s.issues i = true → s.hasUnit i = true → s.uncancelled = true → Claims.matNeed s i = some n →
    Claims.assembled s n.data ps → Claims.tilesStand s n.tiles → n.ok → (s.matrixOf s.me.core).length < 32 →
    exec i s = .next (ps.foldl (fun t p => t.asThread p.1 (Claims.passOn i.syllables)) (n.act ps))) ∧
  (∀ (i : Instr) (s : State), needsUnit i = true → s.hasMatrix s.me.core = false → exec i s = .next (s.trap 1 0 0)) ∧
  (∀ (o : LOps) (m : EngMod) (s : State) (ps : Parts), s.issues (.mma o m) = true → s.hasMatrix s.me.core = true → s.uncancelled = true → Claims.assembled s [0] ps →
    Claims.tilesStand s ((o.a.toNat, false) :: Claims.scaled o.c) → (∀ x, s.slate? s.me.core o.b.toNat = some x → x.claim ≠ some s.me.gang) →
    exec (.mma o m) s = .next (ps.foldl (fun t p => t.asThread p.1 (fun u => u.trap 17 0 3)) s))

/-- R256, R274 to R276: `ACC.RD` completes in every member, and the value that arrives is the element,
the check entry or the count that the member's index names, once no command on the handle and no
shadow is left; on an unbound handle it takes the matrix-operand trap (17, detail 6). `MSTAT`, once
nothing of the group is queued, and `MSTAT.NOW` complete with one word in every member, which for `MSTAT` is there at once. `MRESET`
completes with 0xFFFFFFFF for no core, 0 for a core without a unit, and otherwise takes claims,
bindings and queued commands from the core named, and answers how many groups lost something, each of
whose members has the matrix-reset trap (18) waiting. What a new accumulator holds is free, and when a
read's value arrives and what `MRESET` leaves pending are the model's reading (assumptions 39, 40
and 50). -/
def Obligations.MatrixReadsAndResetComplete : Prop :=
  (∀ (o : LOps) (m : EngMod) (s : State) (ps : Parts), s.issues (.accRd o m) = true → s.hasMatrix s.me.core = true → s.uncancelled = true →
    Claims.assembled s [0, (s.me.rd o.b).setWidth 64] ps →
    ((s.bound? s.me.gkey o.a.toNat).isSome = true →
      exec (.accRd o m) s = .next (ps.foldl (fun t p => t.asThread p.1 (Claims.passOn (Instr.accRd o m).syllables))
        (s.lateEach ps o.d 1 (fun x => .accRd o.a.toNat m.sub.toNat (x.getD 1 0).toNat)).settle)) ∧
    (s.bound? s.me.gkey o.a.toNat = none → exec (.accRd o m) s = .next (ps.foldl (fun t p => t.asThread p.1 (fun u => u.trap 17 0 6)) s))) ∧
  (∀ (s : State) (l : Late) (h sub idx : Nat), l.kind = .accRd h sub idx →
    ((∃ c ∈ s.matrix, c.g = l.g ∧ c.h = h ∧ c.id < l.after) ∨ (∃ x ∈ s.shadows, x.g = l.g ∧ x.h = h) → s.lateValue l = none) ∧
    ((∀ c ∈ s.matrix, c.g = l.g → c.h = h → l.after ≤ c.id) → (∀ x ∈ s.shadows, ¬ (x.g = l.g ∧ x.h = h)) → ∀ b x, s.boundAt? l.g h l.after = some b → s.acc? b.core b.acc = some x →
      s.lateValue l = some [if sub = 0 then x.val.getD (idx / 2 ^ 8 % 16 * 256 + idx % 2 ^ 8) 0 else if sub = 1 then x.chk.getD (idx % 16) 0 else BitVec.ofNat 32 x.g])) ∧
  (∀ (i : Instr) (o : LOps) (m : EngMod) (s : State) (ps : Parts), s.issues i = true → s.uncancelled = true →
    (i = .mstat o m → (∃ c ∈ s.matrix, c.g = s.me.gkey) ∨ (∃ x ∈ s.shadows, x.g = s.me.gkey) → exec i s = .next (s.await .queue)) ∧
    (∀ now : Bool, (i = .mstat o m ∧ now = true ∧ (∀ c ∈ s.matrix, c.g ≠ s.me.gkey) ∧ ∀ x ∈ s.shadows, x.g ≠ s.me.gkey) ∨ (i = .mstatNow o m ∧ now = false) →
      Claims.assembled s [0] ps → ∀ g, s.group? s.me = some g → g.qturn < 4 →
      ∃ w : Dword,
        let give (u : State) : State :=
          let v := u.produce o.d 2 (some (natWords 2 w.toNat))
          if now then v.upd (fun x => match x.prods.find? (fun p => p.tag = u.fresh) with | some p => x.arrive p (natWords 2 w.toNat) | none => x) else v
        exec i s = .next (ps.foldl (fun t p => t.asThread p.1 (Claims.passOn i.syllables)) (ps.foldl (fun t p => t.asThread p.1 give) s)) ∧
        w.toNat < 2 ^ 32 ∧ w.toNat % 64 = min 32 (s.matrix.filter (fun c => c.g == s.me.gkey)).length ∧ w.toNat / 2 ^ 24 % 4 = g.qturn ∧
        (s.hasMatrix s.me.core = true → w.toNat / 2 ^ 26 = 32 - s.poolHeld s.me.core ∧
          (∀ h < 8, w.getLsbD (6 + h) = (s.bound? s.me.gkey h).isSome ∧ w.getLsbD (14 + h) = s.shadows.any (fun x => x.g == s.me.gkey && x.h == h)) ∧
          ∀ k < 2, w.getLsbD (22 + k) = decide (∃ x, s.slate? s.me.core k = some x ∧ x.claim = some s.me.gang)) ∧
        (s.hasMatrix s.me.core = false → w.toNat / 2 ^ 26 = 0 ∧ w.toNat / 2 ^ 6 % 2 ^ 18 = 0))) ∧
  (∀ (o : LOps) (m : EngMod) (s : State), s.issues (.mreset o m) = true →
    let w := (s.me.rd o.a).toNat
    (256 ≤ w ∨ (∀ c, s.core? w = some c → c.cls = none) → CompletesTo (.mreset o m) s (s.wr o.d 0xFFFFFFFF)) ∧
    (w < 256 → (∃ c k, s.core? w = some c ∧ c.cls = some k ∧ (k = .c ∨ k = .d)) → CompletesTo (.mreset o m) s (s.wr o.d 0)) ∧
    (w < 256 → s.hasMatrix w = true → ∃ (u : State) (n : Word), CompletesTo (.mreset o m) s (u.wr o.d n) ∧ u.mem = s.mem ∧ u.ops = s.ops ∧
      (∀ x ∈ u.slates, x.core = w → x.claim = none ∧ x.pins = [] ∧ x.got = none) ∧ (∀ c ∈ u.matrix, c ∈ s.matrix ∧ c ∉ s.matrixOf w) ∧
      (∀ b ∈ u.binds, ∀ g ∈ s.groups, b.g = { gang := g.gang, role := g.role, gid := g.gid } → g.core = w → s.away g.gang = true) ∧
      (s.groups = [] → s.matrix = [] → n = 0) ∧
      -- the trap, held for every thread of the groups that lost something, which the word counts
      (∀ l : List GKey, l.Nodup → (∀ k, k ∈ l ↔ Claims.loses s w k) → n = BitVec.ofNat 32 l.length ∧
        ∀ x ∈ s.others, x.run ≠ .exited → (∀ y ∈ s.threads, y.uid = x.uid → y = x) → ∃ y ∈ u.others, y.uid = x.uid ∧
          (x.gkey ∈ l → ∃ t ∈ y.held, t.cause = 18 ∧ t.d0 = BitVec.ofNat 64 w) ∧ (x.gkey ∉ l → y.held = x.held))))

/-! ### Regions, stage graphs and launches (R297 to R327) -/

namespace Claims

/-- R321: the operand B or LIT32, the region that it names, and whether the thread reaches it. -/
def operandB (s : State) (o : LOps) : Word := match o.lit with | some l => l | none => s.me.rd o.b
def named (s : State) (o : LOps) : Nat := if operandB s o = 0 then s.regionNum s.me else (operandB s o).toNat
def reached (s : State) (r : Nat) : Prop := (∃ x, s.region? r = some x) ∧ s.reaches (s.regionNum s.me) r = true
/-- R303, R318: nothing of a region is resident, open or queued, and no completion of a card is to come. -/
def nothingLeft (s : State) (r : Nat) : Bool :=
  s.gangs.all (fun g => g.region != r) && s.batches.all (fun b => b.region != r || b.st == .gang) && s.ready.all (fun x => x.region != r) && s.cards.all (fun c => c.region != r) &&
  s.devWrites.all (fun w => !(w.space == some r && w.adds))
/-- R303: the state of a region after an event, and whether the event answers status 2. -/
def after (e : Instr) (st : RState) (idle : Bool) : Option (RState × Bool) :=
  match e with
  | .quiesce _ _ => some (match st with
    | .active => (if idle then .halted else .quiescing, false)
    | .quiescing => (.quiescing, false) | .halted => (.halted, false) | .cancelling => (.cancelling, true) | .dead => (.dead, true))
  | .resume _ _ => some (match st with
    | .active | .quiescing | .halted => (.active, false) | .cancelling => (.cancelling, true) | .dead => (.dead, true))
  | .cancel _ _ => some (match st with
    | .active | .quiescing => (if idle then .halted else .cancelling, false)
    | .cancelling => (.cancelling, false) | .halted => (.halted, false) | .dead => (.dead, true))
  | _ => none
def operands : Instr → Option (LOps × CtlMod)
  | .quiesce o m | .resume o m | .cancel o m | .nodeCtlOff o m | .nodeCtlOn o m | .nodeCtlFlush o m | .regionFree o m | .qstat o m => some (o, m)
  | _ => none
def nodeAt (s : State) (n : Nat) : Option Node := (s.region? (s.regionNum s.me)).bind (fun r => r.nodes[n]?)
/-- Node `n` of the thread's region changes. -/
def setNode (s : State) (n : Nat) (f : Node → Node) : State :=
  { s with regions := s.regions.map (fun r => if r.num = s.regionNum s.me then { r with nodes := r.nodes.zipIdx.map (fun x => if x.2 = n then f x.1 else x.1) } else r) }
/-- R327: the count that a selector names. -/
def count (s : State) (sel : Nat) (w : Word) : Nat :=
  let none_ := 2 ^ 64 - 1
  let r := if w = 0 then s.regionNum s.me else w.toNat
  if sel < 3 then
    match nodeAt s w.toNat with
    | none => none_
    | some n => if sel = 0 then ((s.batches.filter (fun b => b.region = s.regionNum s.me ∧ b.node = w.toNat ∧ b.st ≠ .gang)).map (·.slots)).sum
                else if sel = 1 then n.ngang else n.ntimer
  else match (if s.reaches (s.regionNum s.me) r then s.region? r else none) with
    | none => none_
    | some x => if sel = 3 then (match x.state with | .active => 0 | .quiescing => 1 | .cancelling => 2 | .halted => 3 | .dead => 4)
                else if sel = 4 then x.accepted else if sel = 5 then x.consumed else if sel = 6 then x.dropped else if sel = 7 then s.poolFree (s.allot 2 r)
                else (s.cards.filter (fun c => c.region = r)).length

end Claims

/-- R303, R321, R324 to R327: `CANCEL`, `QUIESCE` and `RESUME` of a region that the thread does not reach complete with status 1, and of one it reaches with 0 or 2; a region without
descendants takes the state of R303's table and no other region changes. `NODE.CTL` completes with 1 for no node and otherwise with 0: `.OFF` clears EN, `.ON` sets it, `.FLUSH` seals the node's open
batches. `REGION.FREE` completes with 1, 2 or 8, waits for a gang or a card's completion that is still to
end, or completes with 0 and the region is gone with its windows; which status comes first is the model's choice (assumption 93). `QSTAT` completes with the count that its selector names. -/
def Obligations.RegionControlCompletes : Prop :=
  ∀ (i : Instr) (o : LOps) (m : CtlMod) (s : State), s.issues i = true → Claims.operands i = some (o, m) →
    let r := Claims.named s o
    let n := (Claims.operandB s o).toNat
    (∀ x, (∃ st b, Claims.after i x true = some (st, b)) →
      (¬ Claims.reached s r → CompletesTo i s (s.wr o.d 1)) ∧
      (Claims.reached s r → ∃ (u : State) (st : Word), CompletesTo i s (u.wr o.d st) ∧ (st = 0 ∨ st = 2)) ∧
      (Claims.reached s r → (∀ y ∈ s.regions, y.parent ≠ r) → ∀ y, s.region? r = some y → ∃ (u : State) (a : RState × Bool), CompletesTo i s (u.wr o.d (if a.2 then 2 else 0)) ∧
        Claims.after i y.state (Claims.nothingLeft u r) = some a ∧ (u.region? r).map (·.state) = some a.1 ∧ ∀ k, k ≠ r → u.region? k = s.region? k)) ∧
    (i = .nodeCtlOff o m ∨ i = .nodeCtlOn o m ∨ i = .nodeCtlFlush o m → Claims.nodeAt s n = none → CompletesTo i s (s.wr o.d 1)) ∧
    (∀ x, Claims.nodeAt s n = some x →
      (i = .nodeCtlOff o m → CompletesTo i s ((Claims.setNode s n (fun y => { y with en := false })).wr o.d 0)) ∧
      (i = .nodeCtlOn o m → (∀ b ∈ s.batches, b.region = s.regionNum s.me → b.node = n → b.st ≠ .gathering ∨ x.timer = 0 ∨ s.time < b.t0 + x.timer) →
        CompletesTo i s ((Claims.setNode s n (fun y => { y with en := true })).wr o.d 0)) ∧
      (i = .nodeCtlOn o m → ∃ u : State, CompletesTo i s (u.wr o.d 0)) ∧
      (i = .nodeCtlFlush o m → (s.batches.map (·.id)).Nodup → ∃ u : State, CompletesTo i s (u.wr o.d 0) ∧
        ∀ b ∈ u.batches, b.region = s.regionNum s.me → b.node = n → b.st ≠ .gathering)) ∧
    (i = .regionFree o m →
      (¬ Claims.reached s r → CompletesTo i s (s.wr o.d 1)) ∧
      (Claims.reached s r → r = s.regionNum s.me → CompletesTo i s (s.wr o.d 8)) ∧
      (Claims.reached s r → r ≠ s.regionNum s.me → ∀ x, s.region? r = some x →
        (x.state ≠ .halted → x.state ≠ .dead → CompletesTo i s (s.wr o.d 2)) ∧
        (x.state = .halted ∨ x.state = .dead → (∃ y ∈ s.regions, y.parent = r) → CompletesTo i s (s.wr o.d 8)) ∧
        (x.state = .halted ∨ x.state = .dead → (∀ y ∈ s.regions, y.parent ≠ r) →
          (∃ g ∈ s.gangs, g.region = r) ∨ (∃ w ∈ s.devWrites, w.space = some r ∧ w.adds = true) → exec i s = .next (s.await .system)) ∧
        (x.state = .halted ∨ x.state = .dead → (∀ y ∈ s.regions, y.parent ≠ r) → (∀ g ∈ s.gangs, g.region ≠ r) → (∀ w ∈ s.devWrites, w.space = some r → w.adds = false) →
          ∃ u : State, CompletesTo i s (u.wr o.d 0) ∧ u.region? r = none ∧
          (∀ k, k ≠ r → u.region? k = s.region? k) ∧ (∀ w ∈ u.windows, w.region ≠ r) ∧
          (∀ p ∈ u.parcels, p.region = r → r ≠ 0 → p.st ≠ .opened ∧ p.st ≠ .sealed ∧ p.st ≠ .returned ∧ (p.st = .inTransit → p.dropped = true)) ∧ u.mem = s.mem))) ∧
    (i = .qstat o m → let v := Claims.count s m.sel.toNat (Claims.operandB s o)
      CompletesTo i s (s.produce o.d 2 (some [BitVec.ofNat 32 v, BitVec.ofNat 32 (v / 2 ^ 32)])))

namespace Claims

/-- R322: the reason with which a node refuses a record of depth `d`. -/
def reason (s : State) (x : Region) (n d : Nat) (nd : Node) : Nat :=
  if x.state = .cancelling then 3 else if nd.en = false then 4 else if nd.maxd < d then 2 else if s.slotFor x.num n d nd = none then 1 else 0
/-- R312: the depth of a record that the thread emits. -/
def emitDepth (s : State) : Nat := match s.gang? s.me.gang with | some g => g.depth + 1 | none => 1
/-- The record's source: nothing, or bytes found as those of a load. -/
def source (s t : State) (a : Dword) (k : Nat) (segs : List (Nat × Nat)) : Prop :=
  (k = 0 ∧ t = s ∧ segs = []) ∨ (0 < k ∧ s.locate .glb 0 a k false .read true = .ok ({ space := .glb, segs := segs }, t))

end Claims

/-- R310, R312, R322: `EMIT` and `EMIT.TRY` complete: a delivered record counts in ACCEPTED and NREC and
takes a slot of the batch, whose bytes at its place in memory are the record's, zero-filled, as long
as the batch is not sealed by it. A refusal is code 5 for no node, 3 for a cancelling region, 4 for
a disabled node, 2 for a depth past MAXD and 1 for no room: `EMIT.TRY` writes the code and the
predicate, `EMIT` takes the emit-refused trap (25) for 2, 4 and 5, goes on for 3, and waits for 1. A
byte count past the record size takes the bounds trap (13) and a source that is not a multiple of 16
the alignment trap (12). How the record's store is ordered and checked is the model's reading
(assumption 52). -/
def Obligations.EmitCompletes : Prop :=
  ∀ (i : Instr) (o : LOps) (m : CtlMod) (s : State), s.issues i = true → s.uncancelled = true → (i = .emit o m ∨ i = .emitTry o m) →
    let n := (Claims.operandB s o).toNat
    let k := (s.me.rd o.c).toNat
    let a := s.me.rd2 o.a
    let refused (c : Nat) (t : State) : Prop := exec i s = .next
      (if i = .emit o m then (if c = 1 then t.awaitWith { kind := .pool, obj := BitVec.ofNat 64 n, limit := t.wdogLimit t.me } else if c = 3 then t.advanceBy i.syllables else t.trap 25 0 (BitVec.ofNat 64 c))
       else ((t.wr o.d (BitVec.ofNat 32 c)).setPred (m.sel.setWidth 3) false).advanceBy i.syllables)
    (Claims.nodeAt s n = none → refused 5 s) ∧
    (∀ nd, Claims.nodeAt s n = some nd →
      (nd.rsz < k → exec i s = .next (s.trap 13 a 0)) ∧
      (k ≤ nd.rsz → a.toNat % 16 ≠ 0 → exec i s = .next (s.trap 12 a 0)) ∧
      (k ≤ nd.rsz → a.toNat % 16 = 0 → ∀ (t : State) (segs : List (Nat × Nat)) (x : Region), Claims.source s t a k segs → s.region? (s.regionNum s.me) = some x →
        let d := Claims.emitDepth t
        (∀ c, Claims.reason t x n d nd = c → c ≠ 0 → refused c t) ∧
        (Claims.reason t x n d nd = 0 → ∀ slot new, t.slotFor (s.regionNum s.me) n d nd = some (slot, new) →
          ∀ (u : State) (dst : List (Nat × Nat)), t.locate .glb 0 (BitVec.ofNat 64 slot) nd.rsz false .write false = .ok ({ space := .glb, segs := dst }, u) →
          let id := match new with | some b => b.id | none => match u.openBatch (s.regionNum s.me) n d with | some b => b.id | none => 0
          let w : MemOp := { id := u.fresh + 1, uid := u.me.uid, core := u.me.core, part := u.me.part, pc := u.me.pc, psn := u.me.psn, kind := .store false, space := .glb,
                             segs := dst, data := [], scope := .dev, ord := .rel, evict := 0, tag := some id, issued := u.cycle }
          ∀ v, u.admits w = some v → ∃ z : State, exec i s = .next (if i = .emit o m then z.advanceBy i.syllables else ((z.wr o.d 0).setPred (m.sel.setWidth 3) true).advanceBy i.syllables) ∧
            (z.region? (s.regionNum s.me)).map (fun y => (y.accepted, (y.nodes[n]?).map (·.nrec))) = some ((x.accepted + 1) % 2 ^ 64, some ((nd.nrec + 1) % 2 ^ 64)) ∧
            z.me = { s.me with resv := z.me.resv, wrote := z.me.wrote } ∧
            (∃ b ∈ z.batches, b.id = id ∧ b.slots = 1 + (match new with | some _ => 0 | none => match u.openBatch (s.regionNum s.me) n d with | some y => y.slots | none => 0)) ∧
            (∀ pa, dst = [(pa, nd.rsz)] → x.state ≠ .quiescing → 1 < nd.thr → (∀ b ∈ u.batches, b.id = id → b.slots + 1 < nd.thr) →
              s.memoriesWf → readBytes z.mem pa nd.rsz = (v.ownRead segs).1 ++ List.replicate (nd.rsz - k) 0))))

/-- R315 to R317, R323: `LAUNCH.JOB` completes with the first failing status of reachability (1), state
(2), structure (4) and queue (3), with no other effect, and with 0 for an accepted card, which joins
the region's job queue, whole and undealt, and counts in ACCEPTED, once the release that it makes
may perform. A card that is not a multiple of 64 takes the alignment trap (12). In whose space the
card is read, and that its reserved bits are not looked at, are the model's reading and choice
(assumptions 51 and 82). -/
def Obligations.LaunchJobCompletes : Prop :=
  ∀ (o : LOps) (m : CtlMod) (s : State), s.issues (.launchJob o m) = true →
    let i : Instr := .launchJob o m
    let a := s.me.rd2 o.a
    let r := Claims.named s o
    (a.toNat % 64 ≠ 0 → exec i s = .next (s.trap 12 a 0)) ∧
    (a.toNat % 64 = 0 → s.busy = false → ∀ (bs : List Byte) (t u : State) (lb : LaunchBlock) (nt : Nat), s.readRuns a 1 [] = .ok (bs, t) →
      let c := bytesNat bs
      t.readLb (BitVec.ofNat 64 (c % 2 ^ 64)) = .ok (lb, nt, u) →
      let good (x : Region) : Prop := 1 ≤ c / 2 ^ 128 % 2 ^ 32 ∧ 2 ≤ c / 2 ^ 165 % 8 ∧ c / 2 ^ 64 % 2 ^ 64 % 16 = 0 ∧ c / 2 ^ 192 % 2 ^ 64 % 8 = 0 ∧ lb.valid nt x.classes (c.testBit 164) = true
      (¬ Claims.reached u r → CompletesTo i s (u.wr o.d 1)) ∧
      (Claims.reached u r → ∀ x, u.region? r = some x →
        (x.state ≠ .active → CompletesTo i s (u.wr o.d 2)) ∧
        (x.state = .active → ¬ good x → CompletesTo i s (u.wr o.d 4)) ∧
        (x.state = .active → good x → 64 ≤ (u.cards.filter (fun y => y.region = r)).length → CompletesTo i s (u.wr o.d 3)) ∧
        (x.state = .active → good x → (u.cards.filter (fun y => y.region = r)).length < 64 →
          let w : MemOp := { id := u.fresh + 1, uid := u.me.uid, core := u.me.core, part := u.me.part, pc := u.me.pc, psn := u.me.psn, kind := .fence, space := .glb,
                             segs := [], data := [], scope := .dev, ord := .rel, evict := 0, tag := none, issued := u.cycle }
          (u.admits w).isSome = true → ∃ (v : State) (y : Card), CompletesTo i s (v.wr o.d 0) ∧ v.cards = u.cards ++ [y] ∧
          y.region = r ∧ y.uid = u.me.uid ∧ y.lb = lb ∧ y.n = c / 2 ^ 128 % 2 ^ 32 ∧ y.args.toNat = c / 2 ^ 64 % 2 ^ 64 ∧ y.stride = 16 * (c / 2 ^ 160 % 16 + 1) ∧ y.pad = c.testBit 164 ∧
          y.dscope = c / 2 ^ 165 % 8 ∧ y.done.toNat = c / 2 ^ 192 % 2 ^ 64 ∧ y.dealt = 0 ∧ y.chunks = 0 ∧ y.live = 0 ∧
          (v.region? r).map (·.accepted) = some ((x.accepted + y.n) % 2 ^ 64))))

namespace Claims

/-- R326 check 2: the image, its nodes, whose rings lie in the region's pool, and its virtual-die table are legal, and it is a system region only under one. -/
def legalRegion (s : State) (p r : Region) (nodes : List (Node × Nat)) (vw : Option Nat) : Prop :=
  let pool := if r.ovr.getLsbD 2 then (r.pool, r.poolb) else match s.region? (s.allot 2 p.num) with | some x => (x.pool, x.poolb) | none => (0, 0)
  imageOk r = true ∧ (∀ x ∈ nodes, nodeOk x.1 x.2 r.classes pool = true) ∧ (r.sys = true → p.sys = true) ∧ ∀ w, vw = some w → s.vdtOk w = true

end Claims

/-- R301, R302, R326: `REGION.NEW`, where its structures can be read, completes, with a status and 0,
and no trace, where a check fails, the first of: the parent's state (2), the structures (4), PTEL
(7), budgets (5), Thatch-direct carves (6) and the table (9); otherwise with 0 and the new region's
number, and the region joins the table, `ACTIVE`, with zero counters. An image that is not a
multiple of 256 takes the alignment trap (12; the model's choice, assumption 93). In whose space the
structures are read is the model's reading (assumption 51); the number of the new region, and that
reserved bits of its structures are not looked at, are its choice (assumptions 53 and 82). -/
def Obligations.RegionNewCompletes : Prop :=
  (∀ (o : LOps) (m : CtlMod) (s : State), s.issues (.regionNew o m) = true →
    let i : Instr := .regionNew o m
    let a := s.me.rd2 o.a
    (a.toNat % 256 ≠ 0 → exec i s = .next (s.trap 12 a 0)) ∧
    (a.toNat % 256 = 0 → s.busy = false → ∀ (bs : List Byte) (t u v : State) (nodes : List (Node × Nat)) (vw : Option Nat) (p : Region), s.readRuns a 4 [] = .ok (bs, t) →
      let n := bytesNat bs
      t.readNodes (BitVec.ofNat 64 (n / 2 ^ 832 % 2 ^ 64)) (n / 2 ^ 816 % 2 ^ 16) [] = .ok (nodes, u) →
      (if n.testBit 87 then ∃ b, u.readRuns (BitVec.ofNat 64 (n / 2 ^ 384 % 2 ^ 64 / 64 * 64)) 1 [] = .ok (b, v) ∧ vw = some (bytesNat ((b.drop (n / 2 ^ 384 % 64)).take 8)) else v = u ∧ vw = none) →
      v.regionOf v.me = some p →
      let r := inherit_ (Sys2Proof.Machine.regionOf v.freeNum p.num p.vif a n (nodes.map (·.1)) (match vw with | some w => vdtOf w | none => [])) p
      let fails (c : Word) : Prop := CompletesTo i s ((v.wr o.d c).wr (o.d + 1) 0)
      let legal := Claims.legalRegion v p r nodes vw
      (p.state ≠ .active → fails 2) ∧
      (p.state = .active → ¬ legal → fails 4) ∧
      (p.state = .active → (∃ x ∈ nodes, ∀ b, nodeOk x.1 x.2 r.classes b = false) → fails 4) ∧
      (p.state = .active → legal → ptValid r.ptel = false → fails 7) ∧
      (p.state = .active → legal → ptValid r.ptel = true → v.budgetOk r = false → fails 5) ∧
      (p.state = .active → legal → ptValid r.ptel = true → v.budgetOk r = true → v.carve r = none → fails 6) ∧
      (p.state = .active → legal → ptValid r.ptel = true → v.budgetOk r = true → 4096 ≤ v.regions.length → (v.carve r).isSome = true → fails 9) ∧
      (p.state = .active → legal → ptValid r.ptel = true → v.budgetOk r = true → v.regions.length < 4096 → ∀ runs, v.carve r = some runs →
        ∃ z : State, CompletesTo i s ((z.wr o.d 0).wr (o.d + 1) (BitVec.ofNat 32 r.num)) ∧
          z.regions = v.regions ++ [{ r with tdwoff := runs }] ∧ r.state = .active ∧ r.accepted = 0 ∧ r.consumed = 0 ∧ r.dropped = 0 ∧ r.parent = p.num) ∧
      (∃ (z : State) (st num : Word), CompletesTo i s ((z.wr o.d st).wr (o.d + 1) num)))) ∧
  (∀ (s : State) (p r : Region) (nodes : List (Node × Nat)) (vw : Option Nat),
    (p.state ≠ .active → s.checkRegion p r nodes vw = .error 2) ∧
    (p.state = .active → imageOk r = false ∨ (r.sys = true ∧ p.sys = false) ∨ (∃ w, vw = some w ∧ s.vdtOk w = false) → s.checkRegion p r nodes vw = .error 4) ∧
    (ptValid r.ptel = false → s.checkRegion p r nodes vw = .error 2 ∨ s.checkRegion p r nodes vw = .error 4 ∨ s.checkRegion p r nodes vw = .error 7) ∧
    (p.state = .active → Claims.legalRegion s p r nodes vw →
      (ptValid r.ptel = false → s.checkRegion p r nodes vw = .error 7) ∧ (ptValid r.ptel = true → s.budgetOk r = false → s.checkRegion p r nodes vw = .error 5) ∧
      (ptValid r.ptel = true → s.budgetOk r = true → s.carve r = none → s.checkRegion p r nodes vw = .error 6)) ∧
    (∀ x, s.checkRegion p r nodes vw = .ok x → p.state = .active ∧ imageOk r = true ∧ ptValid r.ptel = true ∧ s.budgetOk r = true ∧ s.carve r = some x.2 ∧ s.regions.length < 4096 ∧
      (∀ y ∈ nodes, ∃ b, nodeOk y.1 y.2 r.classes b = true) ∧ x.1 = r))

/-! ### Parcels, remote memory, collectives between modules and time (R328 to R361) -/

namespace Claims

/-- R332, R335: why a handle is refused: the detail of the parcel-handle trap. -/
def handleFault (s : State) (h : Dword) : Option Nat :=
  let p := s.parcel (h.toNat / 2 ^ 24 % 2 ^ 24)
  if h.toNat / 2 ^ 48 ≠ s.chip.toNat then some 1
  else if p.st = .free ∨ h.toNat / 2 ^ 24 % 2 ^ 24 = 0 then some 2
  else if p.gen ≠ h.toNat % 2 ^ 24 then some 3
  else if s.reaches p.region (s.regionNum s.me) = false then some 4
  else none
def theParcel (s : State) (h : Dword) : Parcel := s.parcel (h.toNat / 2 ^ 24 % 2 ^ 24)
def handleOf (s : State) (n gen : Nat) : Dword := BitVec.ofNat 64 (s.chip.toNat * 2 ^ 48 + n * 2 ^ 24 + gen)
/-- The parcel table with one entry changed. -/
def putParcel (s : State) (p : Parcel) : State := { s with parcels := p :: s.parcels.filter (fun x => x.num != p.num) }
/-- R332, R336: a number that is free again: its generation has advanced. -/
def freed (p : Parcel) : Parcel :=
  { num := p.num, gen := (p.gen + 1) % 2 ^ 24, st := .free, lsz := 0, region := 0, base := 0, map := [], schip := 0, dchip := 0, dwin := 0, key := 0, sealing := none, charge := 0,
    dropped := false }
/-- R342: the destination word of `POST`: chip, window, and key. -/
def posted (s : State) (p : Parcel) (dst : Dword) : State :=
  putParcel s { p with st := if s.routes.contains (dst.toNat / 2 ^ 48) then .inTransit else .returned, dchip := dst.toNat / 2 ^ 48, dwin := dst.toNat / 2 ^ 36 % 2 ^ 12, key := dst.setWidth 32 }
/-- R343, R348: the window that a register names. -/
def windowIn (s : State) (r : Reg) : Option Window := if (s.me.rd r).toNat < 4096 then s.windows.find? (fun w => w.num = (s.me.rd r).toNat) else none
/-- R333: no access of the module to the parcel's bytes is pending. -/
def untouched (s : State) (p : Parcel) : Prop := ∀ x ∈ s.ops, x.space = .glb → ∀ y ∈ x.segs, y.1 + y.2 ≤ p.base ∨ p.base + 2 ^ p.lsz ≤ y.1

end Claims

/-- R331, R332, R335, R336, R339, R341 to R344: the parcel instructions complete: `PCL.NEW` answers 0,
or a handle of a parcel that is `OPEN`, aligned, apart from all others and reads as zero; `PCL.FREE`
frees an `OPEN`, `SEALED` or `RETURNED` one; `SEAL` of a sealed one has no effect, and one whose
release is confirmed leaves the parcel `SEALED`; `POST` of a sealed one answers 1 without a route
and otherwise waits for its outcome and answers it, `POST.NB` does not wait; `ACCEPT` and
`ACCEPT.TRY` take the oldest arrived parcel, or answer 0 (`ACCEPT` waits first), `ACCEPT.BACK` takes
a `RETURNED` one back; `PCL.STAT` answers the header words. A refused handle takes the parcel-handle
trap (26) with its detail, and a parcel in another state the parcel-state trap (27). Where a parcel
lies and the number that it gets are the model's choice, and how `POST` waits is its reading
(assumptions 42 and 55). -/
def Obligations.ParcelInstructionsComplete : Prop :=
  (∀ (s : State) (r l n base charge : Nat), s.newParcel r l = some (n, base, charge) →
    16 ≤ l ∧ l ≤ 34 ∧ 2 ^ l ≤ s.poolFree (s.allot 2 r) ∧ charge = s.allot 2 r ∧ 1 ≤ n ∧ n < 2 ^ 24 ∧ (s.parcel n).st = .free ∧ base % 2 ^ l = 0 ∧ s.heap ≤ base ∧
      base + 2 ^ l ≤ s.heap + s.heapSize ∧ ∀ p ∈ s.parcels, p.st ≠ .free → base + 2 ^ l ≤ p.base ∨ p.base + 2 ^ p.lsz ≤ base) ∧
  ∀ (i : Instr) (o : LOps) (m : SyncMod) (s : State), s.issues i = true →
    let h := s.me.rd2 o.a
    let dst := s.me.rd2 o.c
    let p := Claims.theParcel s h
    (i = .pclNew o m →
      (s.newParcel (s.regionNum s.me) (s.me.rd o.a).toNat = none → CompletesTo i s (s.wr2 o.d 0)) ∧
      (∀ n base charge, s.newParcel (s.regionNum s.me) (s.me.rd o.a).toNat = some (n, base, charge) → ∃ u : State,
        CompletesTo i s (u.wr2 o.d (Claims.handleOf s n (s.parcel n).gen)) ∧
        u.parcel n = { s.parcel n with st := .opened, lsz := (s.me.rd o.a).toNat, region := s.regionNum s.me, base := base, map := [], schip := s.chip.toNat, charge := charge } ∧
        (∀ k, k ≠ n → u.parcel k = s.parcel k) ∧ u.me = s.me ∧
        (s.memoriesWf → ∀ a, readByte u.mem a = if base ≤ a ∧ a < base + 2 ^ (s.me.rd o.a).toNat then 0 else readByte s.mem a))) ∧
    (∀ d, Claims.handleFault s h = some d → (i = .pclFree o m ∨ i = .seal o m ∨ i = .acceptBack o m ∨ (i = .postNb o m ∧ dst.toNat / 2 ^ 32 % 16 = 0)) → exec i s = .next (s.trap 26 0 (BitVec.ofNat 64 d))) ∧
    (Claims.handleFault s h = none →
      (i = .pclFree o m → (p.st = .opened ∨ p.st = .sealed ∨ p.st = .returned → CompletesTo i s (Claims.putParcel s (Claims.freed p))) ∧
        (p.st = .inTransit ∨ p.st = .arrived → exec i s = .next (s.trap 27 0 0))) ∧
      (i = .seal o m →
        (p.st = .sealed → p.sealing = none → CompletesTo i s s) ∧
        (∀ id, p.st = .sealed → p.sealing = some (s.me.uid, some id) → (∀ x ∈ s.ops, x.id ≠ id) → (∀ x ∈ s.holds, x.op.id ≠ id) → CompletesTo i s (Claims.putParcel s { p with sealing := none })) ∧
        (p.st = .opened → Claims.untouched s p → p.map = [] → ∃ u : State, exec i s = .next (u.await .order) ∧ (Claims.theParcel u h).st = .sealed ∧
          ∃ x, u.ops = s.ops ++ [x] ∧ x.uid = s.me.uid ∧ x.kind = .fence ∧ x.ord = .rel ∧ x.scope = .fab) ∧
        (p.st = .inTransit ∨ p.st = .arrived ∨ p.st = .returned → exec i s = .next (s.trap 27 0 0))) ∧
      (i = .postNb o m ∨ (i = .post o m ∧ ∀ x ∈ s.posts, x.uid ≠ s.me.uid) →
        (dst.toNat / 2 ^ 32 % 16 ≠ 0 → exec i s = .next (s.trap 1 0 0)) ∧
        (dst.toNat / 2 ^ 32 % 16 = 0 →
          (p.st = .opened → exec i s = .next (s.trap 26 0 6)) ∧
          (p.st = .sealed → p.sealing = none →
            (i = .postNb o m → CompletesTo i s (Claims.posted s p dst)) ∧
            (i = .post o m → s.routes.contains (dst.toNat / 2 ^ 48) = false → CompletesTo i s ((Claims.posted s p dst).wr o.d 1)) ∧
            (i = .post o m → s.routes.contains (dst.toNat / 2 ^ 48) = true →
              exec i s = .next (({ Claims.posted s p dst with posts := s.posts ++ [{ uid := s.me.uid, num := p.num, status := none }] } : State).await .post))))) ∧
      (i = .acceptBack o m → (p.st = .returned → CompletesTo i s (((Claims.putParcel s { p with st := .sealed }).acquireL1 s.me.core s.me.part 7).wr2 o.d h)) ∧
        (p.st = .opened ∨ p.st = .sealed → exec i s = .next (s.trap 26 0 6)))) ∧
    (i = .post o m → ∀ x v, s.posts.find? (fun y => y.uid = s.me.uid) = some x → x.status = some v →
      CompletesTo i s (({ s with posts := s.posts.filter (fun y => y.uid ≠ s.me.uid) } : State).wr o.d (BitVec.ofNat 32 v))) ∧
    (i = .accept o m ∨ i = .acceptTry o m →
      (Claims.windowIn s o.a = none → CompletesTo i s (s.wr2 o.d 0)) ∧
      (∀ w, Claims.windowIn s o.a = some w → (s.reaches w.region (s.regionNum s.me) = false → CompletesTo i s (s.wr2 o.d 0)) ∧
        (s.reaches w.region (s.regionNum s.me) = true → w.arrivals = [] →
          (i = .acceptTry o m → CompletesTo i s (s.wr2 o.d 0)) ∧
          (i = .accept o m → exec i s = .next (s.awaitWith { kind := .accept, data := [o.d.setWidth 64, BitVec.ofNat 64 i.syllables], limit := s.wdogLimit s.me }))) ∧
        (∀ n l, s.reaches w.region (s.regionNum s.me) = true → w.arrivals = n :: l →
          CompletesTo i s ((({ Claims.putParcel s { s.parcel n with st := .opened, schip := s.chip.toNat } with
            windows := s.windows.map (fun x => if x.num = w.num then { x with arrivals := l } else x) } : State).acquireL1 s.me.core s.me.part 7).wr2 o.d (Claims.handleOf s n (s.parcel n).gen))))) ∧
    (i = .pclStat o m → ∃ v : Nat, CompletesTo i s (s.produce o.d 2 (some [BitVec.ofNat 32 v, BitVec.ofNat 32 (v / 2 ^ 32)])) ∧
      (h.toNat / 2 ^ 48 ≠ s.chip.toNat → v = 2 ^ 64 - 1) ∧
      (h.toNat / 2 ^ 48 = s.chip.toNat →
        (m.sub = 0 → v = (match p.st with | .free => 0 | .opened => 1 | .sealed => 2 | .inTransit => 3 | .arrived => 4 | .returned => 5) + 2 ^ 8 * p.dwin + 2 ^ 32 * p.lsz + 2 ^ 40 * p.gen) ∧
        (m.sub = 1 → v = p.schip + 2 ^ 16 * p.dchip + 2 ^ 32 * p.key.toNat) ∧
        (2 ≤ m.sub.toNat → v = if p.st = .opened ∨ p.st = .sealed then p.map.length else 0)))

namespace Claims

/-- R348: a remote operation: its kind, ordering, and the registers of its destination. -/
def remote (s : State) : Instr → Option (LOps × RmaOp × Ord × Nat)
  | .rmaWr o _ => some (o, .wr, .rlx, 0)
  | .rmaWri o _ => some (o, .wri, .rel, 0)
  | .rmaRd o m => some (o, .rd m.ty.bytes, .rlx, m.ty.regs)
  | .rmaRdBlk o _ => some (o, .rdBlk, .rlx, 0)
  | .rmaAtom o m => some (o, .atom m.sub.toNat m.ty (typed s m.ty o.c), m.ord, m.ty.regs)
  | _ => none
/-- R346: the fields of an operation block of 32 bytes. -/
def blockField (n : Nat) (hi lo : Nat) : Nat := n / 2 ^ lo % 2 ^ (hi - lo + 1)
/-- R349: the values of a window descriptor that it checks first. -/
def descriptorGood (n : Nat) : Prop :=
  let q := blockField n 263 260
  let size := blockField n 127 64
  (q = 0 ∨ (4 ≤ q ∧ blockField n 255 192 % 64 = 0)) ∧ size % 4096 = 0 ∧ 4096 ≤ size ∧ size ≤ 64 * 2 ^ 30 ∧ blockField n 63 0 % 4096 = 0

end Claims

/-- R340, R345 to R353: `ST.PREF` of an offset below 2^48 joins the pending accesses as a store of a
marked reference, and of another takes the reference trap (28, detail 4); `LD.PREF` of a marked word
whose offset lies in the body completes with the offset, and of another takes the reference trap (2
or 3). `RMA.WR`, `RMA.WRI`, `RMA.RD`, `RMA.RD.BLK` and `RMA.ATOM` complete at issue: STATUS in the
block is 1, the operation is on its way with the block's fields, the destination is empty, and a
fence at `.FAB` makes its release, another its acquire. `RMA.REG` answers 0x80000001 for a bad
descriptor, 0x80000002 for a full table, 0x80000004 for a region out of reach, and otherwise, where
its pages translate, the number of the new window; `RMA.DEREG` answers 0 or 1. `NOTE.WAIT` and
`NOTE.TRY` take the oldest notification, or answer 0 (`NOTE.WAIT` waits first). Where these stand in
the thread's order, the order of `RMA.REG`'s checks and the place of the notifications are the
model's reading (assumptions 43, 56 and 57). -/
def Obligations.RemoteMemoryInstructionsComplete : Prop :=
  (∀ (o : LOps) (m : MemMod) (s : State), 
    let a := Claims.effective s .par o
    (s.issues (.stPref o m) = true →
      (2 ^ 48 ≤ (s.me.rd2 o.c).toNat → exec (.stPref o m) s = .next (s.trap 28 a 4)) ∧
      ((s.me.rd2 o.c).toNat < 2 ^ 48 → ∀ sp segs t, s.locate .par (s.me.rd2 o.a) a 8 true .write false = .ok ({ space := sp, segs := segs }, t) →
        CompletesTo (.stPref o m) s (Claims.counted (Claims.pend t (.store true) sp segs ((natBytes 8 (2 ^ 63 + (s.me.rd2 o.c).toNat)).map some) m.scope m.ord m.evict.toNat none)))) ∧
    (s.issues (.ldPref o m) = true → ∀ pa t, s.locate .par (s.me.rd2 o.a) a 8 true .read true = .ok ({ space := .glb, segs := [(pa, 8)] }, t) →
      (∀ x ∈ t.ops, x.uid ≠ t.me.uid) →
      let x : MemOp := { id := t.fresh, uid := t.me.uid, core := t.me.core, part := t.me.part, pc := t.me.pc, psn := t.me.psn, kind := .load false, space := .glb, segs := [(pa, 8)], data := [],
                         scope := m.scope, ord := m.ord, evict := m.evict.toNat, tag := none, issued := t.cycle }
      ∀ u, t.admits x = some u →
        let v := bytesNat (u.readSeg x pa 8).1
        let p := Claims.theParcel t (s.me.rd2 o.a)
        let marked := p.map.contains ((pa - p.base) / 8)
        let body := 2 ^ p.lsz - 2 ^ p.lsz / 64
        (marked = true → v / 2 ^ 48 = 2 ^ 15 → 64 ≤ v % 2 ^ 48 → v % 2 ^ 48 < body → ∃ w : State, exec (.ldPref o m) s =
          .next ((Claims.counted (w.produce o.d 2 (some [BitVec.ofNat 32 (v % 2 ^ 48), BitVec.ofNat 32 (v % 2 ^ 48 / 2 ^ 32)]))).advanceBy (Instr.ldPref o m).syllables) ∧ Claims.sameButMemory s w) ∧
        (marked = false ∨ v / 2 ^ 48 ≠ 2 ^ 15 → exec (.ldPref o m) s = .next ((u.readSeg x pa 8).2.trap 28 a 2)) ∧
        (marked = true → v / 2 ^ 48 = 2 ^ 15 → v % 2 ^ 48 < 64 ∨ body ≤ v % 2 ^ 48 → exec (.ldPref o m) s = .next ((u.readSeg x pa 8).2.trap 28 a 3)))) ∧
  (∀ (i : Instr) (s t : State) (o : LOps) (op : RmaOp) (ord : Ord) (k : Nat) (pa : Nat), s.issues i = true → Claims.remote s i = some (o, op, ord, k) →
    let a := Claims.effective s .glb o
    (a.toNat % 32 ≠ 0 → exec i s = .next (s.trap 12 a 0)) ∧
    (a.toNat % 32 = 0 → s.busy = false → t.lineHeld (pa / 64) = false → s.locate .glb 0 a 32 true .write true = .ok ({ space := .glb, segs := [(pa, 32)] }, t) →
      ∃ (u : State) (bs : List Byte) (r : Remote), exec i s = .next u ∧ bs = (t.l2ReadBytes t.me.core t.me.part pa 32 t.myCause).1 ∧ u.remotes = s.remotes ++ [r] ∧
        (let n := bytesNat bs
         r.uid = s.me.uid ∧ r.op = op ∧ r.ord = ord ∧ r.status = pa + 16 ∧ r.chip = Claims.blockField n 127 112 ∧ r.win = Claims.blockField n 111 100 ∧ r.off = Claims.blockField n 99 64 ∧
         r.key.toNat = Claims.blockField n 223 192 ∧ r.len = Claims.blockField n 191 160 ∧ r.laddr.toNat = Claims.blockField n 63 0 ∧ r.imm.toNat = Claims.blockField n 255 224 ∧ r.st = .queued) ∧
        (s.memoriesWf → readNat u.mem (pa + 16) 4 = 1) ∧ u.me.pc = nextStart s.me.pc i.syllables ∧ u.me.run = .ready ∧ u.me.psn = s.me.psn + 1 ∧
        (∀ q : Reg, (k = 0 ∨ o.d.toNat + k ≤ 256 ∧ (q.toNat < o.d.toNat ∨ o.d.toNat + k ≤ q.toNat)) → u.me.rd q = s.me.rd q ∧ u.me.full q = s.me.full q) ∧
        (∀ q : Reg, o.d ≠ 0 → o.d.toNat ≤ q.toNat → q.toNat < o.d.toNat + k → o.d.toNat + k ≤ 256 → u.me.full q = false ∧ u.me.pending q = true) ∧
        ∃ l, u.ops = s.ops ++ l ∧ l.map (fun x => (x.kind, x.ord, x.scope, x.tag)) =
          (if ord = .rel ∨ ord = .ar then [(.fence, .rel, .fab, some r.id)] else []) ++ (if ord = .acq ∨ ord = .ar then [(.fence, .acq, .fab, some r.id)] else []))) ∧
  (∀ (o : LOps) (m : SyncMod) (s : State), s.issues (.rmaReg o m) = true →
    let i : Instr := .rmaReg o m
    let a := Claims.effective s .glb o
    (a.toNat % 64 ≠ 0 → exec i s = .next (s.trap 12 a 0)) ∧
    (a.toNat % 64 = 0 → s.busy = false → ∀ (bs : List Byte) (t : State), s.readRuns a 1 [] = .ok (bs, t) →
      let n := bytesNat bs
      let num := if Claims.blockField n 159 128 = 0 then t.regionNum t.me else Claims.blockField n 159 128
      (¬ Claims.descriptorGood n → CompletesTo i s (t.wr o.d 0x80000001)) ∧
      (Claims.descriptorGood n → 4096 ≤ t.windows.length → CompletesTo i s (t.wr o.d 0x80000002)) ∧
      (Claims.descriptorGood n → t.windows.length < 4096 → ¬ Claims.reached t num → CompletesTo i s (t.wr o.d 0x80000004)) ∧
      (Claims.descriptorGood n → t.windows.length < 4096 → Claims.reached t num → ∀ r, t.region? num = some r →
        let q := Claims.blockField n 263 260
        let first := Claims.blockField n 255 192 / 4096
        let pages := if q = 0 then 0 else (Claims.blockField n 255 192 + 8 * 2 ^ q - 1) / 4096 - first + 1
        ∀ (u v : State) (fs qs : List Nat), t.pinPages r (if n.testBit 257 || n.testBit 258 then .write else .read) (BitVec.ofNat 64 (Claims.blockField n 63 0)) (Claims.blockField n 127 64 / 4096) [] = (.ok fs, u) →
          u.pinPages r .write (BitVec.ofNat 64 (first * 4096)) pages [] = (.ok qs, v) →
          CompletesTo i s (({ v with windows := v.windows ++ [
            { num := v.freeWindow, region := num, base := Claims.blockField n 63 0, size := Claims.blockField n 127 64, key := BitVec.ofNat 32 (Claims.blockField n 191 160),
              rights := BitVec.ofNat 4 (Claims.blockField n 259 256), nq := Claims.blockField n 255 192, nqlog2 := q, asid := r.asid, frames := fs, qframes := qs,
              broken := false, arrivals := [], head := 0, count := 0 }] } : State).wr
              o.d (BitVec.ofNat 32 v.freeWindow))))) ∧
  (∀ (i : Instr) (o : LOps) (m : SyncMod) (s : State), s.issues i = true →
    (i = .rmaDereg o m →
      (Claims.windowIn s o.a = none → CompletesTo i s (s.wr o.d 1)) ∧
      (∀ w, Claims.windowIn s o.a = some w → (s.sees w = false → CompletesTo i s (s.wr o.d 1)) ∧
        (s.sees w = true → ∃ u : State, CompletesTo i s (u.wr o.d 0) ∧ u.windows = s.windows.filter (fun x => x.num != w.num) ∧ u.mem = s.mem ∧
          (∀ n ∈ w.arrivals, (u.parcel n).st = .free) ∧ ∀ n, n ∉ w.arrivals → u.parcel n = s.parcel n))) ∧
    (i = .noteWait o m ∨ i = .noteTry o m →
      (Claims.windowIn s o.a = none → CompletesTo i s (s.wr2 o.d 0)) ∧
      (∀ w, Claims.windowIn s o.a = some w → (w.region ≠ s.regionNum s.me → CompletesTo i s (s.wr2 o.d 0)) ∧
        (w.region = s.regionNum s.me → w.count = 0 →
          (i = .noteTry o m → CompletesTo i s (s.wr2 o.d 0)) ∧
          (i = .noteWait o m → exec i s = .next (s.awaitWith { kind := .note, data := [o.d.setWidth 64, BitVec.ofNat 64 i.syllables], limit := s.wdogLimit s.me }))) ∧
        (w.region = s.regionNum s.me → 0 < w.count → s.lineHeld (w.entryAt w.head / 64) = false → s.inError (w.entryAt w.head) 8 = false → ∃ u : State, CompletesTo i s (u.wr2 o.d (BitVec.ofNat 64 (readNat s.mem (w.entryAt w.head) 8))) ∧ u.me = s.me ∧ u.mem = s.mem ∧
          u.windows = s.windows.map (fun x => if x.num = w.num then { x with head := (x.head + 1) % 2 ^ x.nqlog2, count := x.count - 1 } else x)))))

/-- R354, R355, R357 to R360, R10: `COLL` completes at issue: STATUS in the block is 1 and the round is
in progress with the block's fields; where the block cannot be reached it has no effect. `COLL.WAIT`
empties its destination, which fills once STATUS has left 1. `TIME.RD` answers a time at which it
executes; `TRIG.AT` arms the thread's trigger; `WAIT.UNTIL` goes on once its tick has come; `HOPS`
answers the length of the route between two virtual dies where one that R10 gives is in service
(else 0, 1 or 2, a free value: log entry 61), or 0xFFFFFFFF. How time passes is the model's choice,
and the round whose block cannot be reached, and the free value where no route is left, are its
reading (assumptions 30, 58 and 61). -/
def Obligations.RoundsAndTimeInstructionsComplete : Prop :=
  (∀ (o : LOps) (m : SyncMod) (s : State), s.issues (.coll o m) = true →
    let i : Instr := .coll o m
    let a := Claims.effective s .glb o
    (a.toNat % 64 ≠ 0 → exec i s = .next (s.trap 12 a 0)) ∧
    (∀ t, a.toNat % 64 = 0 → s.busy = false → s.rangeOf s.me.core s.me.uid .write a 64 = (.fault, t) → CompletesTo i s (t.upd (fun x => { x with asks := none }))) ∧
    (∀ runs t, a.toNat % 64 = 0 → s.busy = false → s.rangeOf s.me.core s.me.uid .write a 64 = (.ok runs, t) →
      let n := bytesNat (t.readRange t.me.core t.me.uid t.me.pc runs).1
      let u := (t.readRange t.me.core t.me.uid t.me.pc runs).2
      (∀ id v, u.readTeam (BitVec.ofNat 64 (Claims.blockField n 383 320)) ≠ .park id v) →
      (∀ v, u.readTeam (BitVec.ofNat 64 (Claims.blockField n 383 320)) ≠ .held v) →
      ∃ (z : State) (c : Coll), exec i s = .next z ∧ z.colls = s.colls ++ [c] ∧ z.me.pc = nextStart s.me.pc i.syllables ∧ z.me.run = .ready ∧ z.me.regs = s.me.regs ∧ z.me.fe = s.me.fe ∧ z.me.trig = none ∧
        c.uid = s.me.uid ∧ c.status = (runs.headD (0, 0)).1 ∧ c.trig = s.me.trig.map (fun x => { x with late := decide (x.tick < s.time) }) ∧ c.count = Claims.blockField n 319 288 ∧ c.seq = Claims.blockField n 287 256 ∧ c.root = Claims.blockField n 255 240 ∧
        c.rank = Claims.blockField n 239 224 ∧ c.dt = Claims.blockField n 211 208 ∧ c.red = Claims.blockField n 207 204 ∧ c.op = Claims.blockField n 203 200 ∧
        c.send.toNat = Claims.blockField n 447 384 ∧ c.recv.toNat = Claims.blockField n 511 448 ∧ (s.memoriesWf → readNat z.mem (runs.headD (0, 0)).1 4 = 1))) ∧
  (∀ (o : LOps) (m : SyncMod) (s : State), s.issues (.collWait o m) = true → ∀ pa t, (Claims.effective s .glb o).toNat % 64 = 0 →
    s.locate .glb 0 (Claims.effective s .glb o) 4 true .read false = .ok ({ space := .glb, segs := [(pa, 4)] }, t) →
    CompletesTo (.collWait o m) s { t.produce o.d 1 none with lates := t.lates ++ [{ uid := t.me.uid, pc := t.me.pc, tag := t.fresh, core := t.me.core, g := t.me.gkey, after := 0, kind := .collWait pa }] }) ∧
  (∀ (s : State) (l : Late) (pa : Nat), l.kind = .collWait pa → s.lateValue l = if readNat s.mem pa 4 = 1 then none else some [BitVec.ofNat 32 (readNat s.mem pa 4)]) ∧
  (∀ (i : Instr) (o : LOps) (m : SyncMod) (s : State), s.issues i = true →
    (i = .timeRd o m → ∃ t : State, s.time ≤ t.time ∧ t.me = { s.me with handler := t.me.handler, run := t.me.run } ∧
      CompletesTo i s (t.produce o.d 2 (some [BitVec.ofNat 32 t.time, BitVec.ofNat 32 (t.time % 2 ^ 64 / 2 ^ 32)]))) ∧
    (i = .trigAt o m → ∀ pa t, s.locate .glb 0 (Claims.effective s .glb o) 8 true .write false = .ok ({ space := .glb, segs := [(pa, 8)] }, t) →
      CompletesTo i s (t.upd (fun x => { x with trig := some { pa := pa, tick := (s.me.rd2 o.c).toNat, va := Claims.effective s .glb o } }))) ∧
    (i = .waitUntil o m →
      ((s.me.rd2 o.a).toNat ≤ s.time → CompletesTo i s s) ∧ (s.time < (s.me.rd2 o.a).toNat → exec i s = .next (s.awaitWith { kind := .time, obj := s.me.rd2 o.a }))) ∧
    (i = .hops o m → ∀ r, s.regionOf s.me = some r →
      let ok (a b : Nat) : Prop := (∃ x, s.die? a = some x ∧ x.enabled = true) ∧ (∃ x, s.die? b = some x ∧ x.enabled = true) ∧ (a, b) ∉ s.eaves ∧ (b, a) ∉ s.eaves
      ((r.vdt[(s.me.rd o.a).toNat]? = none ∨ r.vdt[(s.me.rd o.c).toNat]? = none) → CompletesTo i s (s.wr o.d 0xFFFFFFFF)) ∧
      (∀ a b, r.vdt[(s.me.rd o.a).toNat]? = some a → r.vdt[(s.me.rd o.c).toNat]? = some b → a < 4 → b < 4 → ∃ n : Word, CompletesTo i s ({ s with fresh := s.fresh + 1 }.wr o.d n) ∧
        (a = b → n = 0) ∧ (a ≠ b → a ^^^ b ≠ 3 → ok a b → n = 1) ∧ (a ^^^ b = 3 → (∃ c < 4, ok a c ∧ ok c b ∧ a ^^^ c ≠ 3 ∧ c ≠ a ∧ c ≠ b) → n = 2) ∧ n.toNat ≤ 2)))

/-! ### System instructions (R367 to R387) -/

namespace Claims

/-- R376: an operand names an enabled die. -/
def dieNamed (s : State) (w : Word) (d : Nat) : Prop := d = w.toNat ∧ w.toNat < 4 ∧ ∃ x, s.die? w.toNat = some x ∧ x.enabled = true
/-- R373: a thread of region `r` on die `d` that has not exited. -/
def onDie (s : State) (r d : Nat) (t : Thread) : Bool := t.die == d && s.regionNum t == r && t.run != .exited
/-- The threads and the record of region `r` on die `d` change. -/
def debugged (s : State) (r d : Nat) (f : Thread → Thread) (g : Debug → Debug) : State :=
  { s with me := if onDie s r d s.me then f s.me else s.me, others := s.others.map (fun t => if onDie s r d t then f t else t),
           regions := s.regions.map (fun x => if x.num = r then { x with dbg := g (x.debugOn d) :: x.dbg.filter (fun y => y.die ≠ d) } else x) }
/-- R382: the value that a debugger instruction writes and the state it leaves, for a region `x` it reaches and an enabled die. -/
def debugger (s : State) (x : Region) (d : Nat) (o : LOps) (m : CtlMod) (i : Instr) : Option (Nat × State) :=
  let b := x.debugOn d
  if i = .dbgHalt o m then
    some ((s.threads.filter (onDie s x.num d)).length, if b.halted then s else debugged s x.num d (fun t => { t with halted := true }) (fun y => { y with halted := true, brk := none }))
  else if i = .dbgHaltArm o m then some (0, debugged s x.num d id (fun y => { y with armed := true }))
  else if i = .dbgHaltDisarm o m then some (0, debugged s x.num d id (fun y => { y with armed := false }))
  else if i = .dbgHaltQry o m then
    some ((if b.halted then 1 else 0) + (if b.armed then 2 else 0) + (match b.brk with | some l => 4 + 2 ^ 16 * l | none => 0), s)
  else if i = .dbgResume o m then
    some (if b.halted then ((s.threads.filter (fun t => onDie s x.num d t && t.halted)).length, debugged s x.num d (fun t => { t with halted := false, stepping := false }) (fun y => { y with halted := false, brk := none }))
          else (0, s))
  else none
/-- R372: a core within the scope of an invalidation. -/
def inScope (m : CtlMod) (me c : Nat) : Prop := if m.sel = 2 then c = me else if m.sel = 3 then c / 4 = me / 4 else if m.sel = 4 then c / 64 = me / 64 else True
/-- R372: an entry that an invalidation of a space, or of the range in it, removes. -/
def hit (asid : Word) (range : Option (Nat × Nat)) (e : Tlb) : Prop :=
  e.asid = asid ∧ ∀ b n, range = some (b, n) → b < e.va * 2 ^ e.log + 2 ^ e.log ∧ e.va * 2 ^ e.log < b + n
/-- A thread but for its reservation, the lines that its writes stand in, and whether its trigger's word is translated again. -/
def calm (t : Thread) : Thread := { t with resv := none, wrote := [], trig := t.trig.map (fun x => { x with again := false }) }
/-- R372: what the completion of an invalidation leaves. -/
def invalidated (s u : State) (m : CtlMod) (asid : Word) (range : Option (Nat × Nat)) : Prop :=
  (∀ c ∈ u.cores, inScope m s.me.core c.id → ∀ e ∈ c.tlb ++ c.walkTlb, ¬ hit asid range e) ∧
  (∀ d ∈ u.dies, (∃ c ∈ s.cores, inScope m s.me.core c.id ∧ c.id / 64 = d.id) → ∀ e ∈ d.tlb, ¬ hit asid range e) ∧
  (∀ c ∈ u.cores, ¬ inScope m s.me.core c.id → ∃ y ∈ s.cores, y.id = c.id ∧ y.tlb = c.tlb ∧ y.walkTlb = c.walkTlb) ∧
  (∀ w ∈ u.windows, w.asid = asid → (∀ b n, range = some (b, n) → b < w.base + w.size ∧ w.base < b + n) → w.broken = true) ∧
  calm u.me = calm s.me ∧ u.others.map calm = s.others.map calm ∧ u.regions = s.regions
/-- R190, R230, R372: nothing that the invalidation waits for is under way, and no line that it would write back is held. -/
def settled (s : State) (m : CtlMod) (asid : Word) (range : Option (Nat × Nat)) : Prop :=
  (∀ x ∈ s.ops, x.uid = s.me.uid → x.space = .glb → x.evict ≠ 7 ∧ (x.scope = .th ∨ x.scope = .grp ∨ x.scope = .core)) ∧
  (∀ c ∈ s.cores, inScope m s.me.core c.id → ∀ l ∈ c.l1, l.dirty ≠ 0 → s.lineHeld l.line = false) ∧
  (∀ e,
    ((∃ c ∈ s.cores, inScope m s.me.core c.id ∧ e ∈ c.tlb ++ c.walkTlb) ∨ ∃ d ∈ s.dies, (∃ c ∈ s.cores, inScope m s.me.core c.id ∧ c.id / 64 = d.id) ∧ e ∈ d.tlb) →
    hit asid range e →
      let clear (core a n : Nat) : Prop := inScope m s.me.core core → ¬ (a < e.pa + 2 ^ e.log ∧ e.pa < a + n)
      (∀ x ∈ s.ops, x.space = .glb → ∀ y ∈ x.segs, clear x.core y.1 y.2) ∧ (∀ r ∈ s.remotes, clear r.core r.status 4) ∧ (∀ c ∈ s.colls, clear c.core c.status 4) ∧
      (∀ l ∈ s.lates, ∀ pa, l.kind = .collWait pa → clear l.core pa 4) ∧ (∀ w ∈ s.devWrites, w.space = none → w.uid.isSome = true → clear w.core w.va.toNat 4))

/-- R384: the value of a selector for an argument: the unit that the argument names, or all ones for a bad one. -/
def envelope (s : State) (sel : Nat) (w : Word) : Nat :=
  let ones := 2 ^ 64 - 1
  if sel = 2 then
    if 256 ≤ w.toNat then ones else (match (s.core? w.toNat).bind (·.cls) with | some y => y.code | none => 4)
  else if sel = 8 then
    (if w.toNat < 4 then (match s.die? w.toNat with | some d => if d.enabled then d.fw.toNat else ones | none => ones) else ones)
  else if w ≠ 0 then ones
  else if sel = 0 then s.chip.toNat
  else if sel = 1 then (((s.dies.filter (·.enabled)).map (·.id)).dedup.map (fun d => 2 ^ d)).sum
  else if sel = 3 then s.envPow
  else if sel = 4 then s.envInj
  else if sel = 5 then s.graceOf (s.regionNum s.me)
  else if sel = 6 then s.heapSize
  else s.saveSize

/-- R375: the table in a word: entries, the dies in order, zeros elsewhere, all of them enabled and different. -/
def tableOk (s : State) (w : Nat) : Prop :=
  1 ≤ w % 8 ∧ w % 8 ≤ 4 ∧ w / 8 % 32 = 0 ∧ w / 2 ^ 16 % 2 ^ 48 = 0 ∧ (∀ v, w % 8 ≤ v → v < 4 → w / 2 ^ (8 + 2 * v) % 4 = 0) ∧
  (∀ v, v < w % 8 → ∃ d, s.die? (w / 2 ^ (8 + 2 * v) % 4) = some d ∧ d.enabled = true) ∧
  ∀ v x, v < x → x < w % 8 → w / 2 ^ (8 + 2 * v) % 4 ≠ w / 2 ^ (8 + 2 * x) % 4

end Claims

/-- R367 to R371, R379, R381: `PREEMPT.DONE` outside a handler entered by cause 31 takes the
illegal-instruction trap with detail 1. In it, when the resume address passes the target check and
no earlier access is left, the thread waits, done, for the save of its gang; where no pre-emption is
in progress, it goes on at the resume address with its general registers zero and full. `CTX.SAVE`
and `CTX.SAVE.NOW` complete with 0xFFFFFFFF for a region that is unreachable and 0xFFFFFFFE for the
thread's own or an ancestor of it, with no other effect; with no gang of the region resident they
complete with 0 and the region and its descendants held; a wait for gangs completes, when none of
them is resident, with the number of them that are saved. `CTX.LOAD` completes with 1, 8 or 0, and
lifts the hold. What a save waits for and keeps is the model's reading (assumption 63). -/
def Obligations.SaveInstructionsComplete : Prop :=
  (∀ (o : LOps) (m : CtlMod) (s : State), s.issues (.preemptDone o m) = true →
    ((∀ h, s.me.handler = some h → h.cause ≠ 31) → exec (.preemptDone o m) s = .next (s.trap 1 0 1)) ∧
    (∀ h, s.me.handler = some h → h.cause = 31 → let a := if s.me.rd2 o.a = 0 then s.handlerEntry else s.me.rd2 o.a
      ∀ u, s.checkTarget a true = (.ok, u) → (∀ x ∈ u.ops, x.uid ≠ u.me.uid) →
        ((∃ g, u.gang? u.me.gang = some g ∧ ∃ t f, g.res = .preempting t f) →
          exec (.preemptDone o m) s = .next { u with me := { u.me with resume := some a, run := .waiting { kind := .preempted, since := u.time } } }) ∧
        ((∀ g, u.gang? u.me.gang = some g → ∀ t f, g.res ≠ .preempting t f) → ∃ t : Thread, exec (.preemptDone o m) s = .next { u with me := t } ∧
          t.pc = a ∧ t.run = .ready ∧ (∀ r, t.rd r = 0 ∧ t.full r = true) ∧ t.handler = u.me.handler ∧ t.preds = u.me.preds ∧ t.ord = u.me.ord ∧ t.fcr = u.me.fcr ∧ t.fsr = u.me.fsr ∧
          t.stk = u.me.stk ∧ t.trapf = u.me.trapf))) ∧
  (∀ (i : Instr) (o : LOps) (m : CtlMod) (s : State), s.issues i = true → (i = .ctxSave o m ∨ i = .ctxSaveNow o m) →
    let r := Claims.named s o
    (s.region? r = none → CompletesTo i s (s.wr o.d 0xFFFFFFFF)) ∧
    (∀ x, s.region? r = some x → s.reaches r (s.regionNum s.me) = true → CompletesTo i s (s.wr o.d 0xFFFFFFFE)) ∧
    (∀ x, s.region? r = some x → s.reaches r (s.regionNum s.me) = false → s.reaches (s.regionNum s.me) r = false → CompletesTo i s (s.wr o.d 0xFFFFFFFF)) ∧
    (Claims.reached s r → s.reaches r (s.regionNum s.me) = false → (∀ g ∈ s.gangs, s.reaches r g.region = true → g.res = .saved) →
      ((∀ w, s.me.run = .waiting w → w.kind ≠ .system) →
        CompletesTo i s (({ s with regions := s.regions.map (fun x => if s.reaches r x.num then { x with hold := true } else x) } : State).wr o.d 0)) ∧
      (∀ w, s.me.run = .waiting w → w.kind = .system →
        CompletesTo i s (s.wr o.d (BitVec.ofNat 32 (w.data.filter (fun x => (s.gang? x.toNat).any (fun g => g.res == .saved))).length))))) ∧
  (∀ (o : LOps) (m : CtlMod) (s : State), s.issues (.ctxLoad o m) = true → let r := Claims.named s o
    (¬ Claims.reached s r → CompletesTo (.ctxLoad o m) s (s.wr o.d 1)) ∧
    (Claims.reached s r → r = s.regionNum s.me → CompletesTo (.ctxLoad o m) s (s.wr o.d 8)) ∧
    (Claims.reached s r → r ≠ s.regionNum s.me →
      CompletesTo (.ctxLoad o m) s (({ s with regions := s.regions.map (fun x => if s.reaches r x.num then { x with hold := false } else x) } : State).wr o.d 0)))

/-- R372 to R374, R380, R382: `INV.RANGE` of a bad range completes with status 4 and no other effect;
otherwise it and `INV.ASID`, once nothing that they wait for is under way, complete with 0, and then
no buffer within the scope holds an entry of the space, or of the range, the windows that pinned one
are broken, and the buffers of cores outside the scope, and the threads but for reservations, the
lines of their writes and armed triggers, are as before. `DBG.HALT`, its `.ARM`, `.DISARM` and `.QRY` forms and `DBG.RESUME` complete with 0xFFFFFFFD
for a bad die, with 0xFFFFFFFF for an unreachable region, and otherwise with R382's value and
effect. `DBG.STEP` completes with 1 for no thread and 2 for one that is not halted; otherwise the
stepped threads may issue, and it completes with 0 when they have stepped. When an invalidation
takes effect, and how a step of the debugger runs, are the model's reading (assumptions 44 and 65). -/
def Obligations.InvalidateAndDebugComplete : Prop :=
  (∀ (o : LOps) (m : CtlMod) (s : State), s.issues (.invRange o m) = true → let b := (s.me.rd2 o.a).toNat; let n := (s.me.rd2 o.b).toNat
    let bad := b % 4096 ≠ 0 ∨ n = 0 ∨ n % 4096 ≠ 0 ∨ 2 ^ 64 < b + n
    (bad → CompletesTo (.invRange o m) s (s.wr o.d 4)) ∧
    (¬ bad → Claims.settled s m (s.me.rd o.c) (some (b, n)) → ∃ u : State, CompletesTo (.invRange o m) s (u.wr o.d 0) ∧ Claims.invalidated s u m (s.me.rd o.c) (some (b, n)))) ∧
  (∀ (o : LOps) (m : CtlMod) (s : State), s.issues (.invAsid o m) = true → Claims.settled s m (s.me.rd o.a) none →
    ∃ u : State, CompletesTo (.invAsid o m) s (u.wr o.d 0) ∧ Claims.invalidated s u m (s.me.rd o.a) none) ∧
  (∀ (i : Instr) (o : LOps) (m : CtlMod) (s : State), s.issues i = true → (i = .dbgHalt o m ∨ i = .dbgHaltArm o m ∨ i = .dbgHaltDisarm o m ∨ i = .dbgHaltQry o m ∨ i = .dbgResume o m) →
    let r := Claims.named s o
    ((∀ d, ¬ Claims.dieNamed s (s.me.rd o.a) d) → CompletesTo i s (s.wr o.d 0xFFFFFFFD)) ∧
    (∀ d, Claims.dieNamed s (s.me.rd o.a) d →
      (¬ Claims.reached s r → CompletesTo i s (s.wr o.d 0xFFFFFFFF)) ∧
      (Claims.reached s r → ∀ x, s.region? r = some x → ∀ v t, Claims.debugger s x d o m i = some (v, t) → CompletesTo i s (t.wr o.d (BitVec.ofNat 32 v))))) ∧
  (∀ (i : Instr) (o : LOps) (m : CtlMod) (s : State), s.issues i = true → i = .dbgStep o m →
    let l := (s.me.rd o.a).toNat
    ((∀ w, s.me.run = .waiting w → w.kind ≠ .step) →
      (2 ^ 16 ≤ l ∨ (∀ t ∈ s.threads, t.lane + 64 * t.part + 256 * (t.core % 64) + 2 ^ 14 * t.die ≠ l) → CompletesTo i s (s.wr o.d 1)) ∧
      (∀ t, s.located (s.me.rd o.a) = some t → (t.halted = false → CompletesTo i s (s.wr o.d 2)) ∧
        (t.halted = true → m.sub = 0 → (∃ w, t.run = .parked w) → CompletesTo i s (s.wr o.d 0)) ∧
        (t.halted = true → m.sub = 0 → (∀ w, t.run ≠ .parked w) → t.run ≠ .exited → ∃ u : State, exec i s = .next u ∧ ∃ w, u.me.run = .waiting w ∧ w.kind = .step ∧ w.data = [] ∧
          ∃ x ∈ u.threads, x.uid = t.uid ∧ x.stepping = true))) ∧
    (∀ w, s.me.run = .waiting w → w.kind = .step → w.data = [] → (∀ t ∈ s.threads, t.gkey = s.gkeyOf w.obj.toNat → t.stepping = false) → CompletesTo i s (s.wr o.d 0)))

/-- R375, R383 to R387: `VDT.LD` of a table that is not a multiple of 8 takes the alignment trap (12), and otherwise completes with the first status of R383, or with 0 and the region's new table. `ENV.RD` completes with the value of its selector,
`LOG.RD` with the oldest record of the region's log, which leaves it, and bit 31 of its last word set, or with zeros, and `MCHK.RD` with the die's summary, which `.CLR` then clears, or all ones for a bad die. `SYS.IDLE` completes with the doorbells that are rung and clears
them; with none rung it waits. That `VDT.LD` reads its table in the executing thread's space, once the thread's own accesses have performed, is the model's reading (assumption 51). -/
def Obligations.TableAndReadInstructionsComplete : Prop :=
  (∀ (o : LOps) (m : CtlMod) (s : State), s.issues (.vdtLd o m) = true →
    let i : Instr := .vdtLd o m
    let a := s.me.rd2 o.a
    let r := Claims.named s o
    (a.toNat % 8 ≠ 0 → exec i s = .next (s.trap 12 a 0)) ∧
    (a.toNat % 8 = 0 → ¬ Claims.reached s r → CompletesTo i s (s.wr o.d 1)) ∧
    (a.toNat % 8 = 0 → Claims.reached s r → s.busy = false → ∀ (bs : List Byte) (t : State) (x : Region), s.readRuns (BitVec.ofNat 64 (a.toNat / 64 * 64)) 1 [] = .ok (bs, t) → s.region? r = some x →
      let w := bytesNat ((bs.drop (a.toNat % 64)).take 8)
      let dies := (List.range (w % 8)).map (fun v => w / 2 ^ (8 + 2 * v) % 4)
      (¬ Claims.tableOk t w → CompletesTo i s (t.wr o.d 4)) ∧
      (Claims.tableOk t w → (∃ g ∈ t.gangs, g.region = r ∧ g.die ∉ dies) → CompletesTo i s (t.wr o.d 2)) ∧
      (Claims.tableOk t w → (∀ g ∈ t.gangs, g.region = r → g.die ∈ dies) →
        (t.newCarves x dies = none → CompletesTo i s (t.wr o.d 6)) ∧
        (∀ runs, t.newCarves x dies = some runs → ∃ u : State, CompletesTo i s (u.wr o.d 0) ∧ (∀ y ∈ t.regions, y.num = r → { y with vdt := dies, tdwoff := runs } ∈ u.regions) ∧
          (∀ k, k ≠ r → u.region? k = t.region? k) ∧ u.gangs = t.gangs)))) ∧
  (∀ (o : LOps) (m : CtlMod) (s : State), s.issues (.envRd o m) = true → CompletesTo (.envRd o m) s (s.wrNat o.d 2 (Claims.envelope s m.sel.toNat (s.me.rd o.a)))) ∧
  (∀ (o : LOps) (m : CtlMod) (s : State) (r : Region), s.issues (.logRd o m) = true → s.regionOf s.me = some r →
    (r.logn = 0 ∨ r.log = [] → CompletesTo (.logRd o m) s (s.wrNat o.d 4 0)) ∧
    (∀ x l, r.logn ≠ 0 → r.log = x :: l →
      CompletesTo (.logRd o m) s (({ s with regions := s.regions.map (fun y => if y.num = r.num then { y with log := l } else y) } : State).wrNat o.d 4 (x ||| 2 ^ 127)))) ∧
  (∀ (o : LOps) (m : CtlMod) (s : State), s.issues (.mchkRd o m) = true →
    ((∀ d, ¬ Claims.dieNamed s (s.me.rd o.a) d) → CompletesTo (.mchkRd o m) s (s.wrNat o.d 2 (2 ^ 64 - 1))) ∧
    (∀ d x, Claims.dieNamed s (s.me.rd o.a) d → s.die? d = some x →
      CompletesTo (.mchkRd o m) s ((if m.sub = 1 then { s with dies := s.dies.map (fun y => if y.id = x.id then { y with mchkCount := 0 } else y) } else s).wrNat o.d 2
        (x.mchkCount % 2 ^ 16 + 2 ^ 16 * (x.mchkKind % 16) + 2 ^ 20 * (x.mchkCore % 64))))) ∧
  (∀ (o : LOps) (m : CtlMod) (s : State) (r : Region) (v : Vif), s.issues (.sysIdle o m) = true → s.regionOf s.me = some r → s.vifs.find? (fun x => x.id = r.vif) = some v →
    (v.bells ≠ 0 → CompletesTo (.sysIdle o m) s (({ s with vifs := s.vifs.map (fun x => if x.id = v.id then { x with bells := 0 } else x) } : State).wr o.d v.bells)) ∧
    (v.bells = 0 → ∃ u, exec (.sysIdle o m) s = .next u ∧ ∃ w, u.me.run = .waiting w ∧ w.kind = .idle ∧ w.limit = (if s.me.rd2 o.a = 0 then none else some (s.me.rd2 o.a).toNat) ∧ u.me.pc = s.me.pc))

/-! ### Events (21): accesses that perform, and what the threads wait for -/

namespace Claims

/-- R183, R185: a byte as a core's own accesses at the L2 see it: the core's dirty byte, else the byte of memory. -/
def coreByte (s : State) (core b : Nat) : Byte :=
  match s.l1? core (b / 64) with
  | some l => if l.dirty.getLsbD (b % 64) then l.data.extractLsb' (8 * (b % 64)) 8 else readByte s.mem b
  | none => readByte s.mem b
/-- Byte `b` after the bytes that are present in `bs` are written from `a` on. -/
def over_ (old : Nat → Byte) (a : Nat) (bs : List (Option Byte)) (b : Nat) : Byte :=
  match if a ≤ b then bs.getD (b - a) none else none with
  | some x => x
  | none => old b
/-- What no access changes of a thread when it performs: everything but pending values, reservations, the lines written and its private space. -/
def still (t : Thread) : Thread := { t with prods := [], resv := none, wrote := [], priv := [] }
/-- R399: a thread's access has read a word with an error. -/
def checked (s : State) (o : MemOp) (t : Thread) : Thread :=
  if s.lateError o = true ∧ t.uid = o.uid then { t with held := t.held ++ [{ cause := 5, pc := o.pc, faddr := o.va, d0 := 2 }] } else t

end Claims

/-- R183, R185, R201, R210, R217, R399: a pending access that may not perform yet, or does not exist,
leaves the state as it is; one that stands alone, where nothing is held and no fault is armed, may
perform. One that may leaves the pending accesses and changes nothing of any thread but values that
arrive, reservations, lines written and, for an access to one, a private space; the thread of one
that reads a word with an error gets the machine check, to be taken at its next boundary (assumption
26). A store changes the bytes it names, as its core sees memory, in its scratchpad or in its
thread's private space, and no other byte; a store at `.QUAD` or wider that is no release changes
these bytes of memory alone, and a narrower one none. A load at `.QUAD` or wider of which no part
has performed returns the bytes of memory with its core's dirty bytes over them, extended to its
registers, and changes no byte; a read-modify-write returns the old value and writes its function of
it, or nothing where it reads an error; a fence changes no byte. That accesses pend and perform one
by one, in any order that R213 allows, is the model's choice (assumption 8). -/
def Obligations.AccessesPerform : Prop :=
  ∀ (k : Nat) (s : State),
    (s.ops[k]? = none → exec (.storePerforms k) s = .next s) ∧
    ∀ o, s.ops[k]? = some o →
      (s.ops = [o] → s.holds = [] → s.handovers = [] → o.isFence = false → (∀ c, s.core? o.core = some c → c.inject = none) → ∃ t, s.admits o = some t) ∧
      (s.admits o = none → exec (.storePerforms k) s = .next s) ∧
      ∀ t, s.admits o = some t → ∃ u, exec (.storePerforms k) s = .next u ∧ u.ops = s.ops.filter (fun x => x.id ≠ o.id) ∧
        u.threads.map Claims.still = s.threads.map (fun x => Claims.still (Claims.checked s o x)) ∧ u.regions = s.regions ∧ u.gangs = s.gangs ∧
        ((∀ p, o.space ≠ .prv p) → u.threads.map (·.priv) = s.threads.map (·.priv)) ∧
        (∀ r, o.kind = .store r → o.space = .glb → s.memoriesWf → (∃ c, s.core? o.core = some c) → ∀ a, o.segs = [(a, o.data.length)] →
          (∀ b, Claims.coreByte u o.core b = Claims.over_ (Claims.coreByte s o.core) a o.data b) ∧
          (3 ≤ o.scope.code → o.ord ≠ .rel → o.ord ≠ .ar → ∀ b, readByte u.mem b = Claims.over_ (readByte s.mem) a o.data b) ∧
          (o.scope.code < 3 → o.evict ≠ 7 → u.mem = s.mem)) ∧
        (∀ r g c, o.kind = .store r → o.space = .scr g c → s.memoriesWf → ∀ a, o.segs = [(a, o.data.length)] → u.mem = s.mem ∧
          (∀ p, s.pad? g c = some p → ∃ q, u.pad? g c = some q ∧ ∀ b, readByte q.bytes b = Claims.over_ (readByte p.bytes) a o.data b) ∧
          ∀ g' c', (g', c') ≠ (g, c) → u.pad? g' c' = s.pad? g' c') ∧
        (∀ r p, o.kind = .store r → o.space = .prv p → s.memoriesWf → ∀ a, o.segs = [(a, o.data.length)] → u.mem = s.mem ∧ u.pads = s.pads ∧
          ∀ x y, s.thread? p = some x → u.thread? p = some y → ∀ b, readByte y.priv b = Claims.over_ (readByte x.priv) a o.data b) ∧
        (∀ sx, o.kind = .load sx → u.mem = s.mem ∧ (∀ b, Claims.coreByte u o.core b = Claims.coreByte s o.core b) ∧
          (o.space = .glb → 3 ≤ o.scope.code → s.lateError o = false → (∀ d ∈ o.data, d = none) → (∀ e ∈ s.ops, e.uid = o.uid → e.id = o.id ∨ e.isWrite = false) → ∀ a n, o.segs = [(a, n)] → n ∈ [1, 2, 4, 8, 16, 32, 64] →
            ∀ tag th, o.tag = some tag → s.thread? o.uid = some th →
              u.thread? o.uid = some (th.fill tag (Claims.loaded sx ((List.range n).map (fun i => Claims.coreByte s o.core (a + i))))))) ∧
        (∀ f, o.kind = .rmw f → o.space = .glb → s.memoriesWf → (∀ p ∈ s.purlin, p.inject = none) → (∃ c, s.core? o.core = some c) → ∀ a, o.segs = [(a, f.bytes)] → a % f.bytes = 0 →
          let old := bytesNat ((List.range f.bytes).map (fun i => Claims.coreByte s o.core (a + i)))
          (∀ tag x y, o.tag = some tag → s.thread? o.uid = some x → u.thread? o.uid = some y → y.prods = (x.fill tag (natWords (max 1 (f.bytes / 4)) old)).prods) ∧
          ∀ b, Claims.coreByte u o.core b = (match if s.lateError o then none else f.apply old with
            | some v => if a ≤ b ∧ b < a + f.bytes then BitVec.ofNat 8 (v / 256 ^ (b - a)) else Claims.coreByte s o.core b
            | none => Claims.coreByte s o.core b)) ∧
        (o.kind = .fence → s.memoriesWf → ∀ b, Claims.coreByte u o.core b = Claims.coreByte s o.core b)

namespace Claims

/-- The thread leaves a wait at the next start. -/
def passed (w : Wait) (t : Thread) : Thread := { t with pc := nextStart t.pc (w.data.getD 1 0).toNat, run := .ready }
/-- A thread changes, whichever it is. -/
def setThread (s : State) (uid : Nat) (f : Thread → Thread) : State :=
  { s with me := if s.me.uid = uid then f s.me else s.me, others := s.others.map (fun t => if t.uid = uid then f t else t) }
/-- R239: a record is on its way of a line that the thread has written since its last completed release at `n` or wider. -/
def awaits (s : State) (t : Thread) (n : Nat) : Prop := ∃ r ∈ s.handovers, ∃ w ∈ t.wrote, w.line = r.line ∧ w.scope ≤ n
/-- R239: what the thread has written, after its release at scope `n` has completed. -/
def released (n : Nat) (t : Thread) : Thread := { t with wrote := (t.wrote.map (fun w => { w with scope := max w.scope (n + 1) })).filter (fun w => w.scope < 8) }

end Claims

/-- R40, R69, R85, R158, R180, R223, R230, R238, R239, R242, R359, R366, R387: the events that threads
wait for. An instruction line enters the instruction cache; a long-latency value whose words are
known fills its registers, but for one of the special function unit that an older one of its thread
precedes; `NAP`, `YIELD`, `WAIT.UNTIL`, `WAIT.VAL` and `SYS.IDLE` end when their time comes, with
the predicate false and with 0; the watchdog raises its trap in a waiting thread, but ends `ACCEPT`
and `NOTE.WAIT` with 0, and a blocking `EMIT` with cause 24; a handler that runs too long ends its
fault domain. The host's positive answer to a page request that is one of its die's first 1,024 lets
the threads that are parked on it, and the commands, go on, and its refusal raises the page fault; a
held release is confirmed once the records of the lines that its thread has written since its last
completed release as wide are acknowledged; a good handover record is acknowledged, and a bad one
contains its thread and keeps the granting copy (which copy, is the model's choice: assumption 15). An event of
a thread or a number that does not exist leaves the state as it is. Which event comes next and how
much time passes are the model's choice, and the refusal of a page request and the watchdog's record
are its reading (assumptions 5, 30, 66 and 67). -/
def Obligations.ThreadEventsComplete : Prop :=
  (∀ (s : State) (n : Nat), (s.reach n).time = max s.time n ∧ (s.reach n).mem = s.mem ∧ (s.reach n).regions = s.regions) ∧
  (∀ (s : State) (uid k : Nat) (va : Dword), s.thread? uid = none →
    exec (.instructionLineFill uid va) s = .next s ∧ exec (.napExpiry uid) s = .next s ∧ exec (.watchdogExpiry uid) s = .next s ∧
    exec (.handlerTimeLimit uid) s = .next s ∧ exec (.waitUntilReached uid) s = .next s ∧ exec (.waitValTimeout uid) s = .next s ∧ exec (.sysIdleTimeLimit uid) s = .next s ∧
    ((∀ l ∈ s.lates, s.lateValue l = none) → exec (.longLatencyArrival uid k) s = .next s)) ∧
  (∀ (s u : State) (va : Dword) (l : BitVec 512), s.fetch va = (.line l, u) → exec (.instructionLineFill s.me.uid va) s = .next u ∧
    ∃ pa v, s.translate va .exec = (.ok pa, v) ∧ ∀ c, u.core? u.me.core = some c → c.icache.find? (fun x => x.1 = pa / 64) = some (pa / 64, l)) ∧
  (∀ (s : State) (uid k : Nat) (t : Thread) (p : Prod) (ws : List Word), (∀ l ∈ s.lates, s.lateValue l = none) → s.thread? uid = some t → t.prods[k]? = some p → (t.prods.map (·.tag)).Nodup →
    p.val = some ws →
    ((p.sfu = none ∨ ∀ q ∈ t.prods.take k, q.sfu = none) → exec (.longLatencyArrival uid k) s = .next (Claims.setThread s uid (fun t => t.arrive p ws))) ∧
    (p.sfu ≠ none → (∃ q ∈ t.prods.take k, q.sfu ≠ none) → exec (.longLatencyArrival uid k) s = .next s)) ∧
  (∀ (s : State) (uid : Nat) (t : Thread) (w : Wait), s.thread? uid = some t → t.run = .waiting w →
    (w.kind = .nap ∨ w.kind = .yielded → let c := match w.limit with | some c => c | none => 64
      exec (.napExpiry uid) s = .next (Claims.setThread (s.reach (w.since + (2 * c + 4) / 5)) uid (fun t => { t with run := .ready }))) ∧
    (w.kind = .time → exec (.waitUntilReached uid) s = .next (Claims.setThread (s.reach w.obj.toNat) uid (fun t => { t with run := .ready }))) ∧
    (∀ n, w.kind = .value → w.limit = some n → s.clockStopped t = false →
      exec (.waitValTimeout uid) s = .next (Claims.setThread (s.reach (w.since + w.frozen + n)) uid (fun t => Claims.passed w (t.setPred ((w.data.headD 0).setWidth 3) false)))) ∧
    (∀ n, w.kind = .idle → w.limit = some n → exec (.sysIdleTimeLimit uid) s = .next (Claims.setThread (s.reach (w.since + n)) uid (fun t => Claims.passed w (t.wr ((w.data.headD 0).setWidth 8) 0))))) ∧
  (∀ (s : State) (w : Wait) (n : Nat), s.me.run = .waiting w → s.wdogLimit s.me = some n → s.clockStopped s.me = false → s.away s.me.gang = false → (∀ g, s.gang? s.me.gang = some g → g.wait = none) →
    let v := s.reach (w.since + w.frozen + n)
    (w.kind = .pool → exec (.watchdogExpiry s.me.uid) s = .next (v.trap 24 0 w.obj)) ∧
    (w.kind = .accept ∨ w.kind = .note → exec (.watchdogExpiry s.me.uid) s = .next { v with me := Claims.passed w (v.me.wr2 ((w.data.headD 0).setWidth 8) 0) }) ∧
    (∀ wk, (wk, w.kind) ∈ [(1, .conv), (2, .barGrp), (3, .coll), (5, .chain), (6, .barObj), (7, .tile), (8, .claim)] → ∃ (t : State) (bs : List Byte), t.me = v.me ∧ t.others = v.others ∧
      exec (.watchdogExpiry s.me.uid) s = .next (t.takeTrap { cause := 10, pc := s.me.pc, faddr := if wk = 6 then w.obj else 0, d0 := BitVec.ofNat 64 wk, record := bs }))) ∧
  (∀ (s : State) (h : Handler) (n : Nat) (r : Region), s.me.handler = some h → s.wdogLimit s.me = some n → s.anyHalted s.me = false → (∀ id, s.me.run ≠ .parked id) → s.regionOf s.me = some r →
    ∃ u : State, exec (.handlerTimeLimit s.me.uid) s = .next u ∧ u.time = max s.time (h.since + h.frozen + n) ∧ ∀ q ∈ u.regions, q.fdom = r.fdom → q.state = .dead) ∧
  (∀ (s : State) (k : Nat) (ok : Bool), (∀ r, s.pageReqs[k]? = some r → 1024 ≤ ((s.pageReqs.filter (fun x => x.die = r.die)).map (·.id)).idxOf r.id) → exec (.pageRequestResponse k ok) s = .next s) ∧
  (∀ (s : State) (k : Nat) (r : PageReq), s.attached ≠ [] → s.pageReqs[k]? = some r → ((s.pageReqs.filter (fun x => x.die = r.die)).map (·.id)).idxOf r.id < 1024 →
    (∃ u : State, exec (.pageRequestResponse k true) s = .next u ∧ u.pageReqs = s.pageReqs.filter (fun x => x.id ≠ r.id) ∧ u.mem = s.mem ∧
      u.threads = s.threads.map (fun t => if t.run = .parked r.id then { t with run := .ready, asks := none } else t) ∧
      u.copies = s.copies.map (fun c => if c.st = .parked r.id then { c with st := .queued } else c) ∧ u.streams = s.streams.map (fun c => if c.st = .parked r.id then { c with st := .queued } else c) ∧
      u.remotes = s.remotes.map (fun c => if c.st = .parked r.id then { c with st := .queued } else c)) ∧
    ((∀ c ∈ s.remotes, c.st ≠ .parked r.id) → (∀ c ∈ s.colls, c.parked ≠ some r.id) → (∀ w ∈ s.devWrites, w.parked ≠ some r.id) → s.me.run = .parked r.id → (∀ t ∈ s.others, t.run ≠ .parked r.id) → s.me.entering = none → s.me.asks = none → s.me.halted = false →
      s.away s.me.gang = false → ∃ t : State, t.me = { s.me with run := .ready } ∧ t.others = s.others ∧ t.mem = s.mem ∧ t.pageReqs = s.pageReqs.filter (fun x => x.id ≠ r.id) ∧
        exec (.pageRequestResponse k false) s = .next (t.takeTrap { cause := 14, pc := s.me.pc, faddr := r.va, d0 := t.refusal t.me r }))) ∧
  (∀ (s : State) (k : Nat), (s.holds[k]? = none → exec (.releaseConfirm k) s = .next s) ∧ (s.handovers[k]? = none → exec (.handoverRecord k) s = .next s) ∧
    (∀ h t, s.holds[k]? = some h → h.early = false → s.thread? h.op.uid = some t → (Claims.awaits s t h.op.reach → exec (.releaseConfirm k) s = .next s) ∧
      (¬ Claims.awaits s t h.op.reach → ∃ u : State, exec (.releaseConfirm k) s = .next u ∧ u.holds = s.holds.filter (fun x => x.op.id ≠ h.op.id) ∧
        u.threads = s.threads.map (fun t => if t.uid = h.op.uid then Claims.released h.op.reach t else t) ∧ u.mem = s.mem ∧ u.lines = s.lines ∧ u.handovers = s.handovers)) ∧
    (∀ r, s.handovers[k]? = some r → r.interval = r.expect → r.dup = false → r.hout = r.hin → ∃ u : State, exec (.handoverRecord k) s = .next u ∧ u.handovers = s.handovers.erase r ∧
      u.me = s.me ∧ u.others = s.others ∧ u.mem = s.mem ∧ u.holds = s.holds ∧ u.lines = s.lines) ∧
    (∀ r t, s.handovers[k]? = some r → r.interval ≠ r.expect ∨ r.dup = true ∨ r.hout ≠ r.hin → r.uid = some s.me.uid → s.thread? s.me.uid = some t → ∃ u : State, exec (.handoverRecord k) s = .next u ∧
      (∃ x ∈ u.me.held, x.cause = 21) ∧
      -- under RULE 32 only the recorded owner's copy stays, else the granting one
      (r.interval = r.expect → r.dup = true → u.handovers = s.handovers.erase r ∧ (s.holds = [] → u.mem = s.mem)) ∧
      (r.interval ≠ r.expect ∨ r.dup = false → u.handovers = (s.handovers.erase r).filter (fun y => y.line ≠ r.line) ∧
        (s.holds = [] → u.mem = writeBytes s.mem (r.line * 64) r.bytes))))

namespace Claims

/-- R310: the records that a chunk takes (R316). -/
def chunk (left cap width cores : Nat) : Nat := min (min left cap) ((max width ((left + 2 * cores - 1) / (2 * cores)) + width - 1) / width * width)
/-- R308: nothing of a gang is left to do: its threads have exited, and no access, held release, engine command, remote operation or round of them is left but those that ended in a fault. -/
def finished (s : State) (g : Nat) : Prop :=
  ∀ t ∈ s.threads, t.gang = g → t.run = .exited ∧ (∀ o ∈ s.ops, o.uid ≠ t.uid) ∧ (∀ h ∈ s.holds, h.op.uid ≠ t.uid) ∧ (∀ c ∈ s.copies, c.uid = t.uid → c.st.live = false) ∧
    (∀ c ∈ s.streams, c.uid = t.uid → c.st.live = false) ∧ (∀ r ∈ s.remotes, r.uid = t.uid → r.st.live = false) ∧ ∀ c ∈ s.colls, c.uid ≠ t.uid
/-- R155, R370: what the save of a gang waits for has completed: its producers but stream instructions, its accesses, and a `LANE.CHAIN` that is complete in arrival and can end. -/
def quiet (s : State) (g : Nat) : Prop :=
  ∀ t ∈ s.threads, t.gang = g → (∀ p ∈ t.prods, ∃ c ∈ s.streams, c.tag = some p.tag) ∧ s.chainEnds t = false ∧ ∀ o ∈ s.ops, o.uid ≠ t.uid
/-- R286, R287, R290: the `k`-th started command of a core may run, on its tile `t`: it has neither parked nor ended, and no earlier command of its thread, or that names its tile, is still to complete, and fewer than eight are ahead of it; no array holds an error. -/
def copyRuns (s : State) (c : CopyCmd) (k : Nat) (t : Tile) : Prop :=
  s.dieRuns (c.core / 64) = true ∧ ((s.copiesOf c.core).filter (·.started))[k]? = some c ∧ c.st = .queued ∧
    (∀ x ∈ (s.copiesOf c.core).takeWhile (fun x => x.id ≠ c.id), x.st.live = true → x.uid ≠ c.uid ∧ x.tile ≠ c.tile) ∧
    (((s.copiesOf c.core).takeWhile (fun x => x.id ≠ c.id)).filter (fun x => x.started && x.st == .queued)).length < 8 ∧ s.tile? c.core c.tile = some t ∧ s.struck = []
/-- R286, R290, R295: the command has left its queue, and its tile is in a state. -/
def copyEnded (s u : State) (c : CopyCmd) (st : TState) : Prop :=
  u.copies = s.copies.filter (fun x => x.id ≠ c.id) ∧ (u.tile? c.core c.tile).map (·.st) = some st
/-- R280: the widths of elements that a tile may have. -/
def whole (t : Tile) : Prop := t.width ∈ [4, 8, 16, 32, 64]
/-- R280: element (0, 0) of a tile of one element, as a command finds its place in memory (R284). -/
def one (c : CopyCmd) (r : TRec) (t : Tile) : Prop := c.tens = some r ∧ c.done = 0 ∧ t.rows = 1 ∧ t.cols = 1

end Claims

/-- R163, R165, R169, R260, R265, R273, R280, R285, R286, R287, R290, R295, R306 to R319, R360, R367 to
R371: the engines, the dispatcher and pre-emption. The first stream instruction of a core runs until
it completes or stops, and one under a false slot goes; a fill of scratch leaves its value in every
element of its traversal. The head of the copy queue starts when its slot is resolved true, its time
has come and its thread's earlier accesses have performed, with the trigger's word written and its
tensor record read, whose first failed check is held pending; and a started fill leaves its value in
every element of its tile and a move its source's, both `READY`, and a load and a store of one
element move it between memory and the tile; the head of the matrix queue executes, into its
accumulator; a trigger tick lets time come, and what is held for it starts. Nothing of these moves
on a die that has stopped. A ready gang is placed where the placement suits, and its threads start
with R307's values; a gang whose work is over ends, its records consumed; a batch's timer seals it;
a card deals the next chunk of R316; the end of a cancelling region's grace retires its gangs. A
pre-emption request reaches the root's gangs, a thread takes its trap, and a gang whose threads are
done, or whose grace is over, is saved, and resumes where a placement suits. The place where a gang
starts and the groups' order are the model's choice, and so is that a timer's, a grace's and a
trigger's event lets the count pass to its tick; when a gang has ended, what a save waits for, that
a saved gang stands ahead of those that arrived after it, and which places a resume refuses are its
reading (assumptions 30, 34, 54, 63, 64 and 83). -/
def Obligations.EngineAndDispatchEventsComplete : Prop :=
  (∀ (s : State) (core k : Nat), s.dieRuns (core / 64) = false → exec (.streamInstructionComplete core) s = .next s ∧ exec (.copyCommandStart core) s = .next s ∧
    exec (.copyCommandComplete core k) s = .next s ∧ exec (.matrixCommandExecute core) s = .next s) ∧
  (∀ (s : State) (c : StreamCmd), s.dieRuns (c.core / 64) = true → s.streams = [c] → c.st = .queued → s.away ((s.gkeyOf c.uid).gang) = false → (∀ o ∈ s.ops, o.uid ≠ c.uid) →
    (s.cmdSlot (s.gkeyOf c.uid) c.o.gs = none → exec (.streamInstructionComplete c.core) s = .next s) ∧
    (s.cmdSlot (s.gkeyOf c.uid) c.o.gs = some false → ∃ u : State, exec (.streamInstructionComplete c.core) s = .next u ∧ u.streams = [] ∧ u.mem = s.mem) ∧
    (s.cmdSlot (s.gkeyOf c.uid) c.o.gs = some true → ∃ u : State, exec (.streamInstructionComplete c.core) s = .next u ∧ (u.streams = [] ∨ ∃ d, u.streams = [d] ∧ d.id = c.id ∧ c.done ≤ d.done)) ∧
    (s.cmdSlot (s.gkeyOf c.uid) c.o.gs = some true → s.struck = [] → c.op = 2 → c.done = 0 → c.tile = none → ∀ (t : Thread) (p : Pad) (size : Nat), s.thread? c.uid = some t → s.pad? t.gang c.core = some p → s.memoriesWf → t.logs = [] →
      0 < size → c.o.ty.bits (s.bank t) = 8 * size → wordSp c.dw = 1 →
      let at_ (n : Nat) : Nat := ((wordOff c.dw : Int) + c.o.disp 0 size n).toNat
      (∀ n, n < c.o.total → at_ n % size = 0) → ∃ u : State, exec (.streamInstructionComplete c.core) s = .next u ∧ u.streams = [] ∧ u.mem = s.mem ∧ (u.thread? c.uid).map (·.fsr) = some (t.fsr ||| c.flags.setWidth 32) ∧
        ∀ n, n < c.o.total → bytesNat (u.scrRead t.gang c.core (at_ n) size) = c.bw.toNat % 2 ^ (8 * size))) ∧
  (∀ (s : State) (c : CopyCmd), s.dieRuns (c.core / 64) = true → (s.copiesOf c.core).find? (fun x => !x.started) = some c →
    (s.cmdSlot (s.gkeyOf c.uid) c.gs = none → exec (.copyCommandStart c.core) s = .next s) ∧
    (s.cmdSlot (s.gkeyOf c.uid) c.gs = some false → ∃ u : State, exec (.copyCommandStart c.core) s = .next u ∧ u.copies = s.copies.filter (fun x => x.id ≠ c.id) ∧ u.mem = s.mem) ∧
    (∀ t, s.cmdSlot (s.gkeyOf c.uid) c.gs = some true → ((s.copiesOf c.core).filter (fun x => x.started && x.st == .queued)).length < 8 → (∀ o ∈ s.ops, o.uid ≠ c.uid) →
      (∀ g, c.trig = some g → g.tick ≤ s.time ∧ s.lineHeld (g.pa / 64) = false) → s.tile? c.core c.tile = some t →
      let put (d : CopyCmd) : List CopyCmd := s.copies.map (fun x => if x.id = c.id then d else x)
      ((∃ v, c.op = .fill v) ∨ (∃ a b, c.op = .move a b) → ∃ u : State, exec (.copyCommandStart c.core) s = .next u ∧ u.copies = put { c with started := true } ∧
        (c.trig = none → u.mem = s.mem) ∧ (∀ g, c.trig = some g → g.again = false → s.memoriesWf → readNat u.mem g.pa 8 = s.time % 2 ^ 63 + (if g.late then 2 ^ 63 else 0))) ∧
      (∀ (store : Bool) (pa : Nat) (v : State), (c.op = .load ∧ store = false) ∨ (∃ a, c.op = .store a ∧ store = true) → c.tens = none → c.trig = none →
        (∀ x ∈ s.copies.takeWhile (fun x => x.id ≠ c.id), x.uid = c.uid → x.st.live = true → ∀ a, x.op ≠ .store a) → s.engPlace c.core c.uid c.addr 128 0 .read = .got pa v →
        let n := bytesNat (v.engRead c.core c.uid c.pc c.scope.code pa 128).1
        (TRec.check n t.rows t.cols t.width c.origin store = none → ∃ u : State, exec (.copyCommandStart c.core) s = .next u ∧ u.copies = put { c with started := true, tens := some (TRec.ofNat n) } ∧ u.mem = v.mem) ∧
        (∀ d, TRec.check n t.rows t.cols t.width c.origin store = some d → ∃ (u : State) (e : Nat), exec (.copyCommandStart c.core) s = .next u ∧
          u.copies = put { c with started := true, st := .faulted { cause := 20, faddr := 0, code := d, elem := e } })))) ∧
  (∀ (s : State) (k : Nat) (c : CopyCmd) (t : Tile) (p : Pad), Claims.copyRuns s c k t → s.pad? t.gang t.core = some p → s.memoriesWf → Claims.whole t →
    (∀ v, c.op = .fill v → c.done = 0 → ∃ u : State, exec (.copyCommandComplete c.core k) s = .next u ∧ Claims.copyEnded s u c .ready ∧ u.mem = s.mem ∧
      ∀ i j, i < t.rows → j < t.cols → u.getElem t i j = v % 2 ^ t.width) ∧
    (∀ src tr (a : Tile), c.op = .move src tr → s.tile? c.core src = some a → a.width = t.width → (if tr then t.rows = a.cols ∧ t.cols = a.rows else t.rows = a.rows ∧ t.cols = a.cols) →
      ∃ u : State, exec (.copyCommandComplete c.core k) s = .next u ∧ Claims.copyEnded s u c .ready ∧ u.mem = s.mem ∧
        ∀ i j, i < t.rows → j < t.cols → u.getElem t i j = (if tr then s.getElem a j i else s.getElem a i j)) ∧
    (∀ (r : TRec), c.op = .load → Claims.one c r t → let bit := r.bitAddr 1 c.origin 0 0
      (r.inBounds 1 c.origin 0 0 = false → ∃ u : State, exec (.copyCommandComplete c.core k) s = .next u ∧ Claims.copyEnded s u c .ready ∧ u.mem = s.mem ∧ u.getElem t 0 0 = 0) ∧
      (∀ pa v, r.inBounds 1 c.origin 0 0 = true → s.engPlace c.core c.uid (BitVec.ofNat 64 (bit / 8)) ((t.width + 7) / 8) 0 .read = .got pa v → ∃ u : State, exec (.copyCommandComplete c.core k) s = .next u ∧
        Claims.copyEnded s u c .ready ∧ u.mem = v.mem ∧ u.getElem t 0 0 = bytesNat (v.engRead c.core c.uid c.pc c.scope.code pa ((t.width + 7) / 8)).1 / 2 ^ (bit % 8) % 2 ^ t.width)) ∧
    (∀ (r : TRec) (keep : Bool), c.op = .store keep → Claims.one c r t → t.chk = none → 8 ≤ t.width → ∀ pa v, r.inBounds 1 c.origin 0 0 = true →
      s.engPlace c.core c.uid (BitVec.ofNat 64 (r.bitAddr 1 c.origin 0 0 / 8)) (t.width / 8) 0 .write = .got pa v → ∃ u : State, exec (.copyCommandComplete c.core k) s = .next u ∧
        Claims.copyEnded s u c (if keep then .ready else .empty) ∧ readNat u.mem pa (t.width / 8) = s.getElem t 0 0)) ∧
  (∀ (s : State) (c : MatCmd) (l : List MatCmd) (e : Entry), s.dieRuns (c.core / 64) = true → s.lates = [] → s.shadows = [] → s.struck = [] → s.matrixOf c.core = c :: l → s.matWaits c = false → c.gs = none → s.entryOf c = some e → (∃ t ∈ s.threads, t.gkey = c.g ∧ t.run ≠ .exited) →
    (c.op = .accZero → ∃ u : State, exec (.matrixCommandExecute c.core) s = .next u ∧ u.matrix = s.matrix.filter (fun x => x.id ≠ c.id) ∧
      (u.acc? e.core e.id).map (fun x => (x.val, x.chk, x.mag, x.g)) = some (List.replicate 4096 0, List.replicate 16 0, List.replicate 16 0, 0)) ∧
    (∀ acc, c.op = .mma acc → s.slateFault c = none → ∃ u : State, exec (.matrixCommandExecute c.core) s = .next u ∧ u.matrix = s.matrix.filter (fun x => x.id ≠ c.id) ∧
      u.acc? e.core e.id = some (s.mulInto c (if acc then e else { e with val := List.replicate 4096 0, chk := List.replicate 16 0, mag := List.replicate 16 0, g := 0 })).1)) ∧
  (∀ (s : State) (core : Nat), (s.copiesOf core = [] → s.matrixOf core = [] → s.lates = [] → (∀ c ∈ s.colls, c.core ≠ core) → exec (.triggerTick core) s = .next s) ∧
    (∀ t, ((s.heldTicks core).filter (fun n => s.time < n)).min? = some t → ∃ u : State, exec (.triggerTick core) s = .next u ∧ u.time = t) ∧
    (∀ (c : Coll) (t : Trigger), s.copiesOf core = [] → s.matrixOf core = [] → s.lates = [] → s.colls = [c] → c.core = core → c.trig = some t → t.again = false → s.holds = [] → s.handovers = [] → s.memoriesWf → ∃ u : State, exec (.triggerTick core) s = .next u ∧
      u.time = max s.time t.tick ∧ u.colls.map (fun x => (x.id, x.trig)) = [(c.id, none)] ∧ readNat u.mem t.pa 8 = u.time % 2 ^ 63 + (if t.late then 2 ^ 63 else 0))) ∧
  (∀ (s : State) (x : Ready) (place : List Place) (p : Spec) (d : Die), s.ready = [x] → (∀ b ∈ s.batches, b.st ≠ .sealed) → s.die? x.die = some d → d.enabled = true → d.stopped = false → s.offered x = true → x.bin < 16 → s.specOf x = some p → s.released x = true →
    place ≠ [] → s.placeOk p place = true → (∀ (k : Nat) r, p.lb.roles[k]? = some (some r) → 8 ≤ r.width ∧ r.width ≤ 64) → ∃ (u : State) (g : Gang), exec (.gangPlacement x.die place) s = .next u ∧ u.gangs = s.gangs ++ [g] ∧ g.region = x.region ∧ g.nrec = p.nrec ∧ g.recAddr = p.recAddr ∧ g.res = .running ∧
      s.others.length < u.others.length ∧ ∀ t ∈ u.others.drop s.others.length, t.gang = g.id ∧ t.preds = 1 ∧ t.ord = 0 ∧ t.fsr = 0 ∧ t.run = .ready ∧ t.starting = true ∧ t.stk = BitVec.ofNat 32 p.lb.priv ∧ t.handler = none ∧
        (∀ r, t.rd r = 0 ∧ t.full r = true) ∧ ∃ r, p.lb.roles[t.role]? = some (some r) ∧ t.pc = r.entry ∧ t.budget = r.regs) ∧
  (∀ (s : State) (g : Gang) (r : Region), s.gang? g.id = some g → (¬ (Claims.finished s g.id ∧ ∀ c ∈ s.matrix, c.g.gang ≠ g.id) → exec (.gangEnd g.id) s = .next s) ∧
    (Claims.finished s g.id → (∀ c ∈ s.matrix, c.g.gang ≠ g.id) → g.forced = false → g.origin = .none → s.region? g.region = some r → ∃ u : State, exec (.gangEnd g.id) s = .next u ∧ (∀ x ∈ u.gangs, x.id ≠ g.id) ∧ (∀ t ∈ u.others, t.gang ≠ g.id) ∧
      (∀ x ∈ u.groups, x.gang ≠ g.id) ∧ (∀ x ∈ u.pads, x.gang ≠ g.id) ∧ (∀ x ∈ u.tiles, x.gang ≠ g.id) ∧ (∀ b ∈ u.blocks, b.id ≠ g.id) ∧ (u.region? g.region).map (·.consumed) = some ((r.consumed + g.nrec) % 2 ^ 64))) ∧
  (∀ (s : State) (k : Nat), (s.batches[k]? = none → exec (.batchTimerSeal k) s = .next s) ∧
    (∀ b n, s.batches[k]? = some b → s.node? b.region b.node = some n → (b.st ≠ .gathering ∨ n.timer = 0 ∨ n.en = false → exec (.batchTimerSeal k) s = .next s) ∧
      (b.st = .gathering → n.timer ≠ 0 → n.en = true → (s.batches.map (·.id)).Nodup → ∃ u : State, exec (.batchTimerSeal k) s = .next u ∧ u.time = max s.time (b.t0 + n.timer) ∧
        ∀ x ∈ u.batches, x.id = b.id → x.st ≠ .gathering ∧ x.timed = true))) ∧
  (∀ (s : State) (c : Card) (r : Region), s.cards.find? (fun x => x.id = c.id) = some c → s.region? c.region = some r → (c.n ≤ c.dealt → exec (.dealChunk c.id) s = .next s) ∧
    (c.dealt < c.n → s.holds = [] → s.handovers = [] → 1 ≤ c.lb.recWidth → let n := Claims.chunk (c.n - c.dealt) c.lb.capacity c.lb.recWidth (max 1 r.cores)
      ∃ (u : State) (x : Ready), exec (.dealChunk c.id) s = .next u ∧ u.ready = s.ready ++ [x] ∧ x.src = .chunk c.id c.dealt n ∧ x.region = c.region ∧ x.die = r.vdt.getD (c.chunks % max 1 r.vdt.length) 0 ∧
        u.cards = s.cards.map (fun y => if y.id = c.id then { y with dealt := y.dealt + n, chunks := y.chunks + 1, live := y.live + 1 } else y))) ∧
  (∀ (s : State) (r : Region), s.region? r.num = some r → (r.state ≠ .cancelling → exec (.cancelGraceExpiry r.num) s = .next s) ∧
    (r.state = .cancelling → ∃ u : State, exec (.cancelGraceExpiry r.num) s = .next u ∧ u.time = max s.time (r.cancelAt + r.grace * 1024) ∧ (∀ g ∈ u.gangs, g.region = r.num → g.forced = true) ∧
      ∀ t ∈ u.threads, (∃ g ∈ s.gangs, g.id = t.gang ∧ g.region = r.num) → t.run = .exited)) ∧
  (∀ (s : State) (v : Vif) (r : Nat), s.attached ≠ [] → s.vifs.find? (fun x => x.id = v.id) = some v → v.root = some r → ∃ u : State, exec (.jokebryPreemptRequest v.id) s = .next u ∧
    u.regions = s.regions.map (fun x => if s.reaches r x.num then { x with hold := true } else x) ∧
    u.gangs = s.gangs.map (fun g => if s.reaches r g.region = true ∧ g.res = .running then { g with res := .preempting s.time false } else g)) ∧
  (∀ (s : State) (g : Gang) (t : Nat), s.gang? s.me.gang = some g → g.res = .preempting t false → s.me.warned = false → s.me.halted = false → s.me.run = .ready → s.me.queued = false → s.me.entering = none → s.me.starting = false →
    (s.me.handler = none → exec (.preemptionTrap s.me.uid) s = .next (({ s with me := { s.me with warned := true, resv := none } } : State).takeTrap { cause := 31, pc := s.me.pc })) ∧
    (s.me.handler ≠ none → (∀ x ∈ s.others, x.uid ≠ s.me.uid) → exec (.preemptionTrap s.me.uid) s = .next { s with me := { s.me with warned := true, held := s.me.held ++ [{ cause := 31, pc := s.me.pc }] } })) ∧
  (∀ (s : State) (g : Gang) (t : Nat), s.gang? g.id = some g → Claims.quiet s g.id →
    (g.res = .preempting t false → g.wait = none → (∀ x ∈ s.threads, x.gang = g.id → x.run = .exited ∨ ∃ w, x.run = .waiting w ∧ w.kind = .preempted) → ∃ u : State, exec (.lightSave g.id) s = .next u ∧
      (u.gang? g.id).map (·.res) = some .saved ∧ (∃ y l k, s.ready = l ++ k ∧ u.ready = l ++ y :: k ∧ y.src = .saved g.id ∧ y.region = g.region ∧
        (∀ x ∈ l, ∃ n, n < g.id ∧ x.src = .saved n) ∧ ∀ x ∈ k.head?, ∀ n, n < g.id → x.src ≠ .saved n) ∧
      ∀ x ∈ u.threads, x.gang = g.id → x.run ≠ .exited → x.run = .ready ∧ (∀ r, x.rd r = 0 ∧ x.full r = true)) ∧
    (∀ f, g.res = .preempting t f → ∃ u : State, exec (.preemptionGraceExpiry g.id) s = .next u ∧ (u.gang? g.id).map (·.res) = some .saved ∧ (f = false → u.time = max s.time (t + s.graceOf g.region)))) ∧
  (∀ (s : State) (g : Gang) (t : Nat), s.gang? g.id = some g → ¬ Claims.quiet s g.id → (s.gangs.map (·.id)).Nodup → g.res = .preempting t true → exec (.preemptionGraceExpiry g.id) s = .next s) ∧
  (∀ (s : State) (g : Gang) (p : Spec) (d : Die) (place : List Place), s.gang? g.id = some g → g.wait = none → g.res = .saved → g.forced = false → s.savedSpec g = some p → p.region.hold = false → s.die? p.die = some d → d.enabled = true → d.stopped = false →
    ∀ y, s.ready = [y] → (∀ b ∈ s.batches, b.st ≠ .sealed) → y.src = .saved g.id → y.region = g.region → y.die = g.die →
    (s.resumeOk g p place = false → s.resumeOk g p (s.resumePlace g p) = false → exec (.savedGangResume g.id place) s = .next s) ∧
    (s.resumeOk g p place = true → ∃ u : State, exec (.savedGangResume g.id place) s = .next u ∧ (u.gang? g.id).map (fun x => (x.res, x.die)) = some (.running, p.die) ∧ ∀ y ∈ u.ready, y.src ≠ .saved g.id))

namespace Claims

/-- R395, R397: a link of the module has changed its state at a tick: its number has gone up, the routes know it, an Eave link is in service or not, an event is due, and a dead link begins to drain. -/
def linkNow (s u : State) (p : Port) (time : Nat) (live : Bool) : Prop :=
  let seq := (p.seq + 1) % 2 ^ 32
  (u.port? p.port).map (fun x => (x.live, x.seq, x.fails, x.heard)) = some (live, seq, 0, time) ∧ u.mem = s.mem ∧ u.time = time ∧
    u.notices = s.notices ++ [{ port := p.port, live := live, seq := seq, since := time }] ∧
    (∀ e, 24 ≤ p.port → [(0, 1), (2, 3), (0, 2), (1, 3)][p.port - 24]? = some e → (e ∈ u.eaves ↔ live = false)) ∧
    ((∀ l, s.links.find? (fun x => x.chip = s.chip ∧ x.port = p.port) = some l → l.seq.toNat < seq) →
      (u.links.find? (fun x => x.chip = s.chip ∧ x.port = p.port)).map (fun x => (x.live, x.seq.toNat)) = some (live, seq) ∧
      (live = true → u.drains = s.drains) ∧ (live = false → ∃ d, u.drains = s.drains ++ [d] ∧ d.chip = s.chip ∧ d.port = p.port ∧ d.since = time ∧ d.round = 0))
/-- R346, R357: the device can write a STATUS word at once: no release or failing record holds a line, no fault is armed in a Purlin, no earlier write of the device to a physical address waits, and the address is populated. -/
def statusFree (s : State) (a : Nat) : Prop :=
  a < 2 ^ 64 ∧ s.holds = [] ∧ (∀ r ∈ s.handovers, r.fails = none) ∧ (∀ p ∈ s.purlin, p.inject = none) ∧ (∀ w ∈ s.devWrites, w.space ≠ none) ∧ s.physKind a ≠ .bad

end Claims

/-- R330, R336, R337, R346, R347, R352, R356, R357, R360, R361, R395 to R397: the fabric. A parcel that
a window takes is entered as `ARRIVED` with its bytes, and one that it does not take changes
nothing; an acknowledgement frees the sender's entry, and a failure returns the parcel, and either
gives `POST` its outcome. A remote operation that its window refuses changes nothing, and a remote
write changes the bytes of its range and no other. A remote operation's result, which its own
release precedes, and a round's end write STATUS, and a round in time the folded result; an
operation to a chip without a route ends with 3 unless a dead link's drain holds it, and a read or
an atomic at an offset that is not aligned with 4; a round that is late ends with 2, an invalid one
with 4, and an armed one not before its tick. A retrain ends once what its link carried is no longer outstanding. A flit counts its failures, and the next one after
eight in a row, a link idle for 100 µs and a failed retrain declare a link dead, whose traffic
begins to drain; a newer link-state update is applied; a drain's rounds end 1, 3 and 7 ms after the
declaration, and after the last what is still outstanding is lost; and a change of a link is posted
once. The numbers of the links, the chips that a link-state update leaves in reach, which traffic stands
on a link, the number and the place of an arriving parcel, its header and map, and that an idle
link, the end of a round of a drain and a late round let the count pass to their tick, are the
model's choice, and the rounds and the failed flits are its reading (assumptions 30, 38, 55, 58, 59
and 60). -/
def Obligations.FabricEventsComplete : Prop :=
  (∀ (s : State) (x : ParcelImage),
    ((∀ w, s.window? x.win = some w → w.rights.getLsbD 3 = false ∨ w.key ≠ x.key ∨ 64 ≤ w.arrivals.length ∨ s.newParcel w.region x.lsz = none) → exec (.parcelArrival x) s = .next s) ∧
    (∀ w n base charge, s.window? x.win = some w → w.rights.getLsbD 3 = true → w.key = x.key → w.arrivals.length < 64 → s.newParcel w.region x.lsz = some (n, base, charge) →
      ∃ u : State, exec (.parcelArrival x) s = .next u ∧ (u.parcel n).st = .arrived ∧ (u.parcel n).lsz = x.lsz ∧ (u.parcel n).region = w.region ∧ (u.parcel n).base = base ∧ (u.parcel n).map = x.map.dedup ∧
        (u.parcel n).gen = (s.parcel n).gen ∧ (∀ k, k ≠ n → u.parcel k = s.parcel k) ∧ (u.window? x.win).map (·.arrivals) = some (w.arrivals ++ [n]) ∧
        (s.memoriesWf → (x.bytes.map (·.1)).Nodup → ∀ y ∈ x.bytes, 64 ≤ y.1 → y.1 < 2 ^ x.lsz - 2 ^ x.lsz / 64 → readByte u.mem (base + y.1) = y.2) ∧
        (s.memoriesWf → ∀ a, a < base ∨ base + 2 ^ x.lsz ≤ a → readByte u.mem a = readByte s.mem a))) ∧
  (∀ (s : State) (n : Nat), let p := s.parcel n
    (p.st ≠ .inTransit → exec (.deliveryConfirmed n) s = .next s ∧ ∀ v, exec (.deliveryFailed n v) s = .next s) ∧
    (p.st = .inTransit → s.parcelBusy p = false → (∀ d ∈ s.drains, d.round = 3 → (p.num, p.gen) ∉ d.parcels) → ∃ u : State, exec (.deliveryConfirmed n) s = .next u ∧ (u.parcel p.num).st = .free ∧ (u.parcel p.num).gen = (p.gen + 1) % 2 ^ 24 ∧ u.mem = s.mem ∧
      u.posts = s.posts.map (fun x => if x.num = n ∧ x.status = none then { x with status := some 0 } else x)) ∧
    (p.st = .inTransit → s.parcelBusy p = false → (∀ d ∈ s.drains, d.round = 3 → (p.num, p.gen) ∉ d.parcels) → ∀ v : Word, 1 ≤ v.toNat → v.toNat ≤ 3 → ∃ u : State, exec (.deliveryFailed n v) s = .next u ∧ (u.parcel p.num).st = (if p.dropped then .free else .returned) ∧ u.mem = s.mem ∧
      u.posts = s.posts.map (fun x => if x.num = n ∧ x.status = none then { x with status := some v.toNat } else x))) ∧
  (∀ (s : State) (x : RemoteOp), (s.remoteCode x ≠ 0 → exec (.remoteOperationArrival x) s = .next s) ∧
    (∀ w a, s.remoteCode x = 0 → x.kind = .wr → s.holds = [] → s.handovers = [] → s.window? x.win = some w → w.range x.off x.len = [(a, x.len)] → x.data.length = x.len →
      ∃ u : State, exec (.remoteOperationArrival x) s = .next u ∧ (s.memoriesWf → ∀ b, readByte u.mem b = Claims.over_ (readByte s.mem) a (x.data.map some) b) ∧ u.windows = s.windows)) ∧
  (∀ (s : State) (r : Remote) (k : Nat) (st : Word) (data : List Byte), s.remotes[k]? = some r → r.st = .queued →
    (s.releasing r = true → exec (.rmaCompletion k st data) s = .next s) ∧ (s.releasing r = false → (∀ x ∈ s.remotes.take k, x.uid ≠ r.uid) → Claims.statusFree s r.status →
    (r.chip ∉ s.routes → (∀ d ∈ s.drains, r.id ∉ d.remotes) → (∀ p ∈ s.ports, ∀ t, p.training = some t → r.id ∉ t.remotes) → ∃ u : State, exec (.rmaCompletion k st data) s = .next u ∧ u.remotes = s.remotes.filter (fun x => x.id ≠ r.id) ∧ (s.memoriesWf → readNat u.mem r.status 4 = 3)) ∧
    (r.chip ∈ s.routes → st = 0 → r.off % max 1 r.op.width ≠ 0 → ∃ u : State, exec (.rmaCompletion k st data) s = .next u ∧ u.remotes = s.remotes.filter (fun x => x.id ≠ r.id) ∧
      (s.memoriesWf → readNat u.mem r.status 4 = 4)) ∧
    (r.chip ∈ s.routes → (∃ n, r.op = .rd n) ∨ (∃ o ty v, r.op = .atom o ty v) → st = 0 ∧ r.off % max 1 r.op.width = 0 ∨ st = 3 ∨ st = 4 ∨ st = 5 → ∃ u : State, exec (.rmaCompletion k st data) s = .next u ∧
      u.remotes = s.remotes.filter (fun x => x.id ≠ r.id) ∧ (s.memoriesWf → readNat u.mem r.status 4 = st.toNat) ∧
      ∀ tag th, r.tag = some tag → s.thread? r.uid = some th → ∃ th', u.thread? r.uid = some th' ∧ th'.regs = th.regs ∧
        th'.prods = (th.fill tag (natWords (max 1 (r.op.width / 4)) (if st = 0 then bytesNat (data.take r.op.width) else 2 ^ 128 - 1))).prods))) ∧
  (∀ (s : State) (c : Coll) (k : Nat) (st : Word) (sends : List (List Byte)), s.colls[k]? = some c → Claims.statusFree s c.status →
    (c.parked.isSome = true ∨ (∃ t, c.trig = some t ∧ s.time < t.tick) → exec (.collectiveRoundComplete k st sends) s = .next s) ∧
    (c.parked = none → c.trig = none → c.bad = true ∨ st = 3 ∨ st = 4 ∨ st = 5 → ∃ u : State, exec (.collectiveRoundComplete k st sends) s = .next u ∧ u.colls = s.colls.filter (fun x => x.id ≠ c.id) ∧
      (s.memoriesWf → readNat u.mem c.status 4 = (if c.bad then 4 else st.toNat))) ∧
    (c.parked = none → c.trig = none → c.bad = false → st = 0 → ∀ (t v : State) (src : List (Nat × Nat)) (a : Nat), s.rangeOf c.core c.uid .read c.send c.sendBytes = (.ok src, t) →
      t.rangeOf c.core c.uid .write c.recv c.recvBytes = (.ok [(a, c.recvBytes)], v) → (c.status + 4 ≤ a ∨ a + c.recvBytes ≤ c.status) →
      let mine := (v.readRange c.core c.uid c.pc src).1
      let xs := (List.range c.nmem).map (fun r => if r = c.rank then mine else sends.getD r [])
      (c.result xs).length = c.recvBytes → ∃ u : State, exec (.collectiveRoundComplete k 0 sends) s = .next u ∧ u.colls = s.colls.filter (fun x => x.id ≠ c.id) ∧ (s.memoriesWf → readNat u.mem c.status 4 = 0 ∧
        readBytes u.mem a c.recvBytes = c.result xs)) ∧
    (c.bad = true → ∃ u : State, exec (.collectiveTimeout k) s = .next u ∧ u.colls = s.colls.filter (fun x => x.id ≠ c.id) ∧ (s.memoriesWf → readNat u.mem c.status 4 = 4)) ∧
    (∀ n, c.bad = false → c.limit = some n → (∀ t, s.thread? c.uid = some t → s.anyHalted t = false) → s.anyHalted s.me = false → ∃ u : State, exec (.collectiveTimeout k) s = .next u ∧ u.time = max s.time (c.since + c.frozen + n) ∧
      (∀ x ∈ u.colls, x.id ≠ c.id) ∧ (s.memoriesWf → readNat u.mem c.status 4 = 2))) ∧
  (∀ (s : State) (p : Port), s.port? p.port = some p → let set (f : Port → Port) : State := { s with ports := s.ports.map (fun x => if x.port = p.port then f x else x) }
    (p.live = false → (∀ b, exec (.flitReceive p.port b) s = .next s) ∧ exec (.linkIdleTimeout p.port) s = .next s ∧ exec (.linkRetrain p.port false) s = .next s) ∧
    (p.live = true → p.training = none → exec (.flitReceive p.port true) s = .next (set (fun x => { x with fails := 0, heard := s.time })) ∧
      (p.fails < 8 → exec (.flitReceive p.port false) s = .next (set (fun x => { x with fails := x.fails + 1, heard := s.time }))) ∧
      (8 ≤ p.fails → ∃ u, exec (.flitReceive p.port false) s = .next u ∧ Claims.linkNow s u p s.time false) ∧
      (∃ u, exec (.linkIdleTimeout p.port) s = .next u ∧ Claims.linkNow s u p (max s.time (p.heard + 100000)) false) ∧
      (∃ u, exec (.linkRetrain p.port false) s = .next u ∧ Claims.linkNow s u p s.time false)) ∧
    (p.training = none → ∃ u : State, exec (.linkRetrain p.port true) s = .next u ∧ Claims.linkNow s u p s.time true) ∧
    (∀ t b, p.training = some t → (∃ r ∈ s.remotes, r.id ∈ t.remotes) → exec (.linkRetrain p.port b) s = .next s)) ∧
  (∀ (s : State) (l : LinkUpdate), (∀ x, s.links.find? (fun x => x.chip = l.chip ∧ x.port = l.port) = some x → l.seq.toNat ≤ x.seq.toNat → exec (.linkStateUpdate l) s = .next s) ∧
    ((∀ x, s.links.find? (fun x => x.chip = l.chip ∧ x.port = l.port) = some x → x.seq.toNat < l.seq.toNat) → ∃ u : State, exec (.linkStateUpdate l) s = .next u ∧
      (u.links.find? (fun x => x.chip = l.chip ∧ x.port = l.port)).map (fun x => (x.live, x.seq)) = some (l.live, l.seq) ∧ u.mem = s.mem ∧ u.ports = s.ports ∧
      (l.live = true → u.drains = s.drains) ∧ (l.live = false → ∃ d, u.drains = s.drains ++ [d] ∧ d.chip = l.chip ∧ d.port = l.port ∧ d.since = s.time ∧ d.round = 0))) ∧
  (∀ (s : State) (k : Nat), (s.drains[k]? = none → exec (.drainRoundEnd k) s = .next s) ∧
    (∀ d, s.drains[k]? = some d →
      (d.round < 2 → exec (.drainRoundEnd k) s = .next { s.reach (d.since + (2 ^ (d.round + 1) - 1) * 1000000) with drains := s.drains.set k { d with round := d.round + 1 } }) ∧
      (2 ≤ d.round → ∃ u : State, exec (.drainRoundEnd k) s = .next u ∧ u.time = max s.time (d.since + 7000000) ∧ u.remotes = s.remotes.filter (fun r => r.id ∉ d.remotes) ∧
        (∀ c ∈ u.colls, c.id ∉ d.colls) ∧
        (∀ x ∈ d.parcels, (s.parcel x.1).gen = x.2 → s.parcelBusy (s.parcel x.1) = false → (u.parcel x.1).st ≠ .inTransit) ∧
        ((∀ x ∈ d.parcels, s.parcelBusy (s.parcel x.1) = false) → u.drains = s.drains.eraseIdx k) ∧
        (∀ x ∈ d.parcels, (s.parcel x.1).gen = x.2 → (s.parcel x.1).st = .inTransit → s.parcelBusy (s.parcel x.1) = true → u.parcel x.1 = s.parcel x.1 ∧ ∃ y ∈ u.drains, y.round = 3 ∧ x ∈ y.parcels)))) ∧
  (∀ (s : State) (k : Nat), (s.notices[k]? = none → exec (.linkStateEvent k) s = .next s) ∧
    (∀ n, s.notices[k]? = some n → (s.vifs = [] → exec (.linkStateEvent k) s = .next { s with notices := s.notices.eraseIdx k }) ∧
      (∀ v, s.vifs = [v] → ∃ u : State, exec (.linkStateEvent k) s = .next u ∧ u.notices = s.notices.eraseIdx k ∧ ∃ w, u.vifs = [w] ∧ w.written + w.dropped = v.written + v.dropped + 1)))

namespace Claims

/-- R406: no two diagonal dies are enabled without one between them. -/
def joined (l : List Nat) : Prop := ((0 ∈ l ∧ 3 ∈ l) → 1 ∈ l ∨ 2 ∈ l) ∧ ((1 ∈ l ∧ 2 ∈ l) → 0 ∈ l ∨ 3 ∈ l)
/-- R400: the device may decode the addresses over CXL (ENVCXL). -/
def decoded (s : State) (pa n : Nat) : Prop := ∃ r ∈ s.envCxl, r.1 ≤ pa ∧ pa + n ≤ r.1 + r.2
/-- R394: a core that may replay an audited gang: free, of a class that suits the gang, on another enabled die, or in another quad of the only one. -/
def replays (s : State) (a : Audit) (core : Nat) : Prop :=
  (∃ c k, s.core? core = some c ∧ c.cls = some k ∧ a.classes.getLsbD (classBits k) = true ∧ (a.lb.anyJoint = true → k = .a ∨ k = .b) ∧ (192 < a.lb.lpc → k = .a ∨ k = .c)) ∧ s.onCore core = [] ∧
    ((∃ d ∈ s.dies, d.enabled = true ∧ d.id ≠ a.die) → core / 64 ≠ a.die ∧ (s.die? (core / 64)).map (·.enabled) = some true) ∧
    ((∀ d ∈ s.dies, d.enabled = true → d.id = a.die) → core / 64 = a.die ∧ core / 4 ≠ a.quad)
/-- R400: a thread that runs has the machine check for heat to take at its next boundary. -/
def heated (s : State) (t : Thread) : Thread :=
  if t.run ≠ .exited ∧ t.isParked = false ∧ t.halted = false ∧ s.away t.gang = false then { t with held := t.held ++ [{ cause := 5, pc := t.pc, d0 := 4 }] } else t

end Claims

/-- R15, R187, R188, R236, R243, R331, R367, R369, R372, R387, R394, R398 to R407: the host, firmware
and the environment. Where no host is attached its requests do nothing. A host read of a line of
device memory that is not held answers its 64 bytes, or an error completion where a word of it is in
error, one through Jokebry a die's Galliard counters, its core inventory, its certificate, or
ENVCXL, the size of the heap, the events dropped, or that its image failed, and a host write of populated memory changes the bytes that it names and no other; what
ENVCXL does not decode is neither read nor written. An
invalidation acts on every space of its PASID. A doorbell joins the rung ones, and Jokebry's
registers set the grace, the ring, and lift a hold. The first attachment programs MBASE, the heap
and the save area; a port that goes down leaves it. A verified image boots its die, and another does
not, and is marked as failed. A report begins with its version, the chip and the die. A core may replay an audited gang as R394 says; an audit whose replay has agreed
in its signature, or is abandoned, ends nothing, and one whose signatures differ ends its fault domain and those whose threads have received its lines. An
uncorrectable error marks its word, a correctable one of an array other than memory is corrected and
counted, one of a line of code flips a bit of it, and a scrub corrects and counts the correctable
ones of a die's memory. Heat gives every running thread its machine check, and every die stops; an
envelope register only narrows; without power nothing but the host's memory is left. The numbers of
Jokebry's registers, the place of the heap and how the host's reads and writes meet a held line are
the model's choice, as are that memory reads 0 after the removal of power, that an error which can be corrected waits for a read or the scrub, and how a boot meets R10;
what heat does, and what a signature covers, are its reading (assumptions 2, 7, 26, 27, 36, 68, 69 and 70). -/
def Obligations.HostEventsComplete : Prop :=
  (∀ (s : State), s.attached = [] → (∀ x, exec (.hostRead x) s = .next s) ∧ (∀ pa bs, exec (.hostWrite pa bs) s = .next s) ∧ (∀ pa b, exec (.cxlCacheSnoop pa b) s = .next s) ∧
    (∀ p b n, exec (.atsInvalidationRequest p b n) s = .next s) ∧ (∀ v b, exec (.doorbellRing v b) s = .next s) ∧ (∀ v r x, exec (.jokebryRegisterWrite v r x) s = .next s) ∧
    (∀ v im, exec (.rootRcbCreation v im) s = .next s) ∧ (∀ d n, exec (.attestationRequest d n) s = .next s)) ∧
  (∀ (s : State) (pa : Nat), s.attached ≠ [] → (∃ d, s.physKind pa = .dram d) → s.lineHeld (pa / 64) = false →
    ((∃ w ∈ s.badWords, w / 8 = pa / 64) → exec (.hostRead (.memory pa)) s = .next { s with answer := [] }) ∧
    (¬ Claims.decoded s (64 * (pa / 64)) 64 → exec (.hostRead (.memory pa)) s = .next { s with answer := [] }) ∧
    ((∀ w ∈ s.badWords, w / 8 ≠ pa / 64) → Claims.decoded s (64 * (pa / 64)) 64 → ∃ u : State, exec (.hostRead (.memory pa)) s = .next u ∧ u.answer = readBytes s.mem (pa / 64 * 64) 64 ∧ u.mem = s.mem ∧ u.me = s.me ∧ u.others = s.others)) ∧
  (∀ (s : State) (d : Nat) (x : Die), s.attached ≠ [] → s.die? d = some x → exec (.hostRead (.galliard d)) s = .next { s with answer := x.galliard.toList.flatMap (natBytes 8) } ∧
    exec (.hostRead (.certificate d)) s = .next { s with answer := Config.certificate d } ∧ exec (.hostRead .envCxl) s = .next { s with answer := s.envCxl.flatMap (fun r => natBytes 8 r.1 ++ natBytes 8 r.2) } ∧
    exec (.hostRead .heap) s = .next { s with answer := natBytes 8 s.heapSize } ∧ exec (.hostRead (.boot d)) s = .next { s with answer := [if x.failed then 1 else 0] } ∧
    (∀ v y, s.vifs.find? (fun z => z.id = v) = some y → exec (.hostRead (.dropped v)) s = .next { s with answer := natBytes 8 y.dropped }) ∧
    ∃ bs, exec (.hostRead (.inventory d)) s = .next { s with answer := bs } ∧ bs.length = 64 ∧ ∀ i, i < 64 → bs[i]? = some (BitVec.ofNat 8 (match inventory (64 * d + i) with | some k => classBits k | none => 4))) ∧
  (∀ (s : State) (pa : Nat) (bs : List Byte), s.attached ≠ [] → bs ≠ [] → s.physKind pa ≠ .bad → s.physKind (pa + bs.length - 1) ≠ .bad →
    (¬ Claims.decoded s pa bs.length → exec (.hostWrite pa bs) s = .next s) ∧
    (Claims.decoded s pa bs.length → s.holds = [] → s.handovers = [] → ∃ u : State, exec (.hostWrite pa bs) s = .next u ∧ (s.memoriesWf → ∀ b, readByte u.mem b = Claims.over_ (readByte s.mem) pa (bs.map some) b) ∧ u.regions = s.regions ∧ u.gangs = s.gangs)) ∧
  (∀ (s : State) (pa : Nat) (inv : Bool), s.attached ≠ [] → ∃ u : State, exec (.cxlCacheSnoop pa inv) s = .next u ∧ u.mem = s.mem ∧ u.threads = s.threads ∧
    (s.physKind pa = .host → s.lineHeld (pa / 64) = false → inv = true → (u.lineState (pa / 64)).owner = .home) ∧
    (s.physKind pa = .host → s.lineHeld (pa / 64) = false → inv = false → ∃ ds p m, (u.lineState (pa / 64)).owner = .readers ds (some p) m)) ∧
  (∀ (s : State) (p : BitVec 20) (b n : Nat), s.attached ≠ [] → (b % 4096 ≠ 0 ∨ n = 0 ∨ n % 4096 ≠ 0 → exec (.atsInvalidationRequest p b n) s = .next s) ∧
    (b % 4096 = 0 → n ≠ 0 → n % 4096 = 0 → s.ops = [] → s.remotes = [] → s.colls = [] → s.lates = [] → s.devWrites = [] → s.holds = [] → s.handovers = [] → ∃ u : State, exec (.atsInvalidationRequest p b n) s = .next u ∧
      ∀ r ∈ s.regions, r.pasid = p → (∀ c ∈ u.cores, ∀ e ∈ c.tlb ++ c.walkTlb, ¬ Claims.hit r.asid (some (b, n)) e) ∧ ∀ w ∈ u.windows, w.asid = r.asid → b < w.base + w.size → w.base < b + n → w.broken = true)) ∧
  (∀ (s : State) (v x : Nat) (bell : BitVec 5), s.attached ≠ [] → let set (f : Vif → Vif) : State := { s with vifs := s.vifs.map (fun y => if y.id = v then f y else y) }
    exec (.doorbellRing v bell) s = .next (set (fun y => { y with bells := y.bells ||| (1#32 <<< bell.toNat) })) ∧
    (1 ≤ x → x ≤ 10000 → exec (.jokebryRegisterWrite v 0 x) s = .next (set (fun y => { y with grace := 1000 * x }))) ∧
    (x = 0 ∨ 10000 < x → exec (.jokebryRegisterWrite v 0 x) s = .next s) ∧
    exec (.jokebryRegisterWrite v 1 x) s = .next (set (fun y => { y with ring := x, taken := 0, written := 0 })) ∧
    exec (.jokebryRegisterWrite v 2 x) s = .next (set (fun y => { y with slots := x, taken := 0, written := 0 })) ∧
    exec (.jokebryRegisterWrite v 3 x) s = .next (set (fun y => if y.taken ≤ x ∧ x ≤ y.written then { y with taken := x } else y)) ∧
    (∀ y r, s.vifs.find? (fun z => z.id = v) = some y → y.root = some r →
      exec (.jokebryRegisterWrite v 4 x) s = .next { s with regions := s.regions.map (fun z => if s.reaches r z.num then { z with hold := false } else z) })) ∧
  (∀ (s : State) (d : Nat) (mb : Dword) (h sv : Nat) (x : Die), s.die? d = some x → x.enabled = true →
    (¬ Claims.decoded s mb.toNat (2 ^ 42) → exec (.hostAttachment d mb h sv) s = .next s) ∧
    (s.attached = [] → mb.toNat % 2 ^ 42 = 0 → Claims.decoded s mb.toNat (2 ^ 42) → exec (.hostAttachment d mb h sv) s = .next { s with attached := [d], mbase := mb.toNat, heap := mb.toNat + d * 2 ^ 40, heapSize := h, saveSize := sv }) ∧
    (mb.toNat % 2 ^ 42 ≠ 0 → exec (.hostAttachment d mb h sv) s = .next s) ∧ exec (.cxlPortDown d) s = .next { s with attached := s.attached.filter (fun y => y ≠ d) }) ∧
  (∀ (s : State) (d : Nat) (v : Word) (x : Die), s.die? d = some x → exec (.dieBoot d false v) s = .next { s with powered := true, dies := s.dies.map (fun y => if y.id = d then (if y.enabled then y else { y with failed := true }) else y) } ∧
    (x.enabled = false → (∀ y ∈ s.dies, y.id = d → y.enabled = false) → Claims.joined (d :: (s.dies.filter (·.enabled)).map (·.id)) → ∃ u : State, exec (.dieBoot d true v) s = .next u ∧
      (u.die? d).map (fun y => (y.enabled, y.fw, y.image, y.failed)) = some (true, v, s.fresh, false) ∧ u.mem = s.mem ∧ ∀ k, k ≠ d → u.die? k = s.die? k) ∧
    exec (.firmwareUpdate d false v) s = .next s ∧
    (x.enabled = true → ∃ u : State, exec (.firmwareUpdate d true v) s = .next u ∧ (u.die? d).map (fun y => (y.enabled, y.fw, y.image)) = some (true, v, s.fresh))) ∧
  (∀ (s : State) (d : Nat) (nonce : List Byte) (x : Die), s.attached ≠ [] → s.die? d = some x → x.enabled = true → nonce.length = 48 → ∃ bs, exec (.attestationRequest d nonce) s = .next { s with answer := bs } ∧
    bs.take 7 = [1, 0, 0, 0] ++ natBytes 2 s.chip.toNat ++ [BitVec.ofNat 8 x.id] ∧ (bs.drop 16).take 48 = nonce ∧ bs.length = 0x170) ∧
  (∀ (s : State) (v : Nat) (im : List Byte), s.attached ≠ [] → (im.length ≠ 256 ∨ (∀ y, s.vifs.find? (fun z => z.id = v) = some y → y.root.isSome = true) → exec (.rootRcbCreation v im) s = .next s) ∧
    (∃ u : State, exec (.rootRcbCreation v im) s = .next u ∧ (u = s ∨ ∃ r, u.regions = s.regions ++ [r] ∧ r.parent = 0 ∧ r.state = .active ∧ r.vif = v ∧ ∀ y ∈ u.vifs, y.id = v → y.root = some r.num)) ∧
    (∀ (y : Vif) (d : Die), s.vifs.find? (fun z => z.id = v) = some y → y.root = none → im.length = 256 → s.dies.find? (·.enabled) = some d →
      let n := bytesNat im
      let r : Region := { regionOf s.freeNum 0 v 0 n [] [] with ovr := 0xFFFF }
      ∀ (vw : List Byte) (t u : State) (nodes : List (Node × Nat)) (runs : List (Option Nat)), s.deviceRuns (64 * d.id) r (BitVec.ofNat 64 (r.vdtAddr.toNat / 64 * 64)) 1 [] = some (vw, t) →
        t.deviceNodes (64 * d.id) r r.nodetab (n / 2 ^ 816 % 2 ^ 16) [] = some (nodes, u) →
        let w := bytesNat ((vw.drop (r.vdtAddr.toNat % 64)).take 8)
        let q : Region := { r with nodes := nodes.map (·.1), vdt := vdtOf w }
        (u.rootOk q nodes w = false → exec (.rootRcbCreation v im) s = .next s) ∧
        (u.rootOk q nodes w = true → u.carve q = some runs → ∃ z : State, exec (.rootRcbCreation v im) s = .next z ∧ z.regions = s.regions ++ [{ q with tdwoff := runs }] ∧ ∀ y ∈ z.vifs, y.id = v → y.root = some q.num))) ∧
  (∀ (s : State) (d core : Nat) (x : Audit), (s.replayOk x core = true ↔ Claims.replays s x core) ∧ (s.audits.find? (fun a => a.die = d ∧ a.selected) = none → ∀ r, exec (.auditReplayComplete d ⟨core, r⟩) s = .next s) ∧
    (s.audits.find? (fun a => a.die = d ∧ a.selected) = some x → ∀ out, (x.replay ≠ some ⟨core, out⟩ → exec (.auditReplayComplete d ⟨core, out⟩) s = .next s) ∧
      (x.replay = some ⟨core, out⟩ → ∃ u : State, exec (.auditReplayComplete d ⟨core, out⟩) s = .next u ∧ (∀ y ∈ u.audits, y.gang ≠ x.gang) ∧
        (out = none → u.regions = s.regions ∧ u.audits = s.audits.filter (fun a => a.gang ≠ x.gang)) ∧
        (∀ r : ReplayOut, out = some r → signature r.records r.stores = signature x.records x.stores → u.regions = s.regions ∧ u.audits = s.audits.filter (fun a => a.gang ≠ x.gang)) ∧
        (∀ r : ReplayOut, out = some r → signature r.records r.stores ≠ signature x.records x.stores → ∀ q ∈ u.regions, q.fdom = x.fdom ∨ q.fdom ∈ x.seen → q.state = .dead)))) ∧
  (∀ (s : State) (pa d : Nat) (c : Bool), (s.physKind pa = .bad ∨ s.physKind pa = .host → exec (.softError (.memory pa) c) s = .next s) ∧
    ((∃ k, s.physKind pa = .dram k) → pa / 8 ∉ s.badWords → exec (.softError (.memory pa) false) s = .next { s with badWords := pa / 8 :: s.badWords, weak := s.weak.filter (fun w => w ≠ pa / 8) } ∧
      (pa / 8 ∉ s.weak → exec (.softError (.memory pa) true) s = .next { s with weak := pa / 8 :: s.weak })) ∧
    exec (.scrubPass d) s = .next { s with
      dies := s.dies.map (fun x => if x.id = d then { x with corrected := x.corrected + (s.weak.filter (fun w => s.homeDie (8 * w) = d)).length } else x),
      weak := s.weak.filter (fun w => s.homeDie (8 * w) ≠ d) }) ∧
  (∀ (s : State) (t : Thread) (uid pair : Nat), s.thread? uid = some t → t.run ≠ .exited → pair < 128 → 2 * pair < t.budget →
    exec (.softError (.regs uid pair) true) s = .next { s with dies := s.dies.map (fun x => if x.id = t.die then { x with corrected := x.corrected + 1 } else x) } ∧
    exec (.softError (.regs uid pair) false) s = .next (Claims.setThread s uid (fun t => if pair ∈ t.struck then t else { t with struck := pair :: t.struck }))) ∧
  (∀ (s : State) (core k : Nat) (x : Struck), x ∉ s.struck →
    (x = .l1 core k ∧ (s.l1? core (k / 8)).isSome = true) ∨ (x = .acc core k ∧ (s.acc? core k).isSome = true) ∨ (x = .slate core k ∧ (s.slate? core k).isSome = true) ∨ (x = .tile core k ∧ (s.tile? core k).isSome = true) ∨
      (∃ g p, x = .scratch g core k ∧ s.pad? g core = some p ∧ 8 * k < p.size) →
    exec (.softError x false) s = .next { s with struck := x :: s.struck } ∧
    exec (.softError x true) s = .next { s with dies := s.dies.map (fun y => if y.id = core / 64 then { y with corrected := y.corrected + 1 } else y) }) ∧
  (∀ (s : State) (core line bit : Nat) (c : Core) (b : Bool), s.core? core = some c → (∃ l ∈ c.icache, l.1 = line) → ∃ u : State, exec (.softError (.code core line bit) b) s = .next u ∧ u.me = s.me ∧ u.mem = s.mem ∧
    (u.core? core).map (·.icache) = some (c.icache.map (fun l => if l.1 = line then (l.1, l.2 ^^^ (1#512 <<< (bit % 512))) else l))) ∧
  (∀ (s : State), (∃ u : State, exec .thermalCritical s = .next u ∧ u.threads = s.threads.map (Claims.heated s) ∧ u.mem = s.mem ∧ ∀ d ∈ u.dies, d.stopped = true) ∧
    (∀ v, exec (.envelopeWrite .pow v) s = .next (if v ≤ s.envPow then { s with envPow := v } else s) ∧ exec (.envelopeWrite .inj v) s = .next (if v ≤ s.envInj then { s with envInj := v } else s) ∧
      ∀ l, ((∀ r ∈ l, ∃ e ∈ s.envCxl, e.1 ≤ r.1 ∧ r.1 + r.2 ≤ e.1 + e.2) → exec (.envelopeWrite (.cxl l) v) s = .next { s with envCxl := l }) ∧
        ((∃ r ∈ l, ∀ e ∈ s.envCxl, ¬ (e.1 ≤ r.1 ∧ r.1 + r.2 ≤ e.1 + e.2)) → exec (.envelopeWrite (.cxl l) v) s = .next s)) ∧
    (Memory.wf s.mem = true → ∃ u : State, exec .powerRemoval s = .next u ∧ u.powered = false ∧ u.regions = [] ∧ u.gangs = [] ∧ (∀ t ∈ u.threads, t.run = .exited) ∧ (∀ d ∈ u.dies, d.enabled = false) ∧
      ∀ a, readByte u.mem a = (if s.mbase ≤ a ∧ a < s.mbase + 2 ^ 42 then 0 else readByte s.mem a)))

namespace Claims

/-- The registers that an instruction of the integer family writes: the destination pair, the destination, or none. -/
def writes (i : Instr) : List Reg :=
  match i with
  | .cmp _ _ => []
  | .lea o _ => [o.d, o.d + 1]
  | .popc o _ | .clz o _ => [o.d]
  | .add o m | .sub o m | .mul o m | .mad o m | .mulh o m | .div o m | .rem o m | .min o m | .max o m | .abs o m | .neg o m | .and o m | .or o m | .xor o m | .andn o m | .shl o m | .shr o m | .sar o m
  | .rot o m | .bfx o m | .bfi o m | .brev o m | .addc o m | .subb o m | .sel o m | .mov o m => if m.ty.width = 64 then [o.d, o.d + 1] else [o.d]
  | _ => []
/-- An instruction of the integer family (R97 to R112). -/
def integer : Instr → Bool
  | .add _ _ | .sub _ _ | .mul _ _ | .mad _ _ | .mulh _ _ | .div _ _ | .rem _ _ | .min _ _ | .max _ _ | .abs _ _ | .neg _ _ | .and _ _ | .or _ _ | .xor _ _ | .andn _ _ | .shl _ _ | .shr _ _ | .sar _ _
  | .rot _ _ | .bfx _ _ | .bfi _ _ | .brev _ _ | .addc _ _ | .subb _ _ | .popc _ _ | .clz _ _ | .cmp _ _ | .sel _ _ | .mov _ _ | .lea _ _ => true
  | _ => false
/-- The registers that an instruction of the floating-point and packed families writes at once (R129 to R138, R142 to R144). -/
def floatWrites : Instr → Option (List Reg)
  | .fpCmp _ _ => some []
  | .getexp o _ | .fclass o _ | .padd o _ | .pmul o _ | .pfma o _ | .pmax o _ | .pdot o _ => some [o.d]
  | .fpAdd o m | .fpSub o m | .fpMul o m | .fma o m | .fms o m | .fnma o m | .fnms o m | .fpDiv o m | .sqrt o m | .scale o m | .fpMin o m | .fpMax o m | .rint o m | .fpAbs o m | .fpNeg o m
  | .cpysgn o m => some (if m.ty = .f64 then [o.d, o.d + 1] else [o.d])
  | _ => none
/-- The predicate that an instruction of these families writes: the carry, or the result of a comparison. -/
def writesPred : Instr → Option (BitVec 3)
  | .cmp o _ | .fpCmp o _ => some (o.d.setWidth 3)
  | .addc _ m | .subb _ m => some m.cp
  | _ => none
/-- A thread `u` has gone on from `t` past an instruction `i`, which wrote the registers `ds` and no other; `sr.fsr` and the pending values are spoken of apart. -/
def framed (t u : Thread) (i : Instr) (ds : List Reg) : Prop :=
  u.pc = nextStart t.pc i.syllables ∧ u.run = .ready ∧ (∀ r, r ∉ ds → u.rd r = t.rd r ∧ u.full r = t.full r) ∧ (∀ p, writesPred i.long ≠ some p → u.pred p = t.pred p) ∧
    u.fcr = t.fcr ∧ u.stk = t.stk ∧ u.trapf = t.trapf ∧ u.asid = t.asid ∧ u.ptel = t.ptel ∧ u.ord = t.ord ∧ u.psn = t.psn ∧ u.priv = t.priv ∧ u.handler = t.handler ∧
    u.held = t.held ∧ u.resv = t.resv.map (fun x => { x with age := x.age + 1 })

end Claims

/-- R62, R78, R97 to R112, R121, R127, R129 to R145, R158 to R160: the frame of the families that only compute, with a literal and in their S32 forms. An instruction of the integer family never ends the
run; when it issues, every register but its destination keeps its value and its FE bit, every predicate but the carry of `ADDC` and `SUBB` and the result of `CMP` is unchanged, and so are the special
registers, the pending values, every other thread, every byte of every memory and all the rest of the machine; the PC moves to the next start. The same holds of the floating-point and packed
instructions, with flags that only rise, outside the logged mode, unless an enabled flag makes them take the arithmetic trap; and of the conversions and the special functions while no trap is
enabled, which leave one pending value more. -/
def Obligations.RegisterFrame : Prop :=
  (∀ (i : Instr) (s : State), s.issues i = true → Claims.integer i.long = true →
    ∃ t : Thread, exec i s = .next { s with me := t } ∧ Claims.framed s.me t i (Claims.writes i.long) ∧ t.fsr = s.me.fsr ∧ t.prods.length = s.me.prods.length ∧
      (∀ r, r ∈ Claims.writes i.long → s.me.pending r = false → t.full r = true)) ∧
  (∀ (i : Instr) (s : State) (ds : List Reg), s.issues i = true → Claims.floatWrites i.long = some ds → s.me.fcr.getLsbD 22 = false →
    ((s.me.fcr >>> 4) &&& 63 ≠ 0 ∧ ∃ fl, exec i s = .next (s.trap 11 0 fl)) ∨
    ∃ t : Thread, exec i s = .next { s with me := t } ∧ Claims.framed s.me t i ds ∧ t.fsr &&& s.me.fsr = s.me.fsr ∧ t.prods.length = s.me.prods.length) ∧
  (∀ (i : Instr) (s : State) (d : Reg) (ws : List Word) (fl : Flags), s.issues i = true → Claims.queued s i.long = some (d, ws, fl) → (s.me.fcr >>> 4) &&& 63 = 0 →
    (Claims.isSfu i.long = true → s.sfuFull = false) →
    ∃ t : Thread, exec i s = .next { s with me := t, fresh := s.fresh + 1 } ∧ Claims.framed s.me t i ((List.range ws.length).map (fun k => d + BitVec.ofNat 8 k)) ∧ t.fsr = s.me.fsr ∧
      t.prods.length = s.me.prods.length + 1)
end
end

