-- ==== Sys2Proof/Laws/Memory.lean ====
section
/-! SUPPORT. The laws of byte memories: a write is read back, it leaves every other address, and it keeps the canonical form. -/
namespace Sys2Proof.Machine

/-! ### The canonical form -/

theorem Memory.wfFrom_cons {lo a : Nat} {v : Byte} {m : List Host.Cell} :
    Memory.wfFrom lo ((a, v) :: m) = true ↔ lo ≤ a ∧ v ≠ unlisted ∧ Memory.wfFrom (a + 1) m = true := by
  simp [Memory.wfFrom, and_assoc]

theorem Memory.wfFrom_mono {m : List Host.Cell} {lo lo' : Nat} (h : Memory.wfFrom lo m = true) (l : lo' ≤ lo) : Memory.wfFrom lo' m = true := by
  cases m with
  | nil => rfl
  | cons c m =>
    obtain ⟨h1, h2, h3⟩ := Memory.wfFrom_cons.mp h
    exact Memory.wfFrom_cons.mpr ⟨by omega, h2, h3⟩

/-- Below the first listed address every byte is unlisted. -/
theorem readByte_below {m : List Host.Cell} {lo a : Nat} (h : Memory.wfFrom lo m = true) (l : a < lo) : readByte m a = unlisted := by
  cases m with
  | nil => rfl
  | cons c m =>
    obtain ⟨h1, -, -⟩ := Memory.wfFrom_cons.mp h
    rw [readByte, if_neg (by omega), if_pos (by omega)]

theorem Memory.wfFrom_writeByte {m : List Host.Cell} : ∀ {lo a : Nat} {x : Byte}, Memory.wfFrom lo m = true → lo ≤ a →
    Memory.wfFrom lo (writeByte m a x) = true := by
  induction m with
  | nil =>
    intro lo a x _ l
    unfold writeByte
    split
    · rfl
    · exact Memory.wfFrom_cons.mpr ⟨l, ‹_›, rfl⟩
  | cons c m ih =>
    intro lo a x h l
    obtain ⟨h1, h2, h3⟩ := Memory.wfFrom_cons.mp h
    rw [writeByte]
    split
    · split
      · exact Memory.wfFrom_mono h3 (by omega)
      · exact Memory.wfFrom_cons.mpr ⟨l, ‹_›, by rename_i e _; rw [← e]; exact h3⟩
    · split
      · split
        · exact h
        · exact Memory.wfFrom_cons.mpr ⟨l, ‹_›, Memory.wfFrom_cons.mpr ⟨by omega, h2, h3⟩⟩
      · exact Memory.wfFrom_cons.mpr ⟨h1, h2, ih h3 (by omega)⟩

/-- A store keeps the canonical form. -/
theorem Memory.wf_writeByte {m : List Host.Cell} (h : Memory.wf m = true) (a : Nat) (x : Byte) : Memory.wf (writeByte m a x) = true :=
  Memory.wfFrom_writeByte h (Nat.zero_le a)

theorem Memory.wf_writeBytes (bs : List Byte) : ∀ {m : List Host.Cell} (a : Nat), Memory.wf m = true → Memory.wf (writeBytes m a bs) = true := by
  induction bs with
  | nil => exact fun _ h => h
  | cons b bs ih => exact fun a h => ih (a + 1) (Memory.wf_writeByte h a b)

theorem Memory.wf_writeSome (bs : List (Option Byte)) : ∀ {m : List Host.Cell} (a : Nat), Memory.wf m = true → Memory.wf (writeSome m a bs) = true := by
  induction bs with
  | nil => exact fun _ h => h
  | cons b bs ih =>
    intro m a h
    cases b with
    | none => exact ih (a + 1) h
    | some b => exact ih (a + 1) (Memory.wf_writeByte h a b)

theorem Memory.wfFrom_filter (p : Host.Cell → Bool) {m : List Host.Cell} : ∀ {lo : Nat}, Memory.wfFrom lo m = true → Memory.wfFrom lo (m.filter p) = true := by
  induction m with
  | nil => exact fun h => h
  | cons c m ih =>
    intro lo h
    obtain ⟨h1, h2, h3⟩ := Memory.wfFrom_cons.mp h
    rw [List.filter_cons]
    split
    · exact Memory.wfFrom_cons.mpr ⟨h1, h2, ih h3⟩
    · exact Memory.wfFrom_mono (ih h3) (by omega)

/-- Forgetting addresses keeps the canonical form. -/
theorem Memory.wf_filter (p : Host.Cell → Bool) {m : List Host.Cell} (h : Memory.wf m = true) : Memory.wf (m.filter p) = true := Memory.wfFrom_filter p h

@[simp] theorem Memory.wf_nil : Memory.wf [] = true := rfl

/-! ### Read after write -/

theorem readByte_writeByte_from {m : List Host.Cell} : ∀ {lo a : Nat} {x : Byte} (b : Nat), Memory.wfFrom lo m = true →
    readByte (writeByte m a x) b = if b = a then x else readByte m b := by
  induction m with
  | nil =>
    intro lo a x b _
    simp only [writeByte, readByte]
    by_cases hx : x = unlisted
    · subst hx; simp [readByte]
    · rw [if_neg hx]
      by_cases e : b = a
      · subst e; simp [readByte]
      · simp only [readByte, if_neg (Ne.symm e), if_neg e]; split <;> rfl
  | cons c m ih =>
    obtain ⟨k, v⟩ := c
    intro lo a x b h
    obtain ⟨h1, h2, h3⟩ := Memory.wfFrom_cons.mp h
    rw [writeByte]
    by_cases e : k = a
    · subst e
      rw [if_pos rfl]
      by_cases hx : x = unlisted
      · rw [if_pos hx]
        by_cases l : b = k
        · subst l; rw [if_pos rfl, hx]; exact readByte_below h3 (by omega)
        · rw [if_neg l, readByte.eq_2, if_neg (Ne.symm l)]
          by_cases lt : b < k
          · rw [if_pos lt]; exact readByte_below h3 (by omega)
          · rw [if_neg lt]
      · rw [if_neg hx, readByte.eq_2, readByte.eq_2]
        by_cases l : b = k
        · subst l; simp
        · rw [if_neg (Ne.symm l), if_neg l, if_neg (Ne.symm l)]
    · rw [if_neg e]
      by_cases lt : a < k
      · rw [if_pos lt]
        by_cases hx : x = unlisted
        · rw [if_pos hx]
          by_cases l : b = a
          · subst l; rw [if_pos rfl, hx, readByte, if_neg e, if_pos lt]
          · rw [if_neg l]
        · rw [if_neg hx, readByte.eq_2]
          by_cases l : b = a
          · subst l; rw [if_pos rfl, if_pos rfl]
          · rw [if_neg (Ne.symm l), if_neg l]
            by_cases lb : b < a
            · rw [if_pos lb, readByte, if_neg (by omega), if_pos (by omega)]
            · rw [if_neg lb]
      · rw [if_neg lt, readByte.eq_2, readByte.eq_2, ih b h3]
        by_cases l : k = b
        · subst l; rw [if_pos rfl, if_neg e, if_pos rfl]
        · rw [if_neg l, if_neg l]
          by_cases lb : b < k
          · rw [if_pos lb, if_pos lb, if_neg (by omega)]
          · rw [if_neg lb, if_neg lb]

/-- A byte stored is read back, and every other byte reads as before. -/
theorem readByte_writeByte {m : List Host.Cell} (h : Memory.wf m = true) (a b : Nat) (x : Byte) :
    readByte (writeByte m a x) b = if b = a then x else readByte m b := readByte_writeByte_from b h

/-- A run of bytes leaves every address outside it. -/
theorem readByte_writeBytes_other (bs : List Byte) : ∀ {m : List Host.Cell} (a b : Nat), Memory.wf m = true → (b < a ∨ a + bs.length ≤ b) →
    readByte (writeBytes m a bs) b = readByte m b := by
  induction bs with
  | nil => exact fun _ _ _ _ => rfl
  | cons x bs ih =>
    intro m a b h l
    rw [List.length_cons] at l
    rw [writeBytes, ih (a + 1) b (Memory.wf_writeByte h a x) (by omega), readByte_writeByte h, if_neg (by omega)]

/-- A run of bytes is read back byte by byte. -/
theorem readByte_writeBytes (bs : List Byte) : ∀ {m : List Host.Cell} (a i : Nat) (_ : Memory.wf m = true) (l : i < bs.length),
    readByte (writeBytes m a bs) (a + i) = bs[i] := by
  induction bs with
  | nil => exact fun _ _ _ l => absurd l (Nat.not_lt_zero _)
  | cons x bs ih =>
    intro m a i h l
    have h' := Memory.wf_writeByte h a x
    cases i with
    | zero =>
      rw [writeBytes, readByte_writeBytes_other bs (a + 1) (a + 0) h' (.inl (by omega)), readByte_writeByte h, if_pos (Nat.add_zero a)]
      rfl
    | succ i =>
      rw [writeBytes, show a + (i + 1) = a + 1 + i by omega, ih (a + 1) i h' (by simpa using l)]
      rfl

/-- Reading the bytes just stored gives them. -/
theorem readBytes_writeBytes {m : List Host.Cell} (h : Memory.wf m = true) (a : Nat) (bs : List Byte) :
    readBytes (writeBytes m a bs) a bs.length = bs := by
  apply List.ext_getElem
  · simp [readBytes]
  · intro i _ hi
    simp only [readBytes, List.getElem_map, List.getElem_range]
    exact readByte_writeBytes bs a i h hi

/-! ### Numbers and bytes (R1) -/

@[simp] theorem natBytes_length (k : Nat) : ∀ n, (natBytes k n).length = k := by
  induction k with
  | zero => exact fun _ => rfl
  | succ k ih => exact fun n => by rw [natBytes, List.length_cons, ih]

theorem bytesNat_lt (bs : List Byte) : bytesNat bs < 256 ^ bs.length := by
  induction bs with
  | nil => decide
  | cons b bs ih =>
    have := b.isLt
    rw [bytesNat, List.length_cons, Nat.pow_succ]
    omega

/-- The bytes of a number give the number back, modulo the width. -/
theorem bytesNat_natBytes (k : Nat) : ∀ n, bytesNat (natBytes k n) = n % 256 ^ k := by
  induction k with
  | zero => intro n; simp [natBytes, bytesNat, Nat.mod_one]
  | succ k ih =>
    intro n
    rw [natBytes, bytesNat, ih, BitVec.toNat_ofNat, show 256 ^ (k + 1) = 256 * 256 ^ k by rw [Nat.pow_succ, Nat.mul_comm], Nat.mod_mul]

/-- A number stored is read back. -/
theorem readNat_writeBytes {m : List Host.Cell} (h : Memory.wf m = true) (a k n : Nat) :
    readNat (writeBytes m a (natBytes k n)) a k = n % 256 ^ k := by
  have := readBytes_writeBytes h a (natBytes k n)
  rw [natBytes_length] at this
  rw [readNat, this, bytesNat_natBytes]

/-! ### Equal reads, equal memories -/

theorem eq_of_readByte_from {m : List Host.Cell} : ∀ {m' : List Host.Cell} {lo : Nat}, Memory.wfFrom lo m = true → Memory.wfFrom lo m' = true →
    (∀ a, readByte m a = readByte m' a) → m = m' := by
  induction m with
  | nil =>
    intro m' lo _ h' e
    cases m' with
    | nil => rfl
    | cons c m' =>
      obtain ⟨-, h2, -⟩ := Memory.wfFrom_cons.mp h'
      have := e c.1
      simp only [readByte, if_true] at this
      exact absurd this.symm h2
  | cons c m ih =>
    intro m' lo h h' e
    obtain ⟨h1, h2, h3⟩ := Memory.wfFrom_cons.mp h
    cases m' with
    | nil =>
      have := e c.1
      simp only [readByte, if_true] at this
      exact absurd this h2
    | cons d m' =>
      obtain ⟨g1, g2, g3⟩ := Memory.wfFrom_cons.mp h'
      have key : c.1 = d.1 := by
        rcases Nat.lt_trichotomy c.1 d.1 with l | l | l
        · have := e c.1
          rw [readByte.eq_2, if_pos rfl, readByte.eq_2, if_neg (by omega), if_pos l] at this
          exact absurd this h2
        · exact l
        · have := e d.1
          rw [readByte.eq_2, if_neg (by omega), if_pos l, readByte.eq_2, if_pos rfl] at this
          exact absurd this.symm g2
      have val : c.2 = d.2 := by
        have := e c.1
        rwa [readByte.eq_2, if_pos rfl, readByte.eq_2, if_pos key.symm] at this
      have hc : c = d := Prod.ext key val
      subst hc
      rw [ih h3 g3 (fun a => ?_)]
      rcases Nat.lt_or_ge a (c.1 + 1) with l | l
      · rw [readByte_below h3 l, readByte_below g3 l]
      · have := e a
        rwa [readByte.eq_2, if_neg (by omega), if_neg (by omega), readByte.eq_2, if_neg (by omega), if_neg (by omega)] at this

/-- Canonical memories that read alike are equal data. -/
theorem eq_of_readByte {m m' : List Host.Cell} (h : Memory.wf m = true) (h' : Memory.wf m' = true) (e : ∀ a, readByte m a = readByte m' a) : m = m' :=
  eq_of_readByte_from h h' e

end Sys2Proof.Machine
end

