-- ==== Sys2Proof/Laws/State.lean ====
section
/-! SUPPORT. What each named update of `State` and of `Thread` leaves: one lemma per field per update, so that no proof unfolds a record update. -/
namespace Sys2Proof.Machine

section
variable (s : State) (f : Thread → Thread)
@[simp] theorem State.upd_me : (s.upd f).me = f s.me := rfl
@[simp] theorem State.upd_others : (s.upd f).others = s.others := rfl
@[simp] theorem State.upd_groups : (s.upd f).groups = s.groups := rfl
@[simp] theorem State.upd_gangs : (s.upd f).gangs = s.gangs := rfl
@[simp] theorem State.upd_pads : (s.upd f).pads = s.pads := rfl
@[simp] theorem State.upd_cores : (s.upd f).cores = s.cores := rfl
@[simp] theorem State.upd_dies : (s.upd f).dies = s.dies := rfl
@[simp] theorem State.upd_purlin : (s.upd f).purlin = s.purlin := rfl
@[simp] theorem State.upd_mem : (s.upd f).mem = s.mem := rfl
@[simp] theorem State.upd_lines : (s.upd f).lines = s.lines := rfl
@[simp] theorem State.upd_counted : (s.upd f).counted = s.counted := rfl
@[simp] theorem State.upd_past : (s.upd f).past = s.past := rfl
@[simp] theorem State.upd_phases : (s.upd f).phases = s.phases := rfl
@[simp] theorem State.upd_ops : (s.upd f).ops = s.ops := rfl
@[simp] theorem State.upd_holds : (s.upd f).holds = s.holds := rfl
@[simp] theorem State.upd_handovers : (s.upd f).handovers = s.handovers := rfl
@[simp] theorem State.upd_pageReqs : (s.upd f).pageReqs = s.pageReqs := rfl
@[simp] theorem State.upd_devWrites : (s.upd f).devWrites = s.devWrites := rfl
@[simp] theorem State.upd_regions : (s.upd f).regions = s.regions := rfl
@[simp] theorem State.upd_tiles : (s.upd f).tiles = s.tiles := rfl
@[simp] theorem State.upd_copies : (s.upd f).copies = s.copies := rfl
@[simp] theorem State.upd_streams : (s.upd f).streams = s.streams := rfl
@[simp] theorem State.upd_matrix : (s.upd f).matrix = s.matrix := rfl
@[simp] theorem State.upd_slates : (s.upd f).slates = s.slates := rfl
@[simp] theorem State.upd_accs : (s.upd f).accs = s.accs := rfl
@[simp] theorem State.upd_binds : (s.upd f).binds = s.binds := rfl
@[simp] theorem State.upd_shadows : (s.upd f).shadows = s.shadows := rfl
@[simp] theorem State.upd_lates : (s.upd f).lates = s.lates := rfl
@[simp] theorem State.upd_batches : (s.upd f).batches = s.batches := rfl
@[simp] theorem State.upd_cards : (s.upd f).cards = s.cards := rfl
@[simp] theorem State.upd_ready : (s.upd f).ready = s.ready := rfl
@[simp] theorem State.upd_blocks : (s.upd f).blocks = s.blocks := rfl
@[simp] theorem State.upd_parcels : (s.upd f).parcels = s.parcels := rfl
@[simp] theorem State.upd_posts : (s.upd f).posts = s.posts := rfl
@[simp] theorem State.upd_windows : (s.upd f).windows = s.windows := rfl
@[simp] theorem State.upd_remotes : (s.upd f).remotes = s.remotes := rfl
@[simp] theorem State.upd_colls : (s.upd f).colls = s.colls := rfl
@[simp] theorem State.upd_ports : (s.upd f).ports = s.ports := rfl
@[simp] theorem State.upd_links : (s.upd f).links = s.links := rfl
@[simp] theorem State.upd_drains : (s.upd f).drains = s.drains := rfl
@[simp] theorem State.upd_notices : (s.upd f).notices = s.notices := rfl
@[simp] theorem State.upd_routes : (s.upd f).routes = s.routes := rfl
@[simp] theorem State.upd_eaves : (s.upd f).eaves = s.eaves := rfl
@[simp] theorem State.upd_vifs : (s.upd f).vifs = s.vifs := rfl
@[simp] theorem State.upd_audits : (s.upd f).audits = s.audits := rfl
@[simp] theorem State.upd_badWords : (s.upd f).badWords = s.badWords := rfl
@[simp] theorem State.upd_weak : (s.upd f).weak = s.weak := rfl
@[simp] theorem State.upd_struck : (s.upd f).struck = s.struck := rfl
@[simp] theorem State.upd_answer : (s.upd f).answer = s.answer := rfl
@[simp] theorem State.upd_chip : (s.upd f).chip = s.chip := rfl
@[simp] theorem State.upd_heap : (s.upd f).heap = s.heap := rfl
@[simp] theorem State.upd_heapSize : (s.upd f).heapSize = s.heapSize := rfl
@[simp] theorem State.upd_saveSize : (s.upd f).saveSize = s.saveSize := rfl
@[simp] theorem State.upd_envPow : (s.upd f).envPow = s.envPow := rfl
@[simp] theorem State.upd_envInj : (s.upd f).envInj = s.envInj := rfl
@[simp] theorem State.upd_envCxl : (s.upd f).envCxl = s.envCxl := rfl
@[simp] theorem State.upd_attached : (s.upd f).attached = s.attached := rfl
@[simp] theorem State.upd_powered : (s.upd f).powered = s.powered := rfl
@[simp] theorem State.upd_mbase : (s.upd f).mbase = s.mbase := rfl
@[simp] theorem State.upd_time : (s.upd f).time = s.time := rfl
@[simp] theorem State.upd_fresh : (s.upd f).fresh = s.fresh := rfl
@[simp] theorem State.upd_turns : (s.upd f).turns = s.turns := rfl
@[simp] theorem State.upd_cycle : (s.upd f).cycle = s.cycle := rfl
@[simp] theorem State.upd_bundle : (s.upd f).bundle = s.bundle := rfl
@[simp] theorem State.upd_agenda : (s.upd f).agenda = s.agenda := rfl
end

section
variable (s : State) (f : Thread → Thread)
@[simp] theorem State.mapThreads_me : (s.mapThreads f).me = f s.me := rfl
@[simp] theorem State.mapThreads_others : (s.mapThreads f).others = s.others.map f := rfl
@[simp] theorem State.mapThreads_groups : (s.mapThreads f).groups = s.groups := rfl
@[simp] theorem State.mapThreads_gangs : (s.mapThreads f).gangs = s.gangs := rfl
@[simp] theorem State.mapThreads_pads : (s.mapThreads f).pads = s.pads := rfl
@[simp] theorem State.mapThreads_cores : (s.mapThreads f).cores = s.cores := rfl
@[simp] theorem State.mapThreads_dies : (s.mapThreads f).dies = s.dies := rfl
@[simp] theorem State.mapThreads_purlin : (s.mapThreads f).purlin = s.purlin := rfl
@[simp] theorem State.mapThreads_mem : (s.mapThreads f).mem = s.mem := rfl
@[simp] theorem State.mapThreads_lines : (s.mapThreads f).lines = s.lines := rfl
@[simp] theorem State.mapThreads_counted : (s.mapThreads f).counted = s.counted := rfl
@[simp] theorem State.mapThreads_past : (s.mapThreads f).past = s.past := rfl
@[simp] theorem State.mapThreads_phases : (s.mapThreads f).phases = s.phases := rfl
@[simp] theorem State.mapThreads_ops : (s.mapThreads f).ops = s.ops := rfl
@[simp] theorem State.mapThreads_holds : (s.mapThreads f).holds = s.holds := rfl
@[simp] theorem State.mapThreads_handovers : (s.mapThreads f).handovers = s.handovers := rfl
@[simp] theorem State.mapThreads_pageReqs : (s.mapThreads f).pageReqs = s.pageReqs := rfl
@[simp] theorem State.mapThreads_devWrites : (s.mapThreads f).devWrites = s.devWrites := rfl
@[simp] theorem State.mapThreads_regions : (s.mapThreads f).regions = s.regions := rfl
@[simp] theorem State.mapThreads_tiles : (s.mapThreads f).tiles = s.tiles := rfl
@[simp] theorem State.mapThreads_copies : (s.mapThreads f).copies = s.copies := rfl
@[simp] theorem State.mapThreads_streams : (s.mapThreads f).streams = s.streams := rfl
@[simp] theorem State.mapThreads_matrix : (s.mapThreads f).matrix = s.matrix := rfl
@[simp] theorem State.mapThreads_slates : (s.mapThreads f).slates = s.slates := rfl
@[simp] theorem State.mapThreads_accs : (s.mapThreads f).accs = s.accs := rfl
@[simp] theorem State.mapThreads_binds : (s.mapThreads f).binds = s.binds := rfl
@[simp] theorem State.mapThreads_shadows : (s.mapThreads f).shadows = s.shadows := rfl
@[simp] theorem State.mapThreads_lates : (s.mapThreads f).lates = s.lates := rfl
@[simp] theorem State.mapThreads_batches : (s.mapThreads f).batches = s.batches := rfl
@[simp] theorem State.mapThreads_cards : (s.mapThreads f).cards = s.cards := rfl
@[simp] theorem State.mapThreads_ready : (s.mapThreads f).ready = s.ready := rfl
@[simp] theorem State.mapThreads_blocks : (s.mapThreads f).blocks = s.blocks := rfl
@[simp] theorem State.mapThreads_parcels : (s.mapThreads f).parcels = s.parcels := rfl
@[simp] theorem State.mapThreads_posts : (s.mapThreads f).posts = s.posts := rfl
@[simp] theorem State.mapThreads_windows : (s.mapThreads f).windows = s.windows := rfl
@[simp] theorem State.mapThreads_remotes : (s.mapThreads f).remotes = s.remotes := rfl
@[simp] theorem State.mapThreads_colls : (s.mapThreads f).colls = s.colls := rfl
@[simp] theorem State.mapThreads_ports : (s.mapThreads f).ports = s.ports := rfl
@[simp] theorem State.mapThreads_links : (s.mapThreads f).links = s.links := rfl
@[simp] theorem State.mapThreads_drains : (s.mapThreads f).drains = s.drains := rfl
@[simp] theorem State.mapThreads_notices : (s.mapThreads f).notices = s.notices := rfl
@[simp] theorem State.mapThreads_routes : (s.mapThreads f).routes = s.routes := rfl
@[simp] theorem State.mapThreads_eaves : (s.mapThreads f).eaves = s.eaves := rfl
@[simp] theorem State.mapThreads_vifs : (s.mapThreads f).vifs = s.vifs := rfl
@[simp] theorem State.mapThreads_audits : (s.mapThreads f).audits = s.audits := rfl
@[simp] theorem State.mapThreads_badWords : (s.mapThreads f).badWords = s.badWords := rfl
@[simp] theorem State.mapThreads_weak : (s.mapThreads f).weak = s.weak := rfl
@[simp] theorem State.mapThreads_struck : (s.mapThreads f).struck = s.struck := rfl
@[simp] theorem State.mapThreads_answer : (s.mapThreads f).answer = s.answer := rfl
@[simp] theorem State.mapThreads_chip : (s.mapThreads f).chip = s.chip := rfl
@[simp] theorem State.mapThreads_heap : (s.mapThreads f).heap = s.heap := rfl
@[simp] theorem State.mapThreads_heapSize : (s.mapThreads f).heapSize = s.heapSize := rfl
@[simp] theorem State.mapThreads_saveSize : (s.mapThreads f).saveSize = s.saveSize := rfl
@[simp] theorem State.mapThreads_envPow : (s.mapThreads f).envPow = s.envPow := rfl
@[simp] theorem State.mapThreads_envInj : (s.mapThreads f).envInj = s.envInj := rfl
@[simp] theorem State.mapThreads_envCxl : (s.mapThreads f).envCxl = s.envCxl := rfl
@[simp] theorem State.mapThreads_attached : (s.mapThreads f).attached = s.attached := rfl
@[simp] theorem State.mapThreads_powered : (s.mapThreads f).powered = s.powered := rfl
@[simp] theorem State.mapThreads_mbase : (s.mapThreads f).mbase = s.mbase := rfl
@[simp] theorem State.mapThreads_time : (s.mapThreads f).time = s.time := rfl
@[simp] theorem State.mapThreads_fresh : (s.mapThreads f).fresh = s.fresh := rfl
@[simp] theorem State.mapThreads_turns : (s.mapThreads f).turns = s.turns := rfl
@[simp] theorem State.mapThreads_cycle : (s.mapThreads f).cycle = s.cycle := rfl
@[simp] theorem State.mapThreads_bundle : (s.mapThreads f).bundle = s.bundle := rfl
@[simp] theorem State.mapThreads_agenda : (s.mapThreads f).agenda = s.agenda := rfl
end

section
variable (s : State) (u : Nat) (f : Thread → Thread)
@[simp] theorem State.mapThread_me : (s.mapThread u f).me = if s.me.uid = u then f s.me else s.me := rfl
@[simp] theorem State.mapThread_others : (s.mapThread u f).others = s.others.map (fun t => if t.uid = u then f t else t) := rfl
@[simp] theorem State.mapThread_groups : (s.mapThread u f).groups = s.groups := rfl
@[simp] theorem State.mapThread_gangs : (s.mapThread u f).gangs = s.gangs := rfl
@[simp] theorem State.mapThread_pads : (s.mapThread u f).pads = s.pads := rfl
@[simp] theorem State.mapThread_cores : (s.mapThread u f).cores = s.cores := rfl
@[simp] theorem State.mapThread_dies : (s.mapThread u f).dies = s.dies := rfl
@[simp] theorem State.mapThread_purlin : (s.mapThread u f).purlin = s.purlin := rfl
@[simp] theorem State.mapThread_mem : (s.mapThread u f).mem = s.mem := rfl
@[simp] theorem State.mapThread_lines : (s.mapThread u f).lines = s.lines := rfl
@[simp] theorem State.mapThread_counted : (s.mapThread u f).counted = s.counted := rfl
@[simp] theorem State.mapThread_past : (s.mapThread u f).past = s.past := rfl
@[simp] theorem State.mapThread_phases : (s.mapThread u f).phases = s.phases := rfl
@[simp] theorem State.mapThread_ops : (s.mapThread u f).ops = s.ops := rfl
@[simp] theorem State.mapThread_holds : (s.mapThread u f).holds = s.holds := rfl
@[simp] theorem State.mapThread_handovers : (s.mapThread u f).handovers = s.handovers := rfl
@[simp] theorem State.mapThread_pageReqs : (s.mapThread u f).pageReqs = s.pageReqs := rfl
@[simp] theorem State.mapThread_devWrites : (s.mapThread u f).devWrites = s.devWrites := rfl
@[simp] theorem State.mapThread_regions : (s.mapThread u f).regions = s.regions := rfl
@[simp] theorem State.mapThread_tiles : (s.mapThread u f).tiles = s.tiles := rfl
@[simp] theorem State.mapThread_copies : (s.mapThread u f).copies = s.copies := rfl
@[simp] theorem State.mapThread_streams : (s.mapThread u f).streams = s.streams := rfl
@[simp] theorem State.mapThread_matrix : (s.mapThread u f).matrix = s.matrix := rfl
@[simp] theorem State.mapThread_slates : (s.mapThread u f).slates = s.slates := rfl
@[simp] theorem State.mapThread_accs : (s.mapThread u f).accs = s.accs := rfl
@[simp] theorem State.mapThread_binds : (s.mapThread u f).binds = s.binds := rfl
@[simp] theorem State.mapThread_shadows : (s.mapThread u f).shadows = s.shadows := rfl
@[simp] theorem State.mapThread_lates : (s.mapThread u f).lates = s.lates := rfl
@[simp] theorem State.mapThread_batches : (s.mapThread u f).batches = s.batches := rfl
@[simp] theorem State.mapThread_cards : (s.mapThread u f).cards = s.cards := rfl
@[simp] theorem State.mapThread_ready : (s.mapThread u f).ready = s.ready := rfl
@[simp] theorem State.mapThread_blocks : (s.mapThread u f).blocks = s.blocks := rfl
@[simp] theorem State.mapThread_parcels : (s.mapThread u f).parcels = s.parcels := rfl
@[simp] theorem State.mapThread_posts : (s.mapThread u f).posts = s.posts := rfl
@[simp] theorem State.mapThread_windows : (s.mapThread u f).windows = s.windows := rfl
@[simp] theorem State.mapThread_remotes : (s.mapThread u f).remotes = s.remotes := rfl
@[simp] theorem State.mapThread_colls : (s.mapThread u f).colls = s.colls := rfl
@[simp] theorem State.mapThread_ports : (s.mapThread u f).ports = s.ports := rfl
@[simp] theorem State.mapThread_links : (s.mapThread u f).links = s.links := rfl
@[simp] theorem State.mapThread_drains : (s.mapThread u f).drains = s.drains := rfl
@[simp] theorem State.mapThread_notices : (s.mapThread u f).notices = s.notices := rfl
@[simp] theorem State.mapThread_routes : (s.mapThread u f).routes = s.routes := rfl
@[simp] theorem State.mapThread_eaves : (s.mapThread u f).eaves = s.eaves := rfl
@[simp] theorem State.mapThread_vifs : (s.mapThread u f).vifs = s.vifs := rfl
@[simp] theorem State.mapThread_audits : (s.mapThread u f).audits = s.audits := rfl
@[simp] theorem State.mapThread_badWords : (s.mapThread u f).badWords = s.badWords := rfl
@[simp] theorem State.mapThread_weak : (s.mapThread u f).weak = s.weak := rfl
@[simp] theorem State.mapThread_struck : (s.mapThread u f).struck = s.struck := rfl
@[simp] theorem State.mapThread_answer : (s.mapThread u f).answer = s.answer := rfl
@[simp] theorem State.mapThread_chip : (s.mapThread u f).chip = s.chip := rfl
@[simp] theorem State.mapThread_heap : (s.mapThread u f).heap = s.heap := rfl
@[simp] theorem State.mapThread_heapSize : (s.mapThread u f).heapSize = s.heapSize := rfl
@[simp] theorem State.mapThread_saveSize : (s.mapThread u f).saveSize = s.saveSize := rfl
@[simp] theorem State.mapThread_envPow : (s.mapThread u f).envPow = s.envPow := rfl
@[simp] theorem State.mapThread_envInj : (s.mapThread u f).envInj = s.envInj := rfl
@[simp] theorem State.mapThread_envCxl : (s.mapThread u f).envCxl = s.envCxl := rfl
@[simp] theorem State.mapThread_attached : (s.mapThread u f).attached = s.attached := rfl
@[simp] theorem State.mapThread_powered : (s.mapThread u f).powered = s.powered := rfl
@[simp] theorem State.mapThread_mbase : (s.mapThread u f).mbase = s.mbase := rfl
@[simp] theorem State.mapThread_time : (s.mapThread u f).time = s.time := rfl
@[simp] theorem State.mapThread_fresh : (s.mapThread u f).fresh = s.fresh := rfl
@[simp] theorem State.mapThread_turns : (s.mapThread u f).turns = s.turns := rfl
@[simp] theorem State.mapThread_cycle : (s.mapThread u f).cycle = s.cycle := rfl
@[simp] theorem State.mapThread_bundle : (s.mapThread u f).bundle = s.bundle := rfl
@[simp] theorem State.mapThread_agenda : (s.mapThread u f).agenda = s.agenda := rfl
end

section
variable (s : State) (t : Thread) (f : Group → Group)
@[simp] theorem State.mapGroup_me : (s.mapGroup t f).me = s.me := rfl
@[simp] theorem State.mapGroup_others : (s.mapGroup t f).others = s.others := rfl
@[simp] theorem State.mapGroup_groups : (s.mapGroup t f).groups = s.groups.map (fun g => if g.gang = t.gang ∧ g.role = t.role ∧ g.gid = t.gid then f g else g) := rfl
@[simp] theorem State.mapGroup_gangs : (s.mapGroup t f).gangs = s.gangs := rfl
@[simp] theorem State.mapGroup_pads : (s.mapGroup t f).pads = s.pads := rfl
@[simp] theorem State.mapGroup_cores : (s.mapGroup t f).cores = s.cores := rfl
@[simp] theorem State.mapGroup_dies : (s.mapGroup t f).dies = s.dies := rfl
@[simp] theorem State.mapGroup_purlin : (s.mapGroup t f).purlin = s.purlin := rfl
@[simp] theorem State.mapGroup_mem : (s.mapGroup t f).mem = s.mem := rfl
@[simp] theorem State.mapGroup_lines : (s.mapGroup t f).lines = s.lines := rfl
@[simp] theorem State.mapGroup_counted : (s.mapGroup t f).counted = s.counted := rfl
@[simp] theorem State.mapGroup_past : (s.mapGroup t f).past = s.past := rfl
@[simp] theorem State.mapGroup_phases : (s.mapGroup t f).phases = s.phases := rfl
@[simp] theorem State.mapGroup_ops : (s.mapGroup t f).ops = s.ops := rfl
@[simp] theorem State.mapGroup_holds : (s.mapGroup t f).holds = s.holds := rfl
@[simp] theorem State.mapGroup_handovers : (s.mapGroup t f).handovers = s.handovers := rfl
@[simp] theorem State.mapGroup_pageReqs : (s.mapGroup t f).pageReqs = s.pageReqs := rfl
@[simp] theorem State.mapGroup_devWrites : (s.mapGroup t f).devWrites = s.devWrites := rfl
@[simp] theorem State.mapGroup_regions : (s.mapGroup t f).regions = s.regions := rfl
@[simp] theorem State.mapGroup_tiles : (s.mapGroup t f).tiles = s.tiles := rfl
@[simp] theorem State.mapGroup_copies : (s.mapGroup t f).copies = s.copies := rfl
@[simp] theorem State.mapGroup_streams : (s.mapGroup t f).streams = s.streams := rfl
@[simp] theorem State.mapGroup_matrix : (s.mapGroup t f).matrix = s.matrix := rfl
@[simp] theorem State.mapGroup_slates : (s.mapGroup t f).slates = s.slates := rfl
@[simp] theorem State.mapGroup_accs : (s.mapGroup t f).accs = s.accs := rfl
@[simp] theorem State.mapGroup_binds : (s.mapGroup t f).binds = s.binds := rfl
@[simp] theorem State.mapGroup_shadows : (s.mapGroup t f).shadows = s.shadows := rfl
@[simp] theorem State.mapGroup_lates : (s.mapGroup t f).lates = s.lates := rfl
@[simp] theorem State.mapGroup_batches : (s.mapGroup t f).batches = s.batches := rfl
@[simp] theorem State.mapGroup_cards : (s.mapGroup t f).cards = s.cards := rfl
@[simp] theorem State.mapGroup_ready : (s.mapGroup t f).ready = s.ready := rfl
@[simp] theorem State.mapGroup_blocks : (s.mapGroup t f).blocks = s.blocks := rfl
@[simp] theorem State.mapGroup_parcels : (s.mapGroup t f).parcels = s.parcels := rfl
@[simp] theorem State.mapGroup_posts : (s.mapGroup t f).posts = s.posts := rfl
@[simp] theorem State.mapGroup_windows : (s.mapGroup t f).windows = s.windows := rfl
@[simp] theorem State.mapGroup_remotes : (s.mapGroup t f).remotes = s.remotes := rfl
@[simp] theorem State.mapGroup_colls : (s.mapGroup t f).colls = s.colls := rfl
@[simp] theorem State.mapGroup_ports : (s.mapGroup t f).ports = s.ports := rfl
@[simp] theorem State.mapGroup_links : (s.mapGroup t f).links = s.links := rfl
@[simp] theorem State.mapGroup_drains : (s.mapGroup t f).drains = s.drains := rfl
@[simp] theorem State.mapGroup_notices : (s.mapGroup t f).notices = s.notices := rfl
@[simp] theorem State.mapGroup_routes : (s.mapGroup t f).routes = s.routes := rfl
@[simp] theorem State.mapGroup_eaves : (s.mapGroup t f).eaves = s.eaves := rfl
@[simp] theorem State.mapGroup_vifs : (s.mapGroup t f).vifs = s.vifs := rfl
@[simp] theorem State.mapGroup_audits : (s.mapGroup t f).audits = s.audits := rfl
@[simp] theorem State.mapGroup_badWords : (s.mapGroup t f).badWords = s.badWords := rfl
@[simp] theorem State.mapGroup_weak : (s.mapGroup t f).weak = s.weak := rfl
@[simp] theorem State.mapGroup_struck : (s.mapGroup t f).struck = s.struck := rfl
@[simp] theorem State.mapGroup_answer : (s.mapGroup t f).answer = s.answer := rfl
@[simp] theorem State.mapGroup_chip : (s.mapGroup t f).chip = s.chip := rfl
@[simp] theorem State.mapGroup_heap : (s.mapGroup t f).heap = s.heap := rfl
@[simp] theorem State.mapGroup_heapSize : (s.mapGroup t f).heapSize = s.heapSize := rfl
@[simp] theorem State.mapGroup_saveSize : (s.mapGroup t f).saveSize = s.saveSize := rfl
@[simp] theorem State.mapGroup_envPow : (s.mapGroup t f).envPow = s.envPow := rfl
@[simp] theorem State.mapGroup_envInj : (s.mapGroup t f).envInj = s.envInj := rfl
@[simp] theorem State.mapGroup_envCxl : (s.mapGroup t f).envCxl = s.envCxl := rfl
@[simp] theorem State.mapGroup_attached : (s.mapGroup t f).attached = s.attached := rfl
@[simp] theorem State.mapGroup_powered : (s.mapGroup t f).powered = s.powered := rfl
@[simp] theorem State.mapGroup_mbase : (s.mapGroup t f).mbase = s.mbase := rfl
@[simp] theorem State.mapGroup_time : (s.mapGroup t f).time = s.time := rfl
@[simp] theorem State.mapGroup_fresh : (s.mapGroup t f).fresh = s.fresh := rfl
@[simp] theorem State.mapGroup_turns : (s.mapGroup t f).turns = s.turns := rfl
@[simp] theorem State.mapGroup_cycle : (s.mapGroup t f).cycle = s.cycle := rfl
@[simp] theorem State.mapGroup_bundle : (s.mapGroup t f).bundle = s.bundle := rfl
@[simp] theorem State.mapGroup_agenda : (s.mapGroup t f).agenda = s.agenda := rfl
end

section
variable (s : State) (n : Nat) (f : Gang → Gang)
@[simp] theorem State.mapGang_me : (s.mapGang n f).me = s.me := rfl
@[simp] theorem State.mapGang_others : (s.mapGang n f).others = s.others := rfl
@[simp] theorem State.mapGang_groups : (s.mapGang n f).groups = s.groups := rfl
@[simp] theorem State.mapGang_gangs : (s.mapGang n f).gangs = s.gangs.map (fun g => if g.id = n then f g else g) := rfl
@[simp] theorem State.mapGang_pads : (s.mapGang n f).pads = s.pads := rfl
@[simp] theorem State.mapGang_cores : (s.mapGang n f).cores = s.cores := rfl
@[simp] theorem State.mapGang_dies : (s.mapGang n f).dies = s.dies := rfl
@[simp] theorem State.mapGang_purlin : (s.mapGang n f).purlin = s.purlin := rfl
@[simp] theorem State.mapGang_mem : (s.mapGang n f).mem = s.mem := rfl
@[simp] theorem State.mapGang_lines : (s.mapGang n f).lines = s.lines := rfl
@[simp] theorem State.mapGang_counted : (s.mapGang n f).counted = s.counted := rfl
@[simp] theorem State.mapGang_past : (s.mapGang n f).past = s.past := rfl
@[simp] theorem State.mapGang_phases : (s.mapGang n f).phases = s.phases := rfl
@[simp] theorem State.mapGang_ops : (s.mapGang n f).ops = s.ops := rfl
@[simp] theorem State.mapGang_holds : (s.mapGang n f).holds = s.holds := rfl
@[simp] theorem State.mapGang_handovers : (s.mapGang n f).handovers = s.handovers := rfl
@[simp] theorem State.mapGang_pageReqs : (s.mapGang n f).pageReqs = s.pageReqs := rfl
@[simp] theorem State.mapGang_devWrites : (s.mapGang n f).devWrites = s.devWrites := rfl
@[simp] theorem State.mapGang_regions : (s.mapGang n f).regions = s.regions := rfl
@[simp] theorem State.mapGang_tiles : (s.mapGang n f).tiles = s.tiles := rfl
@[simp] theorem State.mapGang_copies : (s.mapGang n f).copies = s.copies := rfl
@[simp] theorem State.mapGang_streams : (s.mapGang n f).streams = s.streams := rfl
@[simp] theorem State.mapGang_matrix : (s.mapGang n f).matrix = s.matrix := rfl
@[simp] theorem State.mapGang_slates : (s.mapGang n f).slates = s.slates := rfl
@[simp] theorem State.mapGang_accs : (s.mapGang n f).accs = s.accs := rfl
@[simp] theorem State.mapGang_binds : (s.mapGang n f).binds = s.binds := rfl
@[simp] theorem State.mapGang_shadows : (s.mapGang n f).shadows = s.shadows := rfl
@[simp] theorem State.mapGang_lates : (s.mapGang n f).lates = s.lates := rfl
@[simp] theorem State.mapGang_batches : (s.mapGang n f).batches = s.batches := rfl
@[simp] theorem State.mapGang_cards : (s.mapGang n f).cards = s.cards := rfl
@[simp] theorem State.mapGang_ready : (s.mapGang n f).ready = s.ready := rfl
@[simp] theorem State.mapGang_blocks : (s.mapGang n f).blocks = s.blocks := rfl
@[simp] theorem State.mapGang_parcels : (s.mapGang n f).parcels = s.parcels := rfl
@[simp] theorem State.mapGang_posts : (s.mapGang n f).posts = s.posts := rfl
@[simp] theorem State.mapGang_windows : (s.mapGang n f).windows = s.windows := rfl
@[simp] theorem State.mapGang_remotes : (s.mapGang n f).remotes = s.remotes := rfl
@[simp] theorem State.mapGang_colls : (s.mapGang n f).colls = s.colls := rfl
@[simp] theorem State.mapGang_ports : (s.mapGang n f).ports = s.ports := rfl
@[simp] theorem State.mapGang_links : (s.mapGang n f).links = s.links := rfl
@[simp] theorem State.mapGang_drains : (s.mapGang n f).drains = s.drains := rfl
@[simp] theorem State.mapGang_notices : (s.mapGang n f).notices = s.notices := rfl
@[simp] theorem State.mapGang_routes : (s.mapGang n f).routes = s.routes := rfl
@[simp] theorem State.mapGang_eaves : (s.mapGang n f).eaves = s.eaves := rfl
@[simp] theorem State.mapGang_vifs : (s.mapGang n f).vifs = s.vifs := rfl
@[simp] theorem State.mapGang_audits : (s.mapGang n f).audits = s.audits := rfl
@[simp] theorem State.mapGang_badWords : (s.mapGang n f).badWords = s.badWords := rfl
@[simp] theorem State.mapGang_weak : (s.mapGang n f).weak = s.weak := rfl
@[simp] theorem State.mapGang_struck : (s.mapGang n f).struck = s.struck := rfl
@[simp] theorem State.mapGang_answer : (s.mapGang n f).answer = s.answer := rfl
@[simp] theorem State.mapGang_chip : (s.mapGang n f).chip = s.chip := rfl
@[simp] theorem State.mapGang_heap : (s.mapGang n f).heap = s.heap := rfl
@[simp] theorem State.mapGang_heapSize : (s.mapGang n f).heapSize = s.heapSize := rfl
@[simp] theorem State.mapGang_saveSize : (s.mapGang n f).saveSize = s.saveSize := rfl
@[simp] theorem State.mapGang_envPow : (s.mapGang n f).envPow = s.envPow := rfl
@[simp] theorem State.mapGang_envInj : (s.mapGang n f).envInj = s.envInj := rfl
@[simp] theorem State.mapGang_envCxl : (s.mapGang n f).envCxl = s.envCxl := rfl
@[simp] theorem State.mapGang_attached : (s.mapGang n f).attached = s.attached := rfl
@[simp] theorem State.mapGang_powered : (s.mapGang n f).powered = s.powered := rfl
@[simp] theorem State.mapGang_mbase : (s.mapGang n f).mbase = s.mbase := rfl
@[simp] theorem State.mapGang_time : (s.mapGang n f).time = s.time := rfl
@[simp] theorem State.mapGang_fresh : (s.mapGang n f).fresh = s.fresh := rfl
@[simp] theorem State.mapGang_turns : (s.mapGang n f).turns = s.turns := rfl
@[simp] theorem State.mapGang_cycle : (s.mapGang n f).cycle = s.cycle := rfl
@[simp] theorem State.mapGang_bundle : (s.mapGang n f).bundle = s.bundle := rfl
@[simp] theorem State.mapGang_agenda : (s.mapGang n f).agenda = s.agenda := rfl
end

section
variable (s : State) (n : Nat) (f : Core → Core)
@[simp] theorem State.mapCore_me : (s.mapCore n f).me = s.me := rfl
@[simp] theorem State.mapCore_others : (s.mapCore n f).others = s.others := rfl
@[simp] theorem State.mapCore_groups : (s.mapCore n f).groups = s.groups := rfl
@[simp] theorem State.mapCore_gangs : (s.mapCore n f).gangs = s.gangs := rfl
@[simp] theorem State.mapCore_pads : (s.mapCore n f).pads = s.pads := rfl
@[simp] theorem State.mapCore_cores : (s.mapCore n f).cores = s.cores.map (fun c => if c.id = n then f c else c) := rfl
@[simp] theorem State.mapCore_dies : (s.mapCore n f).dies = s.dies := rfl
@[simp] theorem State.mapCore_purlin : (s.mapCore n f).purlin = s.purlin := rfl
@[simp] theorem State.mapCore_mem : (s.mapCore n f).mem = s.mem := rfl
@[simp] theorem State.mapCore_lines : (s.mapCore n f).lines = s.lines := rfl
@[simp] theorem State.mapCore_counted : (s.mapCore n f).counted = s.counted := rfl
@[simp] theorem State.mapCore_past : (s.mapCore n f).past = s.past := rfl
@[simp] theorem State.mapCore_phases : (s.mapCore n f).phases = s.phases := rfl
@[simp] theorem State.mapCore_ops : (s.mapCore n f).ops = s.ops := rfl
@[simp] theorem State.mapCore_holds : (s.mapCore n f).holds = s.holds := rfl
@[simp] theorem State.mapCore_handovers : (s.mapCore n f).handovers = s.handovers := rfl
@[simp] theorem State.mapCore_pageReqs : (s.mapCore n f).pageReqs = s.pageReqs := rfl
@[simp] theorem State.mapCore_devWrites : (s.mapCore n f).devWrites = s.devWrites := rfl
@[simp] theorem State.mapCore_regions : (s.mapCore n f).regions = s.regions := rfl
@[simp] theorem State.mapCore_tiles : (s.mapCore n f).tiles = s.tiles := rfl
@[simp] theorem State.mapCore_copies : (s.mapCore n f).copies = s.copies := rfl
@[simp] theorem State.mapCore_streams : (s.mapCore n f).streams = s.streams := rfl
@[simp] theorem State.mapCore_matrix : (s.mapCore n f).matrix = s.matrix := rfl
@[simp] theorem State.mapCore_slates : (s.mapCore n f).slates = s.slates := rfl
@[simp] theorem State.mapCore_accs : (s.mapCore n f).accs = s.accs := rfl
@[simp] theorem State.mapCore_binds : (s.mapCore n f).binds = s.binds := rfl
@[simp] theorem State.mapCore_shadows : (s.mapCore n f).shadows = s.shadows := rfl
@[simp] theorem State.mapCore_lates : (s.mapCore n f).lates = s.lates := rfl
@[simp] theorem State.mapCore_batches : (s.mapCore n f).batches = s.batches := rfl
@[simp] theorem State.mapCore_cards : (s.mapCore n f).cards = s.cards := rfl
@[simp] theorem State.mapCore_ready : (s.mapCore n f).ready = s.ready := rfl
@[simp] theorem State.mapCore_blocks : (s.mapCore n f).blocks = s.blocks := rfl
@[simp] theorem State.mapCore_parcels : (s.mapCore n f).parcels = s.parcels := rfl
@[simp] theorem State.mapCore_posts : (s.mapCore n f).posts = s.posts := rfl
@[simp] theorem State.mapCore_windows : (s.mapCore n f).windows = s.windows := rfl
@[simp] theorem State.mapCore_remotes : (s.mapCore n f).remotes = s.remotes := rfl
@[simp] theorem State.mapCore_colls : (s.mapCore n f).colls = s.colls := rfl
@[simp] theorem State.mapCore_ports : (s.mapCore n f).ports = s.ports := rfl
@[simp] theorem State.mapCore_links : (s.mapCore n f).links = s.links := rfl
@[simp] theorem State.mapCore_drains : (s.mapCore n f).drains = s.drains := rfl
@[simp] theorem State.mapCore_notices : (s.mapCore n f).notices = s.notices := rfl
@[simp] theorem State.mapCore_routes : (s.mapCore n f).routes = s.routes := rfl
@[simp] theorem State.mapCore_eaves : (s.mapCore n f).eaves = s.eaves := rfl
@[simp] theorem State.mapCore_vifs : (s.mapCore n f).vifs = s.vifs := rfl
@[simp] theorem State.mapCore_audits : (s.mapCore n f).audits = s.audits := rfl
@[simp] theorem State.mapCore_badWords : (s.mapCore n f).badWords = s.badWords := rfl
@[simp] theorem State.mapCore_weak : (s.mapCore n f).weak = s.weak := rfl
@[simp] theorem State.mapCore_struck : (s.mapCore n f).struck = s.struck := rfl
@[simp] theorem State.mapCore_answer : (s.mapCore n f).answer = s.answer := rfl
@[simp] theorem State.mapCore_chip : (s.mapCore n f).chip = s.chip := rfl
@[simp] theorem State.mapCore_heap : (s.mapCore n f).heap = s.heap := rfl
@[simp] theorem State.mapCore_heapSize : (s.mapCore n f).heapSize = s.heapSize := rfl
@[simp] theorem State.mapCore_saveSize : (s.mapCore n f).saveSize = s.saveSize := rfl
@[simp] theorem State.mapCore_envPow : (s.mapCore n f).envPow = s.envPow := rfl
@[simp] theorem State.mapCore_envInj : (s.mapCore n f).envInj = s.envInj := rfl
@[simp] theorem State.mapCore_envCxl : (s.mapCore n f).envCxl = s.envCxl := rfl
@[simp] theorem State.mapCore_attached : (s.mapCore n f).attached = s.attached := rfl
@[simp] theorem State.mapCore_powered : (s.mapCore n f).powered = s.powered := rfl
@[simp] theorem State.mapCore_mbase : (s.mapCore n f).mbase = s.mbase := rfl
@[simp] theorem State.mapCore_time : (s.mapCore n f).time = s.time := rfl
@[simp] theorem State.mapCore_fresh : (s.mapCore n f).fresh = s.fresh := rfl
@[simp] theorem State.mapCore_turns : (s.mapCore n f).turns = s.turns := rfl
@[simp] theorem State.mapCore_cycle : (s.mapCore n f).cycle = s.cycle := rfl
@[simp] theorem State.mapCore_bundle : (s.mapCore n f).bundle = s.bundle := rfl
@[simp] theorem State.mapCore_agenda : (s.mapCore n f).agenda = s.agenda := rfl
end

section
variable (s : State) (n : Nat) (f : Die → Die)
@[simp] theorem State.mapDie_me : (s.mapDie n f).me = s.me := rfl
@[simp] theorem State.mapDie_others : (s.mapDie n f).others = s.others := rfl
@[simp] theorem State.mapDie_groups : (s.mapDie n f).groups = s.groups := rfl
@[simp] theorem State.mapDie_gangs : (s.mapDie n f).gangs = s.gangs := rfl
@[simp] theorem State.mapDie_pads : (s.mapDie n f).pads = s.pads := rfl
@[simp] theorem State.mapDie_cores : (s.mapDie n f).cores = s.cores := rfl
@[simp] theorem State.mapDie_dies : (s.mapDie n f).dies = s.dies.map (fun d => if d.id = n then f d else d) := rfl
@[simp] theorem State.mapDie_purlin : (s.mapDie n f).purlin = s.purlin := rfl
@[simp] theorem State.mapDie_mem : (s.mapDie n f).mem = s.mem := rfl
@[simp] theorem State.mapDie_lines : (s.mapDie n f).lines = s.lines := rfl
@[simp] theorem State.mapDie_counted : (s.mapDie n f).counted = s.counted := rfl
@[simp] theorem State.mapDie_past : (s.mapDie n f).past = s.past := rfl
@[simp] theorem State.mapDie_phases : (s.mapDie n f).phases = s.phases := rfl
@[simp] theorem State.mapDie_ops : (s.mapDie n f).ops = s.ops := rfl
@[simp] theorem State.mapDie_holds : (s.mapDie n f).holds = s.holds := rfl
@[simp] theorem State.mapDie_handovers : (s.mapDie n f).handovers = s.handovers := rfl
@[simp] theorem State.mapDie_pageReqs : (s.mapDie n f).pageReqs = s.pageReqs := rfl
@[simp] theorem State.mapDie_devWrites : (s.mapDie n f).devWrites = s.devWrites := rfl
@[simp] theorem State.mapDie_regions : (s.mapDie n f).regions = s.regions := rfl
@[simp] theorem State.mapDie_tiles : (s.mapDie n f).tiles = s.tiles := rfl
@[simp] theorem State.mapDie_copies : (s.mapDie n f).copies = s.copies := rfl
@[simp] theorem State.mapDie_streams : (s.mapDie n f).streams = s.streams := rfl
@[simp] theorem State.mapDie_matrix : (s.mapDie n f).matrix = s.matrix := rfl
@[simp] theorem State.mapDie_slates : (s.mapDie n f).slates = s.slates := rfl
@[simp] theorem State.mapDie_accs : (s.mapDie n f).accs = s.accs := rfl
@[simp] theorem State.mapDie_binds : (s.mapDie n f).binds = s.binds := rfl
@[simp] theorem State.mapDie_shadows : (s.mapDie n f).shadows = s.shadows := rfl
@[simp] theorem State.mapDie_lates : (s.mapDie n f).lates = s.lates := rfl
@[simp] theorem State.mapDie_batches : (s.mapDie n f).batches = s.batches := rfl
@[simp] theorem State.mapDie_cards : (s.mapDie n f).cards = s.cards := rfl
@[simp] theorem State.mapDie_ready : (s.mapDie n f).ready = s.ready := rfl
@[simp] theorem State.mapDie_blocks : (s.mapDie n f).blocks = s.blocks := rfl
@[simp] theorem State.mapDie_parcels : (s.mapDie n f).parcels = s.parcels := rfl
@[simp] theorem State.mapDie_posts : (s.mapDie n f).posts = s.posts := rfl
@[simp] theorem State.mapDie_windows : (s.mapDie n f).windows = s.windows := rfl
@[simp] theorem State.mapDie_remotes : (s.mapDie n f).remotes = s.remotes := rfl
@[simp] theorem State.mapDie_colls : (s.mapDie n f).colls = s.colls := rfl
@[simp] theorem State.mapDie_ports : (s.mapDie n f).ports = s.ports := rfl
@[simp] theorem State.mapDie_links : (s.mapDie n f).links = s.links := rfl
@[simp] theorem State.mapDie_drains : (s.mapDie n f).drains = s.drains := rfl
@[simp] theorem State.mapDie_notices : (s.mapDie n f).notices = s.notices := rfl
@[simp] theorem State.mapDie_routes : (s.mapDie n f).routes = s.routes := rfl
@[simp] theorem State.mapDie_eaves : (s.mapDie n f).eaves = s.eaves := rfl
@[simp] theorem State.mapDie_vifs : (s.mapDie n f).vifs = s.vifs := rfl
@[simp] theorem State.mapDie_audits : (s.mapDie n f).audits = s.audits := rfl
@[simp] theorem State.mapDie_badWords : (s.mapDie n f).badWords = s.badWords := rfl
@[simp] theorem State.mapDie_weak : (s.mapDie n f).weak = s.weak := rfl
@[simp] theorem State.mapDie_struck : (s.mapDie n f).struck = s.struck := rfl
@[simp] theorem State.mapDie_answer : (s.mapDie n f).answer = s.answer := rfl
@[simp] theorem State.mapDie_chip : (s.mapDie n f).chip = s.chip := rfl
@[simp] theorem State.mapDie_heap : (s.mapDie n f).heap = s.heap := rfl
@[simp] theorem State.mapDie_heapSize : (s.mapDie n f).heapSize = s.heapSize := rfl
@[simp] theorem State.mapDie_saveSize : (s.mapDie n f).saveSize = s.saveSize := rfl
@[simp] theorem State.mapDie_envPow : (s.mapDie n f).envPow = s.envPow := rfl
@[simp] theorem State.mapDie_envInj : (s.mapDie n f).envInj = s.envInj := rfl
@[simp] theorem State.mapDie_envCxl : (s.mapDie n f).envCxl = s.envCxl := rfl
@[simp] theorem State.mapDie_attached : (s.mapDie n f).attached = s.attached := rfl
@[simp] theorem State.mapDie_powered : (s.mapDie n f).powered = s.powered := rfl
@[simp] theorem State.mapDie_mbase : (s.mapDie n f).mbase = s.mbase := rfl
@[simp] theorem State.mapDie_time : (s.mapDie n f).time = s.time := rfl
@[simp] theorem State.mapDie_fresh : (s.mapDie n f).fresh = s.fresh := rfl
@[simp] theorem State.mapDie_turns : (s.mapDie n f).turns = s.turns := rfl
@[simp] theorem State.mapDie_cycle : (s.mapDie n f).cycle = s.cycle := rfl
@[simp] theorem State.mapDie_bundle : (s.mapDie n f).bundle = s.bundle := rfl
@[simp] theorem State.mapDie_agenda : (s.mapDie n f).agenda = s.agenda := rfl
end

section
variable (s : State) (n : Nat) (f : Region → Region)
@[simp] theorem State.mapRegion_me : (s.mapRegion n f).me = s.me := rfl
@[simp] theorem State.mapRegion_others : (s.mapRegion n f).others = s.others := rfl
@[simp] theorem State.mapRegion_groups : (s.mapRegion n f).groups = s.groups := rfl
@[simp] theorem State.mapRegion_gangs : (s.mapRegion n f).gangs = s.gangs := rfl
@[simp] theorem State.mapRegion_pads : (s.mapRegion n f).pads = s.pads := rfl
@[simp] theorem State.mapRegion_cores : (s.mapRegion n f).cores = s.cores := rfl
@[simp] theorem State.mapRegion_dies : (s.mapRegion n f).dies = s.dies := rfl
@[simp] theorem State.mapRegion_purlin : (s.mapRegion n f).purlin = s.purlin := rfl
@[simp] theorem State.mapRegion_mem : (s.mapRegion n f).mem = s.mem := rfl
@[simp] theorem State.mapRegion_lines : (s.mapRegion n f).lines = s.lines := rfl
@[simp] theorem State.mapRegion_counted : (s.mapRegion n f).counted = s.counted := rfl
@[simp] theorem State.mapRegion_past : (s.mapRegion n f).past = s.past := rfl
@[simp] theorem State.mapRegion_phases : (s.mapRegion n f).phases = s.phases := rfl
@[simp] theorem State.mapRegion_ops : (s.mapRegion n f).ops = s.ops := rfl
@[simp] theorem State.mapRegion_holds : (s.mapRegion n f).holds = s.holds := rfl
@[simp] theorem State.mapRegion_handovers : (s.mapRegion n f).handovers = s.handovers := rfl
@[simp] theorem State.mapRegion_pageReqs : (s.mapRegion n f).pageReqs = s.pageReqs := rfl
@[simp] theorem State.mapRegion_devWrites : (s.mapRegion n f).devWrites = s.devWrites := rfl
@[simp] theorem State.mapRegion_regions : (s.mapRegion n f).regions = s.regions.map (fun r => if r.num = n then f r else r) := rfl
@[simp] theorem State.mapRegion_tiles : (s.mapRegion n f).tiles = s.tiles := rfl
@[simp] theorem State.mapRegion_copies : (s.mapRegion n f).copies = s.copies := rfl
@[simp] theorem State.mapRegion_streams : (s.mapRegion n f).streams = s.streams := rfl
@[simp] theorem State.mapRegion_matrix : (s.mapRegion n f).matrix = s.matrix := rfl
@[simp] theorem State.mapRegion_slates : (s.mapRegion n f).slates = s.slates := rfl
@[simp] theorem State.mapRegion_accs : (s.mapRegion n f).accs = s.accs := rfl
@[simp] theorem State.mapRegion_binds : (s.mapRegion n f).binds = s.binds := rfl
@[simp] theorem State.mapRegion_shadows : (s.mapRegion n f).shadows = s.shadows := rfl
@[simp] theorem State.mapRegion_lates : (s.mapRegion n f).lates = s.lates := rfl
@[simp] theorem State.mapRegion_batches : (s.mapRegion n f).batches = s.batches := rfl
@[simp] theorem State.mapRegion_cards : (s.mapRegion n f).cards = s.cards := rfl
@[simp] theorem State.mapRegion_ready : (s.mapRegion n f).ready = s.ready := rfl
@[simp] theorem State.mapRegion_blocks : (s.mapRegion n f).blocks = s.blocks := rfl
@[simp] theorem State.mapRegion_parcels : (s.mapRegion n f).parcels = s.parcels := rfl
@[simp] theorem State.mapRegion_posts : (s.mapRegion n f).posts = s.posts := rfl
@[simp] theorem State.mapRegion_windows : (s.mapRegion n f).windows = s.windows := rfl
@[simp] theorem State.mapRegion_remotes : (s.mapRegion n f).remotes = s.remotes := rfl
@[simp] theorem State.mapRegion_colls : (s.mapRegion n f).colls = s.colls := rfl
@[simp] theorem State.mapRegion_ports : (s.mapRegion n f).ports = s.ports := rfl
@[simp] theorem State.mapRegion_links : (s.mapRegion n f).links = s.links := rfl
@[simp] theorem State.mapRegion_drains : (s.mapRegion n f).drains = s.drains := rfl
@[simp] theorem State.mapRegion_notices : (s.mapRegion n f).notices = s.notices := rfl
@[simp] theorem State.mapRegion_routes : (s.mapRegion n f).routes = s.routes := rfl
@[simp] theorem State.mapRegion_eaves : (s.mapRegion n f).eaves = s.eaves := rfl
@[simp] theorem State.mapRegion_vifs : (s.mapRegion n f).vifs = s.vifs := rfl
@[simp] theorem State.mapRegion_audits : (s.mapRegion n f).audits = s.audits := rfl
@[simp] theorem State.mapRegion_badWords : (s.mapRegion n f).badWords = s.badWords := rfl
@[simp] theorem State.mapRegion_weak : (s.mapRegion n f).weak = s.weak := rfl
@[simp] theorem State.mapRegion_struck : (s.mapRegion n f).struck = s.struck := rfl
@[simp] theorem State.mapRegion_answer : (s.mapRegion n f).answer = s.answer := rfl
@[simp] theorem State.mapRegion_chip : (s.mapRegion n f).chip = s.chip := rfl
@[simp] theorem State.mapRegion_heap : (s.mapRegion n f).heap = s.heap := rfl
@[simp] theorem State.mapRegion_heapSize : (s.mapRegion n f).heapSize = s.heapSize := rfl
@[simp] theorem State.mapRegion_saveSize : (s.mapRegion n f).saveSize = s.saveSize := rfl
@[simp] theorem State.mapRegion_envPow : (s.mapRegion n f).envPow = s.envPow := rfl
@[simp] theorem State.mapRegion_envInj : (s.mapRegion n f).envInj = s.envInj := rfl
@[simp] theorem State.mapRegion_envCxl : (s.mapRegion n f).envCxl = s.envCxl := rfl
@[simp] theorem State.mapRegion_attached : (s.mapRegion n f).attached = s.attached := rfl
@[simp] theorem State.mapRegion_powered : (s.mapRegion n f).powered = s.powered := rfl
@[simp] theorem State.mapRegion_mbase : (s.mapRegion n f).mbase = s.mbase := rfl
@[simp] theorem State.mapRegion_time : (s.mapRegion n f).time = s.time := rfl
@[simp] theorem State.mapRegion_fresh : (s.mapRegion n f).fresh = s.fresh := rfl
@[simp] theorem State.mapRegion_turns : (s.mapRegion n f).turns = s.turns := rfl
@[simp] theorem State.mapRegion_cycle : (s.mapRegion n f).cycle = s.cycle := rfl
@[simp] theorem State.mapRegion_bundle : (s.mapRegion n f).bundle = s.bundle := rfl
@[simp] theorem State.mapRegion_agenda : (s.mapRegion n f).agenda = s.agenda := rfl
end

section
variable (s : State)
@[simp] theorem State.bump_me : (s.bump).me = s.me := rfl
@[simp] theorem State.bump_others : (s.bump).others = s.others := rfl
@[simp] theorem State.bump_groups : (s.bump).groups = s.groups := rfl
@[simp] theorem State.bump_gangs : (s.bump).gangs = s.gangs := rfl
@[simp] theorem State.bump_pads : (s.bump).pads = s.pads := rfl
@[simp] theorem State.bump_cores : (s.bump).cores = s.cores := rfl
@[simp] theorem State.bump_dies : (s.bump).dies = s.dies := rfl
@[simp] theorem State.bump_purlin : (s.bump).purlin = s.purlin := rfl
@[simp] theorem State.bump_mem : (s.bump).mem = s.mem := rfl
@[simp] theorem State.bump_lines : (s.bump).lines = s.lines := rfl
@[simp] theorem State.bump_counted : (s.bump).counted = s.counted := rfl
@[simp] theorem State.bump_past : (s.bump).past = s.past := rfl
@[simp] theorem State.bump_phases : (s.bump).phases = s.phases := rfl
@[simp] theorem State.bump_ops : (s.bump).ops = s.ops := rfl
@[simp] theorem State.bump_holds : (s.bump).holds = s.holds := rfl
@[simp] theorem State.bump_handovers : (s.bump).handovers = s.handovers := rfl
@[simp] theorem State.bump_pageReqs : (s.bump).pageReqs = s.pageReqs := rfl
@[simp] theorem State.bump_devWrites : (s.bump).devWrites = s.devWrites := rfl
@[simp] theorem State.bump_regions : (s.bump).regions = s.regions := rfl
@[simp] theorem State.bump_tiles : (s.bump).tiles = s.tiles := rfl
@[simp] theorem State.bump_copies : (s.bump).copies = s.copies := rfl
@[simp] theorem State.bump_streams : (s.bump).streams = s.streams := rfl
@[simp] theorem State.bump_matrix : (s.bump).matrix = s.matrix := rfl
@[simp] theorem State.bump_slates : (s.bump).slates = s.slates := rfl
@[simp] theorem State.bump_accs : (s.bump).accs = s.accs := rfl
@[simp] theorem State.bump_binds : (s.bump).binds = s.binds := rfl
@[simp] theorem State.bump_shadows : (s.bump).shadows = s.shadows := rfl
@[simp] theorem State.bump_lates : (s.bump).lates = s.lates := rfl
@[simp] theorem State.bump_batches : (s.bump).batches = s.batches := rfl
@[simp] theorem State.bump_cards : (s.bump).cards = s.cards := rfl
@[simp] theorem State.bump_ready : (s.bump).ready = s.ready := rfl
@[simp] theorem State.bump_blocks : (s.bump).blocks = s.blocks := rfl
@[simp] theorem State.bump_parcels : (s.bump).parcels = s.parcels := rfl
@[simp] theorem State.bump_posts : (s.bump).posts = s.posts := rfl
@[simp] theorem State.bump_windows : (s.bump).windows = s.windows := rfl
@[simp] theorem State.bump_remotes : (s.bump).remotes = s.remotes := rfl
@[simp] theorem State.bump_colls : (s.bump).colls = s.colls := rfl
@[simp] theorem State.bump_ports : (s.bump).ports = s.ports := rfl
@[simp] theorem State.bump_links : (s.bump).links = s.links := rfl
@[simp] theorem State.bump_drains : (s.bump).drains = s.drains := rfl
@[simp] theorem State.bump_notices : (s.bump).notices = s.notices := rfl
@[simp] theorem State.bump_routes : (s.bump).routes = s.routes := rfl
@[simp] theorem State.bump_eaves : (s.bump).eaves = s.eaves := rfl
@[simp] theorem State.bump_vifs : (s.bump).vifs = s.vifs := rfl
@[simp] theorem State.bump_audits : (s.bump).audits = s.audits := rfl
@[simp] theorem State.bump_badWords : (s.bump).badWords = s.badWords := rfl
@[simp] theorem State.bump_weak : (s.bump).weak = s.weak := rfl
@[simp] theorem State.bump_struck : (s.bump).struck = s.struck := rfl
@[simp] theorem State.bump_answer : (s.bump).answer = s.answer := rfl
@[simp] theorem State.bump_chip : (s.bump).chip = s.chip := rfl
@[simp] theorem State.bump_heap : (s.bump).heap = s.heap := rfl
@[simp] theorem State.bump_heapSize : (s.bump).heapSize = s.heapSize := rfl
@[simp] theorem State.bump_saveSize : (s.bump).saveSize = s.saveSize := rfl
@[simp] theorem State.bump_envPow : (s.bump).envPow = s.envPow := rfl
@[simp] theorem State.bump_envInj : (s.bump).envInj = s.envInj := rfl
@[simp] theorem State.bump_envCxl : (s.bump).envCxl = s.envCxl := rfl
@[simp] theorem State.bump_attached : (s.bump).attached = s.attached := rfl
@[simp] theorem State.bump_powered : (s.bump).powered = s.powered := rfl
@[simp] theorem State.bump_mbase : (s.bump).mbase = s.mbase := rfl
@[simp] theorem State.bump_time : (s.bump).time = s.time := rfl
@[simp] theorem State.bump_fresh : (s.bump).fresh = s.fresh + 1 := rfl
@[simp] theorem State.bump_turns : (s.bump).turns = s.turns := rfl
@[simp] theorem State.bump_cycle : (s.bump).cycle = s.cycle := rfl
@[simp] theorem State.bump_bundle : (s.bump).bundle = s.bundle := rfl
@[simp] theorem State.bump_agenda : (s.bump).agenda = s.agenda := rfl
end

section
variable (s : State) (r : Reg) (v : Word)
@[simp] theorem State.wr_me : (s.wr r v).me = s.me.wr r v := rfl
@[simp] theorem State.wr_others : (s.wr r v).others = s.others := rfl
@[simp] theorem State.wr_groups : (s.wr r v).groups = s.groups := rfl
@[simp] theorem State.wr_gangs : (s.wr r v).gangs = s.gangs := rfl
@[simp] theorem State.wr_pads : (s.wr r v).pads = s.pads := rfl
@[simp] theorem State.wr_cores : (s.wr r v).cores = s.cores := rfl
@[simp] theorem State.wr_dies : (s.wr r v).dies = s.dies := rfl
@[simp] theorem State.wr_purlin : (s.wr r v).purlin = s.purlin := rfl
@[simp] theorem State.wr_mem : (s.wr r v).mem = s.mem := rfl
@[simp] theorem State.wr_lines : (s.wr r v).lines = s.lines := rfl
@[simp] theorem State.wr_counted : (s.wr r v).counted = s.counted := rfl
@[simp] theorem State.wr_past : (s.wr r v).past = s.past := rfl
@[simp] theorem State.wr_phases : (s.wr r v).phases = s.phases := rfl
@[simp] theorem State.wr_ops : (s.wr r v).ops = s.ops := rfl
@[simp] theorem State.wr_holds : (s.wr r v).holds = s.holds := rfl
@[simp] theorem State.wr_handovers : (s.wr r v).handovers = s.handovers := rfl
@[simp] theorem State.wr_pageReqs : (s.wr r v).pageReqs = s.pageReqs := rfl
@[simp] theorem State.wr_devWrites : (s.wr r v).devWrites = s.devWrites := rfl
@[simp] theorem State.wr_regions : (s.wr r v).regions = s.regions := rfl
@[simp] theorem State.wr_tiles : (s.wr r v).tiles = s.tiles := rfl
@[simp] theorem State.wr_copies : (s.wr r v).copies = s.copies := rfl
@[simp] theorem State.wr_streams : (s.wr r v).streams = s.streams := rfl
@[simp] theorem State.wr_matrix : (s.wr r v).matrix = s.matrix := rfl
@[simp] theorem State.wr_slates : (s.wr r v).slates = s.slates := rfl
@[simp] theorem State.wr_accs : (s.wr r v).accs = s.accs := rfl
@[simp] theorem State.wr_binds : (s.wr r v).binds = s.binds := rfl
@[simp] theorem State.wr_shadows : (s.wr r v).shadows = s.shadows := rfl
@[simp] theorem State.wr_lates : (s.wr r v).lates = s.lates := rfl
@[simp] theorem State.wr_batches : (s.wr r v).batches = s.batches := rfl
@[simp] theorem State.wr_cards : (s.wr r v).cards = s.cards := rfl
@[simp] theorem State.wr_ready : (s.wr r v).ready = s.ready := rfl
@[simp] theorem State.wr_blocks : (s.wr r v).blocks = s.blocks := rfl
@[simp] theorem State.wr_parcels : (s.wr r v).parcels = s.parcels := rfl
@[simp] theorem State.wr_posts : (s.wr r v).posts = s.posts := rfl
@[simp] theorem State.wr_windows : (s.wr r v).windows = s.windows := rfl
@[simp] theorem State.wr_remotes : (s.wr r v).remotes = s.remotes := rfl
@[simp] theorem State.wr_colls : (s.wr r v).colls = s.colls := rfl
@[simp] theorem State.wr_ports : (s.wr r v).ports = s.ports := rfl
@[simp] theorem State.wr_links : (s.wr r v).links = s.links := rfl
@[simp] theorem State.wr_drains : (s.wr r v).drains = s.drains := rfl
@[simp] theorem State.wr_notices : (s.wr r v).notices = s.notices := rfl
@[simp] theorem State.wr_routes : (s.wr r v).routes = s.routes := rfl
@[simp] theorem State.wr_eaves : (s.wr r v).eaves = s.eaves := rfl
@[simp] theorem State.wr_vifs : (s.wr r v).vifs = s.vifs := rfl
@[simp] theorem State.wr_audits : (s.wr r v).audits = s.audits := rfl
@[simp] theorem State.wr_badWords : (s.wr r v).badWords = s.badWords := rfl
@[simp] theorem State.wr_weak : (s.wr r v).weak = s.weak := rfl
@[simp] theorem State.wr_struck : (s.wr r v).struck = s.struck := rfl
@[simp] theorem State.wr_answer : (s.wr r v).answer = s.answer := rfl
@[simp] theorem State.wr_chip : (s.wr r v).chip = s.chip := rfl
@[simp] theorem State.wr_heap : (s.wr r v).heap = s.heap := rfl
@[simp] theorem State.wr_heapSize : (s.wr r v).heapSize = s.heapSize := rfl
@[simp] theorem State.wr_saveSize : (s.wr r v).saveSize = s.saveSize := rfl
@[simp] theorem State.wr_envPow : (s.wr r v).envPow = s.envPow := rfl
@[simp] theorem State.wr_envInj : (s.wr r v).envInj = s.envInj := rfl
@[simp] theorem State.wr_envCxl : (s.wr r v).envCxl = s.envCxl := rfl
@[simp] theorem State.wr_attached : (s.wr r v).attached = s.attached := rfl
@[simp] theorem State.wr_powered : (s.wr r v).powered = s.powered := rfl
@[simp] theorem State.wr_mbase : (s.wr r v).mbase = s.mbase := rfl
@[simp] theorem State.wr_time : (s.wr r v).time = s.time := rfl
@[simp] theorem State.wr_fresh : (s.wr r v).fresh = s.fresh := rfl
@[simp] theorem State.wr_turns : (s.wr r v).turns = s.turns := rfl
@[simp] theorem State.wr_cycle : (s.wr r v).cycle = s.cycle := rfl
@[simp] theorem State.wr_bundle : (s.wr r v).bundle = s.bundle := rfl
@[simp] theorem State.wr_agenda : (s.wr r v).agenda = s.agenda := rfl
end

section
variable (s : State) (r : Reg) (v : Dword)
@[simp] theorem State.wr2_me : (s.wr2 r v).me = s.me.wr2 r v := rfl
@[simp] theorem State.wr2_others : (s.wr2 r v).others = s.others := rfl
@[simp] theorem State.wr2_groups : (s.wr2 r v).groups = s.groups := rfl
@[simp] theorem State.wr2_gangs : (s.wr2 r v).gangs = s.gangs := rfl
@[simp] theorem State.wr2_pads : (s.wr2 r v).pads = s.pads := rfl
@[simp] theorem State.wr2_cores : (s.wr2 r v).cores = s.cores := rfl
@[simp] theorem State.wr2_dies : (s.wr2 r v).dies = s.dies := rfl
@[simp] theorem State.wr2_purlin : (s.wr2 r v).purlin = s.purlin := rfl
@[simp] theorem State.wr2_mem : (s.wr2 r v).mem = s.mem := rfl
@[simp] theorem State.wr2_lines : (s.wr2 r v).lines = s.lines := rfl
@[simp] theorem State.wr2_counted : (s.wr2 r v).counted = s.counted := rfl
@[simp] theorem State.wr2_past : (s.wr2 r v).past = s.past := rfl
@[simp] theorem State.wr2_phases : (s.wr2 r v).phases = s.phases := rfl
@[simp] theorem State.wr2_ops : (s.wr2 r v).ops = s.ops := rfl
@[simp] theorem State.wr2_holds : (s.wr2 r v).holds = s.holds := rfl
@[simp] theorem State.wr2_handovers : (s.wr2 r v).handovers = s.handovers := rfl
@[simp] theorem State.wr2_pageReqs : (s.wr2 r v).pageReqs = s.pageReqs := rfl
@[simp] theorem State.wr2_devWrites : (s.wr2 r v).devWrites = s.devWrites := rfl
@[simp] theorem State.wr2_regions : (s.wr2 r v).regions = s.regions := rfl
@[simp] theorem State.wr2_tiles : (s.wr2 r v).tiles = s.tiles := rfl
@[simp] theorem State.wr2_copies : (s.wr2 r v).copies = s.copies := rfl
@[simp] theorem State.wr2_streams : (s.wr2 r v).streams = s.streams := rfl
@[simp] theorem State.wr2_matrix : (s.wr2 r v).matrix = s.matrix := rfl
@[simp] theorem State.wr2_slates : (s.wr2 r v).slates = s.slates := rfl
@[simp] theorem State.wr2_accs : (s.wr2 r v).accs = s.accs := rfl
@[simp] theorem State.wr2_binds : (s.wr2 r v).binds = s.binds := rfl
@[simp] theorem State.wr2_shadows : (s.wr2 r v).shadows = s.shadows := rfl
@[simp] theorem State.wr2_lates : (s.wr2 r v).lates = s.lates := rfl
@[simp] theorem State.wr2_batches : (s.wr2 r v).batches = s.batches := rfl
@[simp] theorem State.wr2_cards : (s.wr2 r v).cards = s.cards := rfl
@[simp] theorem State.wr2_ready : (s.wr2 r v).ready = s.ready := rfl
@[simp] theorem State.wr2_blocks : (s.wr2 r v).blocks = s.blocks := rfl
@[simp] theorem State.wr2_parcels : (s.wr2 r v).parcels = s.parcels := rfl
@[simp] theorem State.wr2_posts : (s.wr2 r v).posts = s.posts := rfl
@[simp] theorem State.wr2_windows : (s.wr2 r v).windows = s.windows := rfl
@[simp] theorem State.wr2_remotes : (s.wr2 r v).remotes = s.remotes := rfl
@[simp] theorem State.wr2_colls : (s.wr2 r v).colls = s.colls := rfl
@[simp] theorem State.wr2_ports : (s.wr2 r v).ports = s.ports := rfl
@[simp] theorem State.wr2_links : (s.wr2 r v).links = s.links := rfl
@[simp] theorem State.wr2_drains : (s.wr2 r v).drains = s.drains := rfl
@[simp] theorem State.wr2_notices : (s.wr2 r v).notices = s.notices := rfl
@[simp] theorem State.wr2_routes : (s.wr2 r v).routes = s.routes := rfl
@[simp] theorem State.wr2_eaves : (s.wr2 r v).eaves = s.eaves := rfl
@[simp] theorem State.wr2_vifs : (s.wr2 r v).vifs = s.vifs := rfl
@[simp] theorem State.wr2_audits : (s.wr2 r v).audits = s.audits := rfl
@[simp] theorem State.wr2_badWords : (s.wr2 r v).badWords = s.badWords := rfl
@[simp] theorem State.wr2_weak : (s.wr2 r v).weak = s.weak := rfl
@[simp] theorem State.wr2_struck : (s.wr2 r v).struck = s.struck := rfl
@[simp] theorem State.wr2_answer : (s.wr2 r v).answer = s.answer := rfl
@[simp] theorem State.wr2_chip : (s.wr2 r v).chip = s.chip := rfl
@[simp] theorem State.wr2_heap : (s.wr2 r v).heap = s.heap := rfl
@[simp] theorem State.wr2_heapSize : (s.wr2 r v).heapSize = s.heapSize := rfl
@[simp] theorem State.wr2_saveSize : (s.wr2 r v).saveSize = s.saveSize := rfl
@[simp] theorem State.wr2_envPow : (s.wr2 r v).envPow = s.envPow := rfl
@[simp] theorem State.wr2_envInj : (s.wr2 r v).envInj = s.envInj := rfl
@[simp] theorem State.wr2_envCxl : (s.wr2 r v).envCxl = s.envCxl := rfl
@[simp] theorem State.wr2_attached : (s.wr2 r v).attached = s.attached := rfl
@[simp] theorem State.wr2_powered : (s.wr2 r v).powered = s.powered := rfl
@[simp] theorem State.wr2_mbase : (s.wr2 r v).mbase = s.mbase := rfl
@[simp] theorem State.wr2_time : (s.wr2 r v).time = s.time := rfl
@[simp] theorem State.wr2_fresh : (s.wr2 r v).fresh = s.fresh := rfl
@[simp] theorem State.wr2_turns : (s.wr2 r v).turns = s.turns := rfl
@[simp] theorem State.wr2_cycle : (s.wr2 r v).cycle = s.cycle := rfl
@[simp] theorem State.wr2_bundle : (s.wr2 r v).bundle = s.bundle := rfl
@[simp] theorem State.wr2_agenda : (s.wr2 r v).agenda = s.agenda := rfl
end

section
variable (s : State) (r : Reg) (n v : Nat)
@[simp] theorem State.wrNat_me : (s.wrNat r n v).me = (s.me.wrs r (natWords n v)).mend r n := rfl
@[simp] theorem State.wrNat_others : (s.wrNat r n v).others = s.others := rfl
@[simp] theorem State.wrNat_groups : (s.wrNat r n v).groups = s.groups := rfl
@[simp] theorem State.wrNat_gangs : (s.wrNat r n v).gangs = s.gangs := rfl
@[simp] theorem State.wrNat_pads : (s.wrNat r n v).pads = s.pads := rfl
@[simp] theorem State.wrNat_cores : (s.wrNat r n v).cores = s.cores := rfl
@[simp] theorem State.wrNat_dies : (s.wrNat r n v).dies = s.dies := rfl
@[simp] theorem State.wrNat_purlin : (s.wrNat r n v).purlin = s.purlin := rfl
@[simp] theorem State.wrNat_mem : (s.wrNat r n v).mem = s.mem := rfl
@[simp] theorem State.wrNat_lines : (s.wrNat r n v).lines = s.lines := rfl
@[simp] theorem State.wrNat_counted : (s.wrNat r n v).counted = s.counted := rfl
@[simp] theorem State.wrNat_past : (s.wrNat r n v).past = s.past := rfl
@[simp] theorem State.wrNat_phases : (s.wrNat r n v).phases = s.phases := rfl
@[simp] theorem State.wrNat_ops : (s.wrNat r n v).ops = s.ops := rfl
@[simp] theorem State.wrNat_holds : (s.wrNat r n v).holds = s.holds := rfl
@[simp] theorem State.wrNat_handovers : (s.wrNat r n v).handovers = s.handovers := rfl
@[simp] theorem State.wrNat_pageReqs : (s.wrNat r n v).pageReqs = s.pageReqs := rfl
@[simp] theorem State.wrNat_devWrites : (s.wrNat r n v).devWrites = s.devWrites := rfl
@[simp] theorem State.wrNat_regions : (s.wrNat r n v).regions = s.regions := rfl
@[simp] theorem State.wrNat_tiles : (s.wrNat r n v).tiles = s.tiles := rfl
@[simp] theorem State.wrNat_copies : (s.wrNat r n v).copies = s.copies := rfl
@[simp] theorem State.wrNat_streams : (s.wrNat r n v).streams = s.streams := rfl
@[simp] theorem State.wrNat_matrix : (s.wrNat r n v).matrix = s.matrix := rfl
@[simp] theorem State.wrNat_slates : (s.wrNat r n v).slates = s.slates := rfl
@[simp] theorem State.wrNat_accs : (s.wrNat r n v).accs = s.accs := rfl
@[simp] theorem State.wrNat_binds : (s.wrNat r n v).binds = s.binds := rfl
@[simp] theorem State.wrNat_shadows : (s.wrNat r n v).shadows = s.shadows := rfl
@[simp] theorem State.wrNat_lates : (s.wrNat r n v).lates = s.lates := rfl
@[simp] theorem State.wrNat_batches : (s.wrNat r n v).batches = s.batches := rfl
@[simp] theorem State.wrNat_cards : (s.wrNat r n v).cards = s.cards := rfl
@[simp] theorem State.wrNat_ready : (s.wrNat r n v).ready = s.ready := rfl
@[simp] theorem State.wrNat_blocks : (s.wrNat r n v).blocks = s.blocks := rfl
@[simp] theorem State.wrNat_parcels : (s.wrNat r n v).parcels = s.parcels := rfl
@[simp] theorem State.wrNat_posts : (s.wrNat r n v).posts = s.posts := rfl
@[simp] theorem State.wrNat_windows : (s.wrNat r n v).windows = s.windows := rfl
@[simp] theorem State.wrNat_remotes : (s.wrNat r n v).remotes = s.remotes := rfl
@[simp] theorem State.wrNat_colls : (s.wrNat r n v).colls = s.colls := rfl
@[simp] theorem State.wrNat_ports : (s.wrNat r n v).ports = s.ports := rfl
@[simp] theorem State.wrNat_links : (s.wrNat r n v).links = s.links := rfl
@[simp] theorem State.wrNat_drains : (s.wrNat r n v).drains = s.drains := rfl
@[simp] theorem State.wrNat_notices : (s.wrNat r n v).notices = s.notices := rfl
@[simp] theorem State.wrNat_routes : (s.wrNat r n v).routes = s.routes := rfl
@[simp] theorem State.wrNat_eaves : (s.wrNat r n v).eaves = s.eaves := rfl
@[simp] theorem State.wrNat_vifs : (s.wrNat r n v).vifs = s.vifs := rfl
@[simp] theorem State.wrNat_audits : (s.wrNat r n v).audits = s.audits := rfl
@[simp] theorem State.wrNat_badWords : (s.wrNat r n v).badWords = s.badWords := rfl
@[simp] theorem State.wrNat_weak : (s.wrNat r n v).weak = s.weak := rfl
@[simp] theorem State.wrNat_struck : (s.wrNat r n v).struck = s.struck := rfl
@[simp] theorem State.wrNat_answer : (s.wrNat r n v).answer = s.answer := rfl
@[simp] theorem State.wrNat_chip : (s.wrNat r n v).chip = s.chip := rfl
@[simp] theorem State.wrNat_heap : (s.wrNat r n v).heap = s.heap := rfl
@[simp] theorem State.wrNat_heapSize : (s.wrNat r n v).heapSize = s.heapSize := rfl
@[simp] theorem State.wrNat_saveSize : (s.wrNat r n v).saveSize = s.saveSize := rfl
@[simp] theorem State.wrNat_envPow : (s.wrNat r n v).envPow = s.envPow := rfl
@[simp] theorem State.wrNat_envInj : (s.wrNat r n v).envInj = s.envInj := rfl
@[simp] theorem State.wrNat_envCxl : (s.wrNat r n v).envCxl = s.envCxl := rfl
@[simp] theorem State.wrNat_attached : (s.wrNat r n v).attached = s.attached := rfl
@[simp] theorem State.wrNat_powered : (s.wrNat r n v).powered = s.powered := rfl
@[simp] theorem State.wrNat_mbase : (s.wrNat r n v).mbase = s.mbase := rfl
@[simp] theorem State.wrNat_time : (s.wrNat r n v).time = s.time := rfl
@[simp] theorem State.wrNat_fresh : (s.wrNat r n v).fresh = s.fresh := rfl
@[simp] theorem State.wrNat_turns : (s.wrNat r n v).turns = s.turns := rfl
@[simp] theorem State.wrNat_cycle : (s.wrNat r n v).cycle = s.cycle := rfl
@[simp] theorem State.wrNat_bundle : (s.wrNat r n v).bundle = s.bundle := rfl
@[simp] theorem State.wrNat_agenda : (s.wrNat r n v).agenda = s.agenda := rfl
end

section
variable (s : State) (p : BitVec 3) (v : Bool)
@[simp] theorem State.setPred_me : (s.setPred p v).me = s.me.setPred p v := rfl
@[simp] theorem State.setPred_others : (s.setPred p v).others = s.others := rfl
@[simp] theorem State.setPred_groups : (s.setPred p v).groups = s.groups := rfl
@[simp] theorem State.setPred_gangs : (s.setPred p v).gangs = s.gangs := rfl
@[simp] theorem State.setPred_pads : (s.setPred p v).pads = s.pads := rfl
@[simp] theorem State.setPred_cores : (s.setPred p v).cores = s.cores := rfl
@[simp] theorem State.setPred_dies : (s.setPred p v).dies = s.dies := rfl
@[simp] theorem State.setPred_purlin : (s.setPred p v).purlin = s.purlin := rfl
@[simp] theorem State.setPred_mem : (s.setPred p v).mem = s.mem := rfl
@[simp] theorem State.setPred_lines : (s.setPred p v).lines = s.lines := rfl
@[simp] theorem State.setPred_counted : (s.setPred p v).counted = s.counted := rfl
@[simp] theorem State.setPred_past : (s.setPred p v).past = s.past := rfl
@[simp] theorem State.setPred_phases : (s.setPred p v).phases = s.phases := rfl
@[simp] theorem State.setPred_ops : (s.setPred p v).ops = s.ops := rfl
@[simp] theorem State.setPred_holds : (s.setPred p v).holds = s.holds := rfl
@[simp] theorem State.setPred_handovers : (s.setPred p v).handovers = s.handovers := rfl
@[simp] theorem State.setPred_pageReqs : (s.setPred p v).pageReqs = s.pageReqs := rfl
@[simp] theorem State.setPred_devWrites : (s.setPred p v).devWrites = s.devWrites := rfl
@[simp] theorem State.setPred_regions : (s.setPred p v).regions = s.regions := rfl
@[simp] theorem State.setPred_tiles : (s.setPred p v).tiles = s.tiles := rfl
@[simp] theorem State.setPred_copies : (s.setPred p v).copies = s.copies := rfl
@[simp] theorem State.setPred_streams : (s.setPred p v).streams = s.streams := rfl
@[simp] theorem State.setPred_matrix : (s.setPred p v).matrix = s.matrix := rfl
@[simp] theorem State.setPred_slates : (s.setPred p v).slates = s.slates := rfl
@[simp] theorem State.setPred_accs : (s.setPred p v).accs = s.accs := rfl
@[simp] theorem State.setPred_binds : (s.setPred p v).binds = s.binds := rfl
@[simp] theorem State.setPred_shadows : (s.setPred p v).shadows = s.shadows := rfl
@[simp] theorem State.setPred_lates : (s.setPred p v).lates = s.lates := rfl
@[simp] theorem State.setPred_batches : (s.setPred p v).batches = s.batches := rfl
@[simp] theorem State.setPred_cards : (s.setPred p v).cards = s.cards := rfl
@[simp] theorem State.setPred_ready : (s.setPred p v).ready = s.ready := rfl
@[simp] theorem State.setPred_blocks : (s.setPred p v).blocks = s.blocks := rfl
@[simp] theorem State.setPred_parcels : (s.setPred p v).parcels = s.parcels := rfl
@[simp] theorem State.setPred_posts : (s.setPred p v).posts = s.posts := rfl
@[simp] theorem State.setPred_windows : (s.setPred p v).windows = s.windows := rfl
@[simp] theorem State.setPred_remotes : (s.setPred p v).remotes = s.remotes := rfl
@[simp] theorem State.setPred_colls : (s.setPred p v).colls = s.colls := rfl
@[simp] theorem State.setPred_ports : (s.setPred p v).ports = s.ports := rfl
@[simp] theorem State.setPred_links : (s.setPred p v).links = s.links := rfl
@[simp] theorem State.setPred_drains : (s.setPred p v).drains = s.drains := rfl
@[simp] theorem State.setPred_notices : (s.setPred p v).notices = s.notices := rfl
@[simp] theorem State.setPred_routes : (s.setPred p v).routes = s.routes := rfl
@[simp] theorem State.setPred_eaves : (s.setPred p v).eaves = s.eaves := rfl
@[simp] theorem State.setPred_vifs : (s.setPred p v).vifs = s.vifs := rfl
@[simp] theorem State.setPred_audits : (s.setPred p v).audits = s.audits := rfl
@[simp] theorem State.setPred_badWords : (s.setPred p v).badWords = s.badWords := rfl
@[simp] theorem State.setPred_weak : (s.setPred p v).weak = s.weak := rfl
@[simp] theorem State.setPred_struck : (s.setPred p v).struck = s.struck := rfl
@[simp] theorem State.setPred_answer : (s.setPred p v).answer = s.answer := rfl
@[simp] theorem State.setPred_chip : (s.setPred p v).chip = s.chip := rfl
@[simp] theorem State.setPred_heap : (s.setPred p v).heap = s.heap := rfl
@[simp] theorem State.setPred_heapSize : (s.setPred p v).heapSize = s.heapSize := rfl
@[simp] theorem State.setPred_saveSize : (s.setPred p v).saveSize = s.saveSize := rfl
@[simp] theorem State.setPred_envPow : (s.setPred p v).envPow = s.envPow := rfl
@[simp] theorem State.setPred_envInj : (s.setPred p v).envInj = s.envInj := rfl
@[simp] theorem State.setPred_envCxl : (s.setPred p v).envCxl = s.envCxl := rfl
@[simp] theorem State.setPred_attached : (s.setPred p v).attached = s.attached := rfl
@[simp] theorem State.setPred_powered : (s.setPred p v).powered = s.powered := rfl
@[simp] theorem State.setPred_mbase : (s.setPred p v).mbase = s.mbase := rfl
@[simp] theorem State.setPred_time : (s.setPred p v).time = s.time := rfl
@[simp] theorem State.setPred_fresh : (s.setPred p v).fresh = s.fresh := rfl
@[simp] theorem State.setPred_turns : (s.setPred p v).turns = s.turns := rfl
@[simp] theorem State.setPred_cycle : (s.setPred p v).cycle = s.cycle := rfl
@[simp] theorem State.setPred_bundle : (s.setPred p v).bundle = s.bundle := rfl
@[simp] theorem State.setPred_agenda : (s.setPred p v).agenda = s.agenda := rfl
end

section
variable (s : State) (d : Reg) (n : Nat) (v : Option (List Word))
@[simp] theorem State.produce_me : (s.produce d n v).me = s.me.produce { tag := s.fresh, d := d, n := n, val := v } := rfl
@[simp] theorem State.produce_others : (s.produce d n v).others = s.others := rfl
@[simp] theorem State.produce_groups : (s.produce d n v).groups = s.groups := rfl
@[simp] theorem State.produce_gangs : (s.produce d n v).gangs = s.gangs := rfl
@[simp] theorem State.produce_pads : (s.produce d n v).pads = s.pads := rfl
@[simp] theorem State.produce_cores : (s.produce d n v).cores = s.cores := rfl
@[simp] theorem State.produce_dies : (s.produce d n v).dies = s.dies := rfl
@[simp] theorem State.produce_purlin : (s.produce d n v).purlin = s.purlin := rfl
@[simp] theorem State.produce_mem : (s.produce d n v).mem = s.mem := rfl
@[simp] theorem State.produce_lines : (s.produce d n v).lines = s.lines := rfl
@[simp] theorem State.produce_counted : (s.produce d n v).counted = s.counted := rfl
@[simp] theorem State.produce_past : (s.produce d n v).past = s.past := rfl
@[simp] theorem State.produce_phases : (s.produce d n v).phases = s.phases := rfl
@[simp] theorem State.produce_ops : (s.produce d n v).ops = s.ops := rfl
@[simp] theorem State.produce_holds : (s.produce d n v).holds = s.holds := rfl
@[simp] theorem State.produce_handovers : (s.produce d n v).handovers = s.handovers := rfl
@[simp] theorem State.produce_pageReqs : (s.produce d n v).pageReqs = s.pageReqs := rfl
@[simp] theorem State.produce_devWrites : (s.produce d n v).devWrites = s.devWrites := rfl
@[simp] theorem State.produce_regions : (s.produce d n v).regions = s.regions := rfl
@[simp] theorem State.produce_tiles : (s.produce d n v).tiles = s.tiles := rfl
@[simp] theorem State.produce_copies : (s.produce d n v).copies = s.copies := rfl
@[simp] theorem State.produce_streams : (s.produce d n v).streams = s.streams := rfl
@[simp] theorem State.produce_matrix : (s.produce d n v).matrix = s.matrix := rfl
@[simp] theorem State.produce_slates : (s.produce d n v).slates = s.slates := rfl
@[simp] theorem State.produce_accs : (s.produce d n v).accs = s.accs := rfl
@[simp] theorem State.produce_binds : (s.produce d n v).binds = s.binds := rfl
@[simp] theorem State.produce_shadows : (s.produce d n v).shadows = s.shadows := rfl
@[simp] theorem State.produce_lates : (s.produce d n v).lates = s.lates := rfl
@[simp] theorem State.produce_batches : (s.produce d n v).batches = s.batches := rfl
@[simp] theorem State.produce_cards : (s.produce d n v).cards = s.cards := rfl
@[simp] theorem State.produce_ready : (s.produce d n v).ready = s.ready := rfl
@[simp] theorem State.produce_blocks : (s.produce d n v).blocks = s.blocks := rfl
@[simp] theorem State.produce_parcels : (s.produce d n v).parcels = s.parcels := rfl
@[simp] theorem State.produce_posts : (s.produce d n v).posts = s.posts := rfl
@[simp] theorem State.produce_windows : (s.produce d n v).windows = s.windows := rfl
@[simp] theorem State.produce_remotes : (s.produce d n v).remotes = s.remotes := rfl
@[simp] theorem State.produce_colls : (s.produce d n v).colls = s.colls := rfl
@[simp] theorem State.produce_ports : (s.produce d n v).ports = s.ports := rfl
@[simp] theorem State.produce_links : (s.produce d n v).links = s.links := rfl
@[simp] theorem State.produce_drains : (s.produce d n v).drains = s.drains := rfl
@[simp] theorem State.produce_notices : (s.produce d n v).notices = s.notices := rfl
@[simp] theorem State.produce_routes : (s.produce d n v).routes = s.routes := rfl
@[simp] theorem State.produce_eaves : (s.produce d n v).eaves = s.eaves := rfl
@[simp] theorem State.produce_vifs : (s.produce d n v).vifs = s.vifs := rfl
@[simp] theorem State.produce_audits : (s.produce d n v).audits = s.audits := rfl
@[simp] theorem State.produce_badWords : (s.produce d n v).badWords = s.badWords := rfl
@[simp] theorem State.produce_weak : (s.produce d n v).weak = s.weak := rfl
@[simp] theorem State.produce_struck : (s.produce d n v).struck = s.struck := rfl
@[simp] theorem State.produce_answer : (s.produce d n v).answer = s.answer := rfl
@[simp] theorem State.produce_chip : (s.produce d n v).chip = s.chip := rfl
@[simp] theorem State.produce_heap : (s.produce d n v).heap = s.heap := rfl
@[simp] theorem State.produce_heapSize : (s.produce d n v).heapSize = s.heapSize := rfl
@[simp] theorem State.produce_saveSize : (s.produce d n v).saveSize = s.saveSize := rfl
@[simp] theorem State.produce_envPow : (s.produce d n v).envPow = s.envPow := rfl
@[simp] theorem State.produce_envInj : (s.produce d n v).envInj = s.envInj := rfl
@[simp] theorem State.produce_envCxl : (s.produce d n v).envCxl = s.envCxl := rfl
@[simp] theorem State.produce_attached : (s.produce d n v).attached = s.attached := rfl
@[simp] theorem State.produce_powered : (s.produce d n v).powered = s.powered := rfl
@[simp] theorem State.produce_mbase : (s.produce d n v).mbase = s.mbase := rfl
@[simp] theorem State.produce_time : (s.produce d n v).time = s.time := rfl
@[simp] theorem State.produce_fresh : (s.produce d n v).fresh = s.fresh + 1 := rfl
@[simp] theorem State.produce_turns : (s.produce d n v).turns = s.turns := rfl
@[simp] theorem State.produce_cycle : (s.produce d n v).cycle = s.cycle := rfl
@[simp] theorem State.produce_bundle : (s.produce d n v).bundle = s.bundle := rfl
@[simp] theorem State.produce_agenda : (s.produce d n v).agenda = s.agenda := rfl
end

section
variable (s : State) (d : Reg) (v : List Word) (fl : BitVec 6) (q : Option (Dword × Nat))
@[simp] theorem State.enqueue_me : (s.enqueue d v fl q).me = s.me.produce { tag := s.fresh, d := d, n := v.length, val := some v, queue := true, sfu := q, flags := fl } := rfl
@[simp] theorem State.enqueue_others : (s.enqueue d v fl q).others = s.others := rfl
@[simp] theorem State.enqueue_groups : (s.enqueue d v fl q).groups = s.groups := rfl
@[simp] theorem State.enqueue_gangs : (s.enqueue d v fl q).gangs = s.gangs := rfl
@[simp] theorem State.enqueue_pads : (s.enqueue d v fl q).pads = s.pads := rfl
@[simp] theorem State.enqueue_cores : (s.enqueue d v fl q).cores = s.cores := rfl
@[simp] theorem State.enqueue_dies : (s.enqueue d v fl q).dies = s.dies := rfl
@[simp] theorem State.enqueue_purlin : (s.enqueue d v fl q).purlin = s.purlin := rfl
@[simp] theorem State.enqueue_mem : (s.enqueue d v fl q).mem = s.mem := rfl
@[simp] theorem State.enqueue_lines : (s.enqueue d v fl q).lines = s.lines := rfl
@[simp] theorem State.enqueue_counted : (s.enqueue d v fl q).counted = s.counted := rfl
@[simp] theorem State.enqueue_past : (s.enqueue d v fl q).past = s.past := rfl
@[simp] theorem State.enqueue_phases : (s.enqueue d v fl q).phases = s.phases := rfl
@[simp] theorem State.enqueue_ops : (s.enqueue d v fl q).ops = s.ops := rfl
@[simp] theorem State.enqueue_holds : (s.enqueue d v fl q).holds = s.holds := rfl
@[simp] theorem State.enqueue_handovers : (s.enqueue d v fl q).handovers = s.handovers := rfl
@[simp] theorem State.enqueue_pageReqs : (s.enqueue d v fl q).pageReqs = s.pageReqs := rfl
@[simp] theorem State.enqueue_devWrites : (s.enqueue d v fl q).devWrites = s.devWrites := rfl
@[simp] theorem State.enqueue_regions : (s.enqueue d v fl q).regions = s.regions := rfl
@[simp] theorem State.enqueue_tiles : (s.enqueue d v fl q).tiles = s.tiles := rfl
@[simp] theorem State.enqueue_copies : (s.enqueue d v fl q).copies = s.copies := rfl
@[simp] theorem State.enqueue_streams : (s.enqueue d v fl q).streams = s.streams := rfl
@[simp] theorem State.enqueue_matrix : (s.enqueue d v fl q).matrix = s.matrix := rfl
@[simp] theorem State.enqueue_slates : (s.enqueue d v fl q).slates = s.slates := rfl
@[simp] theorem State.enqueue_accs : (s.enqueue d v fl q).accs = s.accs := rfl
@[simp] theorem State.enqueue_binds : (s.enqueue d v fl q).binds = s.binds := rfl
@[simp] theorem State.enqueue_shadows : (s.enqueue d v fl q).shadows = s.shadows := rfl
@[simp] theorem State.enqueue_lates : (s.enqueue d v fl q).lates = s.lates := rfl
@[simp] theorem State.enqueue_batches : (s.enqueue d v fl q).batches = s.batches := rfl
@[simp] theorem State.enqueue_cards : (s.enqueue d v fl q).cards = s.cards := rfl
@[simp] theorem State.enqueue_ready : (s.enqueue d v fl q).ready = s.ready := rfl
@[simp] theorem State.enqueue_blocks : (s.enqueue d v fl q).blocks = s.blocks := rfl
@[simp] theorem State.enqueue_parcels : (s.enqueue d v fl q).parcels = s.parcels := rfl
@[simp] theorem State.enqueue_posts : (s.enqueue d v fl q).posts = s.posts := rfl
@[simp] theorem State.enqueue_windows : (s.enqueue d v fl q).windows = s.windows := rfl
@[simp] theorem State.enqueue_remotes : (s.enqueue d v fl q).remotes = s.remotes := rfl
@[simp] theorem State.enqueue_colls : (s.enqueue d v fl q).colls = s.colls := rfl
@[simp] theorem State.enqueue_ports : (s.enqueue d v fl q).ports = s.ports := rfl
@[simp] theorem State.enqueue_links : (s.enqueue d v fl q).links = s.links := rfl
@[simp] theorem State.enqueue_drains : (s.enqueue d v fl q).drains = s.drains := rfl
@[simp] theorem State.enqueue_notices : (s.enqueue d v fl q).notices = s.notices := rfl
@[simp] theorem State.enqueue_routes : (s.enqueue d v fl q).routes = s.routes := rfl
@[simp] theorem State.enqueue_eaves : (s.enqueue d v fl q).eaves = s.eaves := rfl
@[simp] theorem State.enqueue_vifs : (s.enqueue d v fl q).vifs = s.vifs := rfl
@[simp] theorem State.enqueue_audits : (s.enqueue d v fl q).audits = s.audits := rfl
@[simp] theorem State.enqueue_badWords : (s.enqueue d v fl q).badWords = s.badWords := rfl
@[simp] theorem State.enqueue_weak : (s.enqueue d v fl q).weak = s.weak := rfl
@[simp] theorem State.enqueue_struck : (s.enqueue d v fl q).struck = s.struck := rfl
@[simp] theorem State.enqueue_answer : (s.enqueue d v fl q).answer = s.answer := rfl
@[simp] theorem State.enqueue_chip : (s.enqueue d v fl q).chip = s.chip := rfl
@[simp] theorem State.enqueue_heap : (s.enqueue d v fl q).heap = s.heap := rfl
@[simp] theorem State.enqueue_heapSize : (s.enqueue d v fl q).heapSize = s.heapSize := rfl
@[simp] theorem State.enqueue_saveSize : (s.enqueue d v fl q).saveSize = s.saveSize := rfl
@[simp] theorem State.enqueue_envPow : (s.enqueue d v fl q).envPow = s.envPow := rfl
@[simp] theorem State.enqueue_envInj : (s.enqueue d v fl q).envInj = s.envInj := rfl
@[simp] theorem State.enqueue_envCxl : (s.enqueue d v fl q).envCxl = s.envCxl := rfl
@[simp] theorem State.enqueue_attached : (s.enqueue d v fl q).attached = s.attached := rfl
@[simp] theorem State.enqueue_powered : (s.enqueue d v fl q).powered = s.powered := rfl
@[simp] theorem State.enqueue_mbase : (s.enqueue d v fl q).mbase = s.mbase := rfl
@[simp] theorem State.enqueue_time : (s.enqueue d v fl q).time = s.time := rfl
@[simp] theorem State.enqueue_fresh : (s.enqueue d v fl q).fresh = s.fresh + 1 := rfl
@[simp] theorem State.enqueue_turns : (s.enqueue d v fl q).turns = s.turns := rfl
@[simp] theorem State.enqueue_cycle : (s.enqueue d v fl q).cycle = s.cycle := rfl
@[simp] theorem State.enqueue_bundle : (s.enqueue d v fl q).bundle = s.bundle := rfl
@[simp] theorem State.enqueue_agenda : (s.enqueue d v fl q).agenda = s.agenda := rfl
end

section
variable (s : State) (n : Nat)
@[simp] theorem State.advanceBy_me : (s.advanceBy n).me = s.me.advanceBy n := rfl
@[simp] theorem State.advanceBy_others : (s.advanceBy n).others = s.others := rfl
@[simp] theorem State.advanceBy_groups : (s.advanceBy n).groups = s.groups := rfl
@[simp] theorem State.advanceBy_gangs : (s.advanceBy n).gangs = s.gangs := rfl
@[simp] theorem State.advanceBy_pads : (s.advanceBy n).pads = s.pads := rfl
@[simp] theorem State.advanceBy_cores : (s.advanceBy n).cores = s.cores := rfl
@[simp] theorem State.advanceBy_dies : (s.advanceBy n).dies = s.dies := rfl
@[simp] theorem State.advanceBy_purlin : (s.advanceBy n).purlin = s.purlin := rfl
@[simp] theorem State.advanceBy_mem : (s.advanceBy n).mem = s.mem := rfl
@[simp] theorem State.advanceBy_lines : (s.advanceBy n).lines = s.lines := rfl
@[simp] theorem State.advanceBy_counted : (s.advanceBy n).counted = s.counted := rfl
@[simp] theorem State.advanceBy_past : (s.advanceBy n).past = s.past := rfl
@[simp] theorem State.advanceBy_phases : (s.advanceBy n).phases = s.phases := rfl
@[simp] theorem State.advanceBy_ops : (s.advanceBy n).ops = s.ops := rfl
@[simp] theorem State.advanceBy_holds : (s.advanceBy n).holds = s.holds := rfl
@[simp] theorem State.advanceBy_handovers : (s.advanceBy n).handovers = s.handovers := rfl
@[simp] theorem State.advanceBy_pageReqs : (s.advanceBy n).pageReqs = s.pageReqs := rfl
@[simp] theorem State.advanceBy_devWrites : (s.advanceBy n).devWrites = s.devWrites := rfl
@[simp] theorem State.advanceBy_regions : (s.advanceBy n).regions = s.regions := rfl
@[simp] theorem State.advanceBy_tiles : (s.advanceBy n).tiles = s.tiles := rfl
@[simp] theorem State.advanceBy_copies : (s.advanceBy n).copies = s.copies := rfl
@[simp] theorem State.advanceBy_streams : (s.advanceBy n).streams = s.streams := rfl
@[simp] theorem State.advanceBy_matrix : (s.advanceBy n).matrix = s.matrix := rfl
@[simp] theorem State.advanceBy_slates : (s.advanceBy n).slates = s.slates := rfl
@[simp] theorem State.advanceBy_accs : (s.advanceBy n).accs = s.accs := rfl
@[simp] theorem State.advanceBy_binds : (s.advanceBy n).binds = s.binds := rfl
@[simp] theorem State.advanceBy_shadows : (s.advanceBy n).shadows = s.shadows := rfl
@[simp] theorem State.advanceBy_lates : (s.advanceBy n).lates = s.lates := rfl
@[simp] theorem State.advanceBy_batches : (s.advanceBy n).batches = s.batches := rfl
@[simp] theorem State.advanceBy_cards : (s.advanceBy n).cards = s.cards := rfl
@[simp] theorem State.advanceBy_ready : (s.advanceBy n).ready = s.ready := rfl
@[simp] theorem State.advanceBy_blocks : (s.advanceBy n).blocks = s.blocks := rfl
@[simp] theorem State.advanceBy_parcels : (s.advanceBy n).parcels = s.parcels := rfl
@[simp] theorem State.advanceBy_posts : (s.advanceBy n).posts = s.posts := rfl
@[simp] theorem State.advanceBy_windows : (s.advanceBy n).windows = s.windows := rfl
@[simp] theorem State.advanceBy_remotes : (s.advanceBy n).remotes = s.remotes := rfl
@[simp] theorem State.advanceBy_colls : (s.advanceBy n).colls = s.colls := rfl
@[simp] theorem State.advanceBy_ports : (s.advanceBy n).ports = s.ports := rfl
@[simp] theorem State.advanceBy_links : (s.advanceBy n).links = s.links := rfl
@[simp] theorem State.advanceBy_drains : (s.advanceBy n).drains = s.drains := rfl
@[simp] theorem State.advanceBy_notices : (s.advanceBy n).notices = s.notices := rfl
@[simp] theorem State.advanceBy_routes : (s.advanceBy n).routes = s.routes := rfl
@[simp] theorem State.advanceBy_eaves : (s.advanceBy n).eaves = s.eaves := rfl
@[simp] theorem State.advanceBy_vifs : (s.advanceBy n).vifs = s.vifs := rfl
@[simp] theorem State.advanceBy_audits : (s.advanceBy n).audits = s.audits := rfl
@[simp] theorem State.advanceBy_badWords : (s.advanceBy n).badWords = s.badWords := rfl
@[simp] theorem State.advanceBy_weak : (s.advanceBy n).weak = s.weak := rfl
@[simp] theorem State.advanceBy_struck : (s.advanceBy n).struck = s.struck := rfl
@[simp] theorem State.advanceBy_answer : (s.advanceBy n).answer = s.answer := rfl
@[simp] theorem State.advanceBy_chip : (s.advanceBy n).chip = s.chip := rfl
@[simp] theorem State.advanceBy_heap : (s.advanceBy n).heap = s.heap := rfl
@[simp] theorem State.advanceBy_heapSize : (s.advanceBy n).heapSize = s.heapSize := rfl
@[simp] theorem State.advanceBy_saveSize : (s.advanceBy n).saveSize = s.saveSize := rfl
@[simp] theorem State.advanceBy_envPow : (s.advanceBy n).envPow = s.envPow := rfl
@[simp] theorem State.advanceBy_envInj : (s.advanceBy n).envInj = s.envInj := rfl
@[simp] theorem State.advanceBy_envCxl : (s.advanceBy n).envCxl = s.envCxl := rfl
@[simp] theorem State.advanceBy_attached : (s.advanceBy n).attached = s.attached := rfl
@[simp] theorem State.advanceBy_powered : (s.advanceBy n).powered = s.powered := rfl
@[simp] theorem State.advanceBy_mbase : (s.advanceBy n).mbase = s.mbase := rfl
@[simp] theorem State.advanceBy_time : (s.advanceBy n).time = s.time := rfl
@[simp] theorem State.advanceBy_fresh : (s.advanceBy n).fresh = s.fresh := rfl
@[simp] theorem State.advanceBy_turns : (s.advanceBy n).turns = s.turns := rfl
@[simp] theorem State.advanceBy_cycle : (s.advanceBy n).cycle = s.cycle := rfl
@[simp] theorem State.advanceBy_bundle : (s.advanceBy n).bundle = s.bundle := rfl
@[simp] theorem State.advanceBy_agenda : (s.advanceBy n).agenda = s.agenda := rfl
end

section
variable (s : State) (a : Dword)
@[simp] theorem State.goto_me : (s.goto a).me = s.me.goAt a := rfl
@[simp] theorem State.goto_others : (s.goto a).others = s.others := rfl
@[simp] theorem State.goto_groups : (s.goto a).groups = s.groups := rfl
@[simp] theorem State.goto_gangs : (s.goto a).gangs = s.gangs := rfl
@[simp] theorem State.goto_pads : (s.goto a).pads = s.pads := rfl
@[simp] theorem State.goto_cores : (s.goto a).cores = s.cores := rfl
@[simp] theorem State.goto_dies : (s.goto a).dies = s.dies := rfl
@[simp] theorem State.goto_purlin : (s.goto a).purlin = s.purlin := rfl
@[simp] theorem State.goto_mem : (s.goto a).mem = s.mem := rfl
@[simp] theorem State.goto_lines : (s.goto a).lines = s.lines := rfl
@[simp] theorem State.goto_counted : (s.goto a).counted = s.counted := rfl
@[simp] theorem State.goto_past : (s.goto a).past = s.past := rfl
@[simp] theorem State.goto_phases : (s.goto a).phases = s.phases := rfl
@[simp] theorem State.goto_ops : (s.goto a).ops = s.ops := rfl
@[simp] theorem State.goto_holds : (s.goto a).holds = s.holds := rfl
@[simp] theorem State.goto_handovers : (s.goto a).handovers = s.handovers := rfl
@[simp] theorem State.goto_pageReqs : (s.goto a).pageReqs = s.pageReqs := rfl
@[simp] theorem State.goto_devWrites : (s.goto a).devWrites = s.devWrites := rfl
@[simp] theorem State.goto_regions : (s.goto a).regions = s.regions := rfl
@[simp] theorem State.goto_tiles : (s.goto a).tiles = s.tiles := rfl
@[simp] theorem State.goto_copies : (s.goto a).copies = s.copies := rfl
@[simp] theorem State.goto_streams : (s.goto a).streams = s.streams := rfl
@[simp] theorem State.goto_matrix : (s.goto a).matrix = s.matrix := rfl
@[simp] theorem State.goto_slates : (s.goto a).slates = s.slates := rfl
@[simp] theorem State.goto_accs : (s.goto a).accs = s.accs := rfl
@[simp] theorem State.goto_binds : (s.goto a).binds = s.binds := rfl
@[simp] theorem State.goto_shadows : (s.goto a).shadows = s.shadows := rfl
@[simp] theorem State.goto_lates : (s.goto a).lates = s.lates := rfl
@[simp] theorem State.goto_batches : (s.goto a).batches = s.batches := rfl
@[simp] theorem State.goto_cards : (s.goto a).cards = s.cards := rfl
@[simp] theorem State.goto_ready : (s.goto a).ready = s.ready := rfl
@[simp] theorem State.goto_blocks : (s.goto a).blocks = s.blocks := rfl
@[simp] theorem State.goto_parcels : (s.goto a).parcels = s.parcels := rfl
@[simp] theorem State.goto_posts : (s.goto a).posts = s.posts := rfl
@[simp] theorem State.goto_windows : (s.goto a).windows = s.windows := rfl
@[simp] theorem State.goto_remotes : (s.goto a).remotes = s.remotes := rfl
@[simp] theorem State.goto_colls : (s.goto a).colls = s.colls := rfl
@[simp] theorem State.goto_ports : (s.goto a).ports = s.ports := rfl
@[simp] theorem State.goto_links : (s.goto a).links = s.links := rfl
@[simp] theorem State.goto_drains : (s.goto a).drains = s.drains := rfl
@[simp] theorem State.goto_notices : (s.goto a).notices = s.notices := rfl
@[simp] theorem State.goto_routes : (s.goto a).routes = s.routes := rfl
@[simp] theorem State.goto_eaves : (s.goto a).eaves = s.eaves := rfl
@[simp] theorem State.goto_vifs : (s.goto a).vifs = s.vifs := rfl
@[simp] theorem State.goto_audits : (s.goto a).audits = s.audits := rfl
@[simp] theorem State.goto_badWords : (s.goto a).badWords = s.badWords := rfl
@[simp] theorem State.goto_weak : (s.goto a).weak = s.weak := rfl
@[simp] theorem State.goto_struck : (s.goto a).struck = s.struck := rfl
@[simp] theorem State.goto_answer : (s.goto a).answer = s.answer := rfl
@[simp] theorem State.goto_chip : (s.goto a).chip = s.chip := rfl
@[simp] theorem State.goto_heap : (s.goto a).heap = s.heap := rfl
@[simp] theorem State.goto_heapSize : (s.goto a).heapSize = s.heapSize := rfl
@[simp] theorem State.goto_saveSize : (s.goto a).saveSize = s.saveSize := rfl
@[simp] theorem State.goto_envPow : (s.goto a).envPow = s.envPow := rfl
@[simp] theorem State.goto_envInj : (s.goto a).envInj = s.envInj := rfl
@[simp] theorem State.goto_envCxl : (s.goto a).envCxl = s.envCxl := rfl
@[simp] theorem State.goto_attached : (s.goto a).attached = s.attached := rfl
@[simp] theorem State.goto_powered : (s.goto a).powered = s.powered := rfl
@[simp] theorem State.goto_mbase : (s.goto a).mbase = s.mbase := rfl
@[simp] theorem State.goto_time : (s.goto a).time = s.time := rfl
@[simp] theorem State.goto_fresh : (s.goto a).fresh = s.fresh := rfl
@[simp] theorem State.goto_turns : (s.goto a).turns = s.turns := rfl
@[simp] theorem State.goto_cycle : (s.goto a).cycle = s.cycle := rfl
@[simp] theorem State.goto_bundle : (s.goto a).bundle = s.bundle := rfl
@[simp] theorem State.goto_agenda : (s.goto a).agenda = s.agenda := rfl
end

section
variable (s : State) (k : WaitKind)
@[simp] theorem State.await_me : (s.await k).me = s.me.await { kind := k, since := s.time } := rfl
@[simp] theorem State.await_others : (s.await k).others = s.others := rfl
@[simp] theorem State.await_groups : (s.await k).groups = s.groups := rfl
@[simp] theorem State.await_gangs : (s.await k).gangs = s.gangs := rfl
@[simp] theorem State.await_pads : (s.await k).pads = s.pads := rfl
@[simp] theorem State.await_cores : (s.await k).cores = s.cores := rfl
@[simp] theorem State.await_dies : (s.await k).dies = s.dies := rfl
@[simp] theorem State.await_purlin : (s.await k).purlin = s.purlin := rfl
@[simp] theorem State.await_mem : (s.await k).mem = s.mem := rfl
@[simp] theorem State.await_lines : (s.await k).lines = s.lines := rfl
@[simp] theorem State.await_counted : (s.await k).counted = s.counted := rfl
@[simp] theorem State.await_past : (s.await k).past = s.past := rfl
@[simp] theorem State.await_phases : (s.await k).phases = s.phases := rfl
@[simp] theorem State.await_ops : (s.await k).ops = s.ops := rfl
@[simp] theorem State.await_holds : (s.await k).holds = s.holds := rfl
@[simp] theorem State.await_handovers : (s.await k).handovers = s.handovers := rfl
@[simp] theorem State.await_pageReqs : (s.await k).pageReqs = s.pageReqs := rfl
@[simp] theorem State.await_devWrites : (s.await k).devWrites = s.devWrites := rfl
@[simp] theorem State.await_regions : (s.await k).regions = s.regions := rfl
@[simp] theorem State.await_tiles : (s.await k).tiles = s.tiles := rfl
@[simp] theorem State.await_copies : (s.await k).copies = s.copies := rfl
@[simp] theorem State.await_streams : (s.await k).streams = s.streams := rfl
@[simp] theorem State.await_matrix : (s.await k).matrix = s.matrix := rfl
@[simp] theorem State.await_slates : (s.await k).slates = s.slates := rfl
@[simp] theorem State.await_accs : (s.await k).accs = s.accs := rfl
@[simp] theorem State.await_binds : (s.await k).binds = s.binds := rfl
@[simp] theorem State.await_shadows : (s.await k).shadows = s.shadows := rfl
@[simp] theorem State.await_lates : (s.await k).lates = s.lates := rfl
@[simp] theorem State.await_batches : (s.await k).batches = s.batches := rfl
@[simp] theorem State.await_cards : (s.await k).cards = s.cards := rfl
@[simp] theorem State.await_ready : (s.await k).ready = s.ready := rfl
@[simp] theorem State.await_blocks : (s.await k).blocks = s.blocks := rfl
@[simp] theorem State.await_parcels : (s.await k).parcels = s.parcels := rfl
@[simp] theorem State.await_posts : (s.await k).posts = s.posts := rfl
@[simp] theorem State.await_windows : (s.await k).windows = s.windows := rfl
@[simp] theorem State.await_remotes : (s.await k).remotes = s.remotes := rfl
@[simp] theorem State.await_colls : (s.await k).colls = s.colls := rfl
@[simp] theorem State.await_ports : (s.await k).ports = s.ports := rfl
@[simp] theorem State.await_links : (s.await k).links = s.links := rfl
@[simp] theorem State.await_drains : (s.await k).drains = s.drains := rfl
@[simp] theorem State.await_notices : (s.await k).notices = s.notices := rfl
@[simp] theorem State.await_routes : (s.await k).routes = s.routes := rfl
@[simp] theorem State.await_eaves : (s.await k).eaves = s.eaves := rfl
@[simp] theorem State.await_vifs : (s.await k).vifs = s.vifs := rfl
@[simp] theorem State.await_audits : (s.await k).audits = s.audits := rfl
@[simp] theorem State.await_badWords : (s.await k).badWords = s.badWords := rfl
@[simp] theorem State.await_weak : (s.await k).weak = s.weak := rfl
@[simp] theorem State.await_struck : (s.await k).struck = s.struck := rfl
@[simp] theorem State.await_answer : (s.await k).answer = s.answer := rfl
@[simp] theorem State.await_chip : (s.await k).chip = s.chip := rfl
@[simp] theorem State.await_heap : (s.await k).heap = s.heap := rfl
@[simp] theorem State.await_heapSize : (s.await k).heapSize = s.heapSize := rfl
@[simp] theorem State.await_saveSize : (s.await k).saveSize = s.saveSize := rfl
@[simp] theorem State.await_envPow : (s.await k).envPow = s.envPow := rfl
@[simp] theorem State.await_envInj : (s.await k).envInj = s.envInj := rfl
@[simp] theorem State.await_envCxl : (s.await k).envCxl = s.envCxl := rfl
@[simp] theorem State.await_attached : (s.await k).attached = s.attached := rfl
@[simp] theorem State.await_powered : (s.await k).powered = s.powered := rfl
@[simp] theorem State.await_mbase : (s.await k).mbase = s.mbase := rfl
@[simp] theorem State.await_time : (s.await k).time = s.time := rfl
@[simp] theorem State.await_fresh : (s.await k).fresh = s.fresh := rfl
@[simp] theorem State.await_turns : (s.await k).turns = s.turns := rfl
@[simp] theorem State.await_cycle : (s.await k).cycle = s.cycle := rfl
@[simp] theorem State.await_bundle : (s.await k).bundle = s.bundle := rfl
@[simp] theorem State.await_agenda : (s.await k).agenda = s.agenda := rfl
end

section
variable (s : State) (w : Wait)
@[simp] theorem State.awaitWith_me : (s.awaitWith w).me = s.me.await { w with since := s.time } := rfl
@[simp] theorem State.awaitWith_others : (s.awaitWith w).others = s.others := rfl
@[simp] theorem State.awaitWith_groups : (s.awaitWith w).groups = s.groups := rfl
@[simp] theorem State.awaitWith_gangs : (s.awaitWith w).gangs = s.gangs := rfl
@[simp] theorem State.awaitWith_pads : (s.awaitWith w).pads = s.pads := rfl
@[simp] theorem State.awaitWith_cores : (s.awaitWith w).cores = s.cores := rfl
@[simp] theorem State.awaitWith_dies : (s.awaitWith w).dies = s.dies := rfl
@[simp] theorem State.awaitWith_purlin : (s.awaitWith w).purlin = s.purlin := rfl
@[simp] theorem State.awaitWith_mem : (s.awaitWith w).mem = s.mem := rfl
@[simp] theorem State.awaitWith_lines : (s.awaitWith w).lines = s.lines := rfl
@[simp] theorem State.awaitWith_counted : (s.awaitWith w).counted = s.counted := rfl
@[simp] theorem State.awaitWith_past : (s.awaitWith w).past = s.past := rfl
@[simp] theorem State.awaitWith_phases : (s.awaitWith w).phases = s.phases := rfl
@[simp] theorem State.awaitWith_ops : (s.awaitWith w).ops = s.ops := rfl
@[simp] theorem State.awaitWith_holds : (s.awaitWith w).holds = s.holds := rfl
@[simp] theorem State.awaitWith_handovers : (s.awaitWith w).handovers = s.handovers := rfl
@[simp] theorem State.awaitWith_pageReqs : (s.awaitWith w).pageReqs = s.pageReqs := rfl
@[simp] theorem State.awaitWith_devWrites : (s.awaitWith w).devWrites = s.devWrites := rfl
@[simp] theorem State.awaitWith_regions : (s.awaitWith w).regions = s.regions := rfl
@[simp] theorem State.awaitWith_tiles : (s.awaitWith w).tiles = s.tiles := rfl
@[simp] theorem State.awaitWith_copies : (s.awaitWith w).copies = s.copies := rfl
@[simp] theorem State.awaitWith_streams : (s.awaitWith w).streams = s.streams := rfl
@[simp] theorem State.awaitWith_matrix : (s.awaitWith w).matrix = s.matrix := rfl
@[simp] theorem State.awaitWith_slates : (s.awaitWith w).slates = s.slates := rfl
@[simp] theorem State.awaitWith_accs : (s.awaitWith w).accs = s.accs := rfl
@[simp] theorem State.awaitWith_binds : (s.awaitWith w).binds = s.binds := rfl
@[simp] theorem State.awaitWith_shadows : (s.awaitWith w).shadows = s.shadows := rfl
@[simp] theorem State.awaitWith_lates : (s.awaitWith w).lates = s.lates := rfl
@[simp] theorem State.awaitWith_batches : (s.awaitWith w).batches = s.batches := rfl
@[simp] theorem State.awaitWith_cards : (s.awaitWith w).cards = s.cards := rfl
@[simp] theorem State.awaitWith_ready : (s.awaitWith w).ready = s.ready := rfl
@[simp] theorem State.awaitWith_blocks : (s.awaitWith w).blocks = s.blocks := rfl
@[simp] theorem State.awaitWith_parcels : (s.awaitWith w).parcels = s.parcels := rfl
@[simp] theorem State.awaitWith_posts : (s.awaitWith w).posts = s.posts := rfl
@[simp] theorem State.awaitWith_windows : (s.awaitWith w).windows = s.windows := rfl
@[simp] theorem State.awaitWith_remotes : (s.awaitWith w).remotes = s.remotes := rfl
@[simp] theorem State.awaitWith_colls : (s.awaitWith w).colls = s.colls := rfl
@[simp] theorem State.awaitWith_ports : (s.awaitWith w).ports = s.ports := rfl
@[simp] theorem State.awaitWith_links : (s.awaitWith w).links = s.links := rfl
@[simp] theorem State.awaitWith_drains : (s.awaitWith w).drains = s.drains := rfl
@[simp] theorem State.awaitWith_notices : (s.awaitWith w).notices = s.notices := rfl
@[simp] theorem State.awaitWith_routes : (s.awaitWith w).routes = s.routes := rfl
@[simp] theorem State.awaitWith_eaves : (s.awaitWith w).eaves = s.eaves := rfl
@[simp] theorem State.awaitWith_vifs : (s.awaitWith w).vifs = s.vifs := rfl
@[simp] theorem State.awaitWith_audits : (s.awaitWith w).audits = s.audits := rfl
@[simp] theorem State.awaitWith_badWords : (s.awaitWith w).badWords = s.badWords := rfl
@[simp] theorem State.awaitWith_weak : (s.awaitWith w).weak = s.weak := rfl
@[simp] theorem State.awaitWith_struck : (s.awaitWith w).struck = s.struck := rfl
@[simp] theorem State.awaitWith_answer : (s.awaitWith w).answer = s.answer := rfl
@[simp] theorem State.awaitWith_chip : (s.awaitWith w).chip = s.chip := rfl
@[simp] theorem State.awaitWith_heap : (s.awaitWith w).heap = s.heap := rfl
@[simp] theorem State.awaitWith_heapSize : (s.awaitWith w).heapSize = s.heapSize := rfl
@[simp] theorem State.awaitWith_saveSize : (s.awaitWith w).saveSize = s.saveSize := rfl
@[simp] theorem State.awaitWith_envPow : (s.awaitWith w).envPow = s.envPow := rfl
@[simp] theorem State.awaitWith_envInj : (s.awaitWith w).envInj = s.envInj := rfl
@[simp] theorem State.awaitWith_envCxl : (s.awaitWith w).envCxl = s.envCxl := rfl
@[simp] theorem State.awaitWith_attached : (s.awaitWith w).attached = s.attached := rfl
@[simp] theorem State.awaitWith_powered : (s.awaitWith w).powered = s.powered := rfl
@[simp] theorem State.awaitWith_mbase : (s.awaitWith w).mbase = s.mbase := rfl
@[simp] theorem State.awaitWith_time : (s.awaitWith w).time = s.time := rfl
@[simp] theorem State.awaitWith_fresh : (s.awaitWith w).fresh = s.fresh := rfl
@[simp] theorem State.awaitWith_turns : (s.awaitWith w).turns = s.turns := rfl
@[simp] theorem State.awaitWith_cycle : (s.awaitWith w).cycle = s.cycle := rfl
@[simp] theorem State.awaitWith_bundle : (s.awaitWith w).bundle = s.bundle := rfl
@[simp] theorem State.awaitWith_agenda : (s.awaitWith w).agenda = s.agenda := rfl
end

/-! ### Threads -/

section
variable (t : Thread) (n : Nat)
@[simp] theorem Thread.advanceBy_uid : (t.advanceBy n).uid = t.uid := rfl
@[simp] theorem Thread.advanceBy_gang : (t.advanceBy n).gang = t.gang := rfl
@[simp] theorem Thread.advanceBy_role : (t.advanceBy n).role = t.role := rfl
@[simp] theorem Thread.advanceBy_gid : (t.advanceBy n).gid = t.gid := rfl
@[simp] theorem Thread.advanceBy_member : (t.advanceBy n).member = t.member := rfl
@[simp] theorem Thread.advanceBy_tid : (t.advanceBy n).tid = t.tid := rfl
@[simp] theorem Thread.advanceBy_core : (t.advanceBy n).core = t.core := rfl
@[simp] theorem Thread.advanceBy_part : (t.advanceBy n).part = t.part := rfl
@[simp] theorem Thread.advanceBy_lane : (t.advanceBy n).lane = t.lane := rfl
@[simp] theorem Thread.advanceBy_budget : (t.advanceBy n).budget = t.budget := rfl
@[simp] theorem Thread.advanceBy_pc : (t.advanceBy n).pc = nextStart t.pc n := rfl
@[simp] theorem Thread.advanceBy_regs : (t.advanceBy n).regs = t.regs := rfl
@[simp] theorem Thread.advanceBy_fe : (t.advanceBy n).fe = t.fe := rfl
@[simp] theorem Thread.advanceBy_preds : (t.advanceBy n).preds = t.preds := rfl
@[simp] theorem Thread.advanceBy_ord : (t.advanceBy n).ord = t.ord := rfl
@[simp] theorem Thread.advanceBy_stk : (t.advanceBy n).stk = t.stk := rfl
@[simp] theorem Thread.advanceBy_fcr : (t.advanceBy n).fcr = t.fcr := rfl
@[simp] theorem Thread.advanceBy_fsr : (t.advanceBy n).fsr = t.fsr := rfl
@[simp] theorem Thread.advanceBy_trapf : (t.advanceBy n).trapf = t.trapf := rfl
@[simp] theorem Thread.advanceBy_asid : (t.advanceBy n).asid = t.asid := rfl
@[simp] theorem Thread.advanceBy_ptel : (t.advanceBy n).ptel = t.ptel := rfl
@[simp] theorem Thread.advanceBy_priv : (t.advanceBy n).priv = t.priv := rfl
@[simp] theorem Thread.advanceBy_privSize : (t.advanceBy n).privSize = t.privSize := rfl
@[simp] theorem Thread.advanceBy_privBase : (t.advanceBy n).privBase = t.privBase := rfl
@[simp] theorem Thread.advanceBy_prods : (t.advanceBy n).prods = t.prods := rfl
@[simp] theorem Thread.advanceBy_run : (t.advanceBy n).run = .ready := rfl
@[simp] theorem Thread.advanceBy_halted : (t.advanceBy n).halted = t.halted := rfl
@[simp] theorem Thread.advanceBy_handler : (t.advanceBy n).handler = t.handler := rfl
@[simp] theorem Thread.advanceBy_entering : (t.advanceBy n).entering = t.entering := rfl
@[simp] theorem Thread.advanceBy_held : (t.advanceBy n).held = t.held := rfl
@[simp] theorem Thread.advanceBy_cancelTaken : (t.advanceBy n).cancelTaken = t.cancelTaken := rfl
@[simp] theorem Thread.advanceBy_psn : (t.advanceBy n).psn = t.psn := rfl
@[simp] theorem Thread.advanceBy_resv : (t.advanceBy n).resv = t.resv.map Resv.older := rfl
@[simp] theorem Thread.advanceBy_trig : (t.advanceBy n).trig = t.trig := rfl
@[simp] theorem Thread.advanceBy_resume : (t.advanceBy n).resume = t.resume := rfl
@[simp] theorem Thread.advanceBy_light : (t.advanceBy n).light = t.light := rfl
@[simp] theorem Thread.advanceBy_warned : (t.advanceBy n).warned = t.warned := rfl
@[simp] theorem Thread.advanceBy_wrote : (t.advanceBy n).wrote = t.wrote := rfl
@[simp] theorem Thread.advanceBy_stepping : (t.advanceBy n).stepping = t.stepping := rfl
@[simp] theorem Thread.advanceBy_starting : (t.advanceBy n).starting = t.starting := rfl
@[simp] theorem Thread.advanceBy_asks : (t.advanceBy n).asks = t.asks := rfl
@[simp] theorem Thread.advanceBy_syncs : (t.advanceBy n).syncs = t.syncs := rfl
@[simp] theorem Thread.advanceBy_since : (t.advanceBy n).since = t.since := rfl
@[simp] theorem Thread.advanceBy_logs : (t.advanceBy n).logs = t.logs := rfl
@[simp] theorem Thread.advanceBy_struck : (t.advanceBy n).struck = t.struck := rfl
end

section
variable (t : Thread) (a : Dword)
@[simp] theorem Thread.goAt_uid : (t.goAt a).uid = t.uid := rfl
@[simp] theorem Thread.goAt_gang : (t.goAt a).gang = t.gang := rfl
@[simp] theorem Thread.goAt_role : (t.goAt a).role = t.role := rfl
@[simp] theorem Thread.goAt_gid : (t.goAt a).gid = t.gid := rfl
@[simp] theorem Thread.goAt_member : (t.goAt a).member = t.member := rfl
@[simp] theorem Thread.goAt_tid : (t.goAt a).tid = t.tid := rfl
@[simp] theorem Thread.goAt_core : (t.goAt a).core = t.core := rfl
@[simp] theorem Thread.goAt_part : (t.goAt a).part = t.part := rfl
@[simp] theorem Thread.goAt_lane : (t.goAt a).lane = t.lane := rfl
@[simp] theorem Thread.goAt_budget : (t.goAt a).budget = t.budget := rfl
@[simp] theorem Thread.goAt_pc : (t.goAt a).pc = a := rfl
@[simp] theorem Thread.goAt_regs : (t.goAt a).regs = t.regs := rfl
@[simp] theorem Thread.goAt_fe : (t.goAt a).fe = t.fe := rfl
@[simp] theorem Thread.goAt_preds : (t.goAt a).preds = t.preds := rfl
@[simp] theorem Thread.goAt_ord : (t.goAt a).ord = t.ord := rfl
@[simp] theorem Thread.goAt_stk : (t.goAt a).stk = t.stk := rfl
@[simp] theorem Thread.goAt_fcr : (t.goAt a).fcr = t.fcr := rfl
@[simp] theorem Thread.goAt_fsr : (t.goAt a).fsr = t.fsr := rfl
@[simp] theorem Thread.goAt_trapf : (t.goAt a).trapf = t.trapf := rfl
@[simp] theorem Thread.goAt_asid : (t.goAt a).asid = t.asid := rfl
@[simp] theorem Thread.goAt_ptel : (t.goAt a).ptel = t.ptel := rfl
@[simp] theorem Thread.goAt_priv : (t.goAt a).priv = t.priv := rfl
@[simp] theorem Thread.goAt_privSize : (t.goAt a).privSize = t.privSize := rfl
@[simp] theorem Thread.goAt_privBase : (t.goAt a).privBase = t.privBase := rfl
@[simp] theorem Thread.goAt_prods : (t.goAt a).prods = t.prods := rfl
@[simp] theorem Thread.goAt_run : (t.goAt a).run = .ready := rfl
@[simp] theorem Thread.goAt_halted : (t.goAt a).halted = t.halted := rfl
@[simp] theorem Thread.goAt_handler : (t.goAt a).handler = t.handler := rfl
@[simp] theorem Thread.goAt_entering : (t.goAt a).entering = t.entering := rfl
@[simp] theorem Thread.goAt_held : (t.goAt a).held = t.held := rfl
@[simp] theorem Thread.goAt_cancelTaken : (t.goAt a).cancelTaken = t.cancelTaken := rfl
@[simp] theorem Thread.goAt_psn : (t.goAt a).psn = t.psn := rfl
@[simp] theorem Thread.goAt_resv : (t.goAt a).resv = t.resv.map Resv.older := rfl
@[simp] theorem Thread.goAt_trig : (t.goAt a).trig = t.trig := rfl
@[simp] theorem Thread.goAt_resume : (t.goAt a).resume = t.resume := rfl
@[simp] theorem Thread.goAt_light : (t.goAt a).light = t.light := rfl
@[simp] theorem Thread.goAt_warned : (t.goAt a).warned = t.warned := rfl
@[simp] theorem Thread.goAt_wrote : (t.goAt a).wrote = t.wrote := rfl
@[simp] theorem Thread.goAt_stepping : (t.goAt a).stepping = t.stepping := rfl
@[simp] theorem Thread.goAt_starting : (t.goAt a).starting = t.starting := rfl
@[simp] theorem Thread.goAt_asks : (t.goAt a).asks = t.asks := rfl
@[simp] theorem Thread.goAt_syncs : (t.goAt a).syncs = t.syncs := rfl
@[simp] theorem Thread.goAt_since : (t.goAt a).since = t.since := rfl
@[simp] theorem Thread.goAt_logs : (t.goAt a).logs = t.logs := rfl
@[simp] theorem Thread.goAt_struck : (t.goAt a).struck = t.struck := rfl
end

section
variable (t : Thread) (r : Reg) (n : Nat)
@[simp] theorem Thread.mend_uid : (t.mend r n).uid = t.uid := rfl
@[simp] theorem Thread.mend_gang : (t.mend r n).gang = t.gang := rfl
@[simp] theorem Thread.mend_role : (t.mend r n).role = t.role := rfl
@[simp] theorem Thread.mend_gid : (t.mend r n).gid = t.gid := rfl
@[simp] theorem Thread.mend_member : (t.mend r n).member = t.member := rfl
@[simp] theorem Thread.mend_tid : (t.mend r n).tid = t.tid := rfl
@[simp] theorem Thread.mend_core : (t.mend r n).core = t.core := rfl
@[simp] theorem Thread.mend_part : (t.mend r n).part = t.part := rfl
@[simp] theorem Thread.mend_lane : (t.mend r n).lane = t.lane := rfl
@[simp] theorem Thread.mend_budget : (t.mend r n).budget = t.budget := rfl
@[simp] theorem Thread.mend_pc : (t.mend r n).pc = t.pc := rfl
@[simp] theorem Thread.mend_regs : (t.mend r n).regs = t.regs := rfl
@[simp] theorem Thread.mend_fe : (t.mend r n).fe = t.fe := rfl
@[simp] theorem Thread.mend_preds : (t.mend r n).preds = t.preds := rfl
@[simp] theorem Thread.mend_ord : (t.mend r n).ord = t.ord := rfl
@[simp] theorem Thread.mend_stk : (t.mend r n).stk = t.stk := rfl
@[simp] theorem Thread.mend_fcr : (t.mend r n).fcr = t.fcr := rfl
@[simp] theorem Thread.mend_fsr : (t.mend r n).fsr = t.fsr := rfl
@[simp] theorem Thread.mend_trapf : (t.mend r n).trapf = t.trapf := rfl
@[simp] theorem Thread.mend_asid : (t.mend r n).asid = t.asid := rfl
@[simp] theorem Thread.mend_ptel : (t.mend r n).ptel = t.ptel := rfl
@[simp] theorem Thread.mend_priv : (t.mend r n).priv = t.priv := rfl
@[simp] theorem Thread.mend_privSize : (t.mend r n).privSize = t.privSize := rfl
@[simp] theorem Thread.mend_privBase : (t.mend r n).privBase = t.privBase := rfl
@[simp] theorem Thread.mend_prods : (t.mend r n).prods = t.prods := rfl
@[simp] theorem Thread.mend_run : (t.mend r n).run = t.run := rfl
@[simp] theorem Thread.mend_halted : (t.mend r n).halted = t.halted := rfl
@[simp] theorem Thread.mend_handler : (t.mend r n).handler = t.handler := rfl
@[simp] theorem Thread.mend_entering : (t.mend r n).entering = t.entering := rfl
@[simp] theorem Thread.mend_held : (t.mend r n).held = t.held := rfl
@[simp] theorem Thread.mend_cancelTaken : (t.mend r n).cancelTaken = t.cancelTaken := rfl
@[simp] theorem Thread.mend_psn : (t.mend r n).psn = t.psn := rfl
@[simp] theorem Thread.mend_resv : (t.mend r n).resv = t.resv := rfl
@[simp] theorem Thread.mend_trig : (t.mend r n).trig = t.trig := rfl
@[simp] theorem Thread.mend_resume : (t.mend r n).resume = t.resume := rfl
@[simp] theorem Thread.mend_light : (t.mend r n).light = t.light := rfl
@[simp] theorem Thread.mend_warned : (t.mend r n).warned = t.warned := rfl
@[simp] theorem Thread.mend_wrote : (t.mend r n).wrote = t.wrote := rfl
@[simp] theorem Thread.mend_stepping : (t.mend r n).stepping = t.stepping := rfl
@[simp] theorem Thread.mend_starting : (t.mend r n).starting = t.starting := rfl
@[simp] theorem Thread.mend_asks : (t.mend r n).asks = t.asks := rfl
@[simp] theorem Thread.mend_syncs : (t.mend r n).syncs = t.syncs := rfl
@[simp] theorem Thread.mend_since : (t.mend r n).since = t.since := rfl
@[simp] theorem Thread.mend_logs : (t.mend r n).logs = t.logs := rfl
end

/-- Writing a register changes registers, full bits and pending producers only (R69, R71). -/
theorem Thread.wr_shape (t : Thread) (r : Reg) (v : Word) :
    ∃ a b c, t.wr r v = { t with regs := a, fe := b, prods := c } := by
  unfold Thread.wr
  split
  · exact ⟨t.regs, t.fe, t.prods, rfl⟩
  · split
    · exact ⟨_, t.fe, _, rfl⟩
    · exact ⟨_, _, t.prods, rfl⟩

theorem Thread.wrs_shape (ws : List Word) : ∀ (t : Thread) (r : Reg),
    ∃ a b c, t.wrs r ws = { t with regs := a, fe := b, prods := c } := by
  induction ws with
  | nil => exact fun t r => ⟨t.regs, t.fe, t.prods, rfl⟩
  | cons w ws ih =>
    intro t r
    obtain ⟨a, b, c, h⟩ := t.wr_shape r w
    obtain ⟨a', b', c', h'⟩ := ih (t.wr r w) (r + 1)
    exact ⟨a', b', c', by rw [Thread.wrs, h', h]⟩

theorem Thread.wr2_shape (t : Thread) (r : Reg) (v : Dword) :
    ∃ a b c d, t.wr2 r v = { t with regs := a, fe := b, prods := c, struck := d } := by
  obtain ⟨a, b, c, h⟩ := Thread.wrs_shape [v.setWidth 32, (v >>> 32).setWidth 32] t r
  exact ⟨a, b, c, _, by rw [Thread.wr2, h]; rfl⟩

theorem Thread.drain_shape (t : Thread) (r : Reg) : ∃ b c, t.drain r = { t with fe := b, prods := c } := by
  unfold Thread.drain
  split
  · exact ⟨t.fe, t.prods, rfl⟩
  · exact ⟨_, _, rfl⟩

theorem Thread.drains_shape (rs : List Reg) : ∀ t : Thread, ∃ b c, rs.foldl Thread.drain t = { t with fe := b, prods := c } := by
  induction rs with
  | nil => exact fun t => ⟨t.fe, t.prods, rfl⟩
  | cons r rs ih =>
    intro t
    obtain ⟨b, c, h⟩ := t.drain_shape r
    obtain ⟨b', c', h'⟩ := ih (t.drain r)
    exact ⟨b', c', by rw [List.foldl_cons, h', h]⟩

/-- A producer leaves the values of all registers (R69). -/
theorem Thread.produce_shape (t : Thread) (p : Prod) : ∃ b c, t.produce p = { t with fe := b, prods := c } := by
  obtain ⟨b, c, h⟩ := Thread.drains_shape (regGroup p.d p.n) t
  exact ⟨b, c ++ [p], by simp only [Thread.produce, h]⟩

theorem Thread.setPred_shape (t : Thread) (p : BitVec 3) (v : Bool) : ∃ a, t.setPred p v = { t with preds := a } := by
  unfold Thread.setPred
  split
  · exact ⟨t.preds, rfl⟩
  · exact ⟨_, rfl⟩

theorem Thread.await_shape (t : Thread) (w : Wait) : ∃ w' : Wait, w'.kind = w.kind ∧ w'.data = w.data ∧ t.await w = { t with run := .waiting w' } := by
  unfold Thread.await
  split
  · rename_i w' _
    split
    · exact ⟨{ w with since := w'.since, frozen := w'.frozen, freed := w'.freed }, rfl, rfl, rfl⟩
    · exact ⟨w, rfl, rfl, rfl⟩
  · exact ⟨w, rfl, rfl, rfl⟩

section
variable (t : Thread) (r : Reg) (v : Word)
@[simp] theorem Thread.wr_uid : (t.wr r v).uid = t.uid := by
  obtain ⟨a, b, c, h⟩ := t.wr_shape r v; rw [h]
@[simp] theorem Thread.wr_gang : (t.wr r v).gang = t.gang := by
  obtain ⟨a, b, c, h⟩ := t.wr_shape r v; rw [h]
@[simp] theorem Thread.wr_role : (t.wr r v).role = t.role := by
  obtain ⟨a, b, c, h⟩ := t.wr_shape r v; rw [h]
@[simp] theorem Thread.wr_gid : (t.wr r v).gid = t.gid := by
  obtain ⟨a, b, c, h⟩ := t.wr_shape r v; rw [h]
@[simp] theorem Thread.wr_member : (t.wr r v).member = t.member := by
  obtain ⟨a, b, c, h⟩ := t.wr_shape r v; rw [h]
@[simp] theorem Thread.wr_tid : (t.wr r v).tid = t.tid := by
  obtain ⟨a, b, c, h⟩ := t.wr_shape r v; rw [h]
@[simp] theorem Thread.wr_core : (t.wr r v).core = t.core := by
  obtain ⟨a, b, c, h⟩ := t.wr_shape r v; rw [h]
@[simp] theorem Thread.wr_part : (t.wr r v).part = t.part := by
  obtain ⟨a, b, c, h⟩ := t.wr_shape r v; rw [h]
@[simp] theorem Thread.wr_lane : (t.wr r v).lane = t.lane := by
  obtain ⟨a, b, c, h⟩ := t.wr_shape r v; rw [h]
@[simp] theorem Thread.wr_budget : (t.wr r v).budget = t.budget := by
  obtain ⟨a, b, c, h⟩ := t.wr_shape r v; rw [h]
@[simp] theorem Thread.wr_pc : (t.wr r v).pc = t.pc := by
  obtain ⟨a, b, c, h⟩ := t.wr_shape r v; rw [h]
@[simp] theorem Thread.wr_preds : (t.wr r v).preds = t.preds := by
  obtain ⟨a, b, c, h⟩ := t.wr_shape r v; rw [h]
@[simp] theorem Thread.wr_ord : (t.wr r v).ord = t.ord := by
  obtain ⟨a, b, c, h⟩ := t.wr_shape r v; rw [h]
@[simp] theorem Thread.wr_stk : (t.wr r v).stk = t.stk := by
  obtain ⟨a, b, c, h⟩ := t.wr_shape r v; rw [h]
@[simp] theorem Thread.wr_fcr : (t.wr r v).fcr = t.fcr := by
  obtain ⟨a, b, c, h⟩ := t.wr_shape r v; rw [h]
@[simp] theorem Thread.wr_fsr : (t.wr r v).fsr = t.fsr := by
  obtain ⟨a, b, c, h⟩ := t.wr_shape r v; rw [h]
@[simp] theorem Thread.wr_trapf : (t.wr r v).trapf = t.trapf := by
  obtain ⟨a, b, c, h⟩ := t.wr_shape r v; rw [h]
@[simp] theorem Thread.wr_asid : (t.wr r v).asid = t.asid := by
  obtain ⟨a, b, c, h⟩ := t.wr_shape r v; rw [h]
@[simp] theorem Thread.wr_ptel : (t.wr r v).ptel = t.ptel := by
  obtain ⟨a, b, c, h⟩ := t.wr_shape r v; rw [h]
@[simp] theorem Thread.wr_priv : (t.wr r v).priv = t.priv := by
  obtain ⟨a, b, c, h⟩ := t.wr_shape r v; rw [h]
@[simp] theorem Thread.wr_privSize : (t.wr r v).privSize = t.privSize := by
  obtain ⟨a, b, c, h⟩ := t.wr_shape r v; rw [h]
@[simp] theorem Thread.wr_privBase : (t.wr r v).privBase = t.privBase := by
  obtain ⟨a, b, c, h⟩ := t.wr_shape r v; rw [h]
@[simp] theorem Thread.wr_run : (t.wr r v).run = t.run := by
  obtain ⟨a, b, c, h⟩ := t.wr_shape r v; rw [h]
@[simp] theorem Thread.wr_halted : (t.wr r v).halted = t.halted := by
  obtain ⟨a, b, c, h⟩ := t.wr_shape r v; rw [h]
@[simp] theorem Thread.wr_handler : (t.wr r v).handler = t.handler := by
  obtain ⟨a, b, c, h⟩ := t.wr_shape r v; rw [h]
@[simp] theorem Thread.wr_entering : (t.wr r v).entering = t.entering := by
  obtain ⟨a, b, c, h⟩ := t.wr_shape r v; rw [h]
@[simp] theorem Thread.wr_held : (t.wr r v).held = t.held := by
  obtain ⟨a, b, c, h⟩ := t.wr_shape r v; rw [h]
@[simp] theorem Thread.wr_cancelTaken : (t.wr r v).cancelTaken = t.cancelTaken := by
  obtain ⟨a, b, c, h⟩ := t.wr_shape r v; rw [h]
@[simp] theorem Thread.wr_psn : (t.wr r v).psn = t.psn := by
  obtain ⟨a, b, c, h⟩ := t.wr_shape r v; rw [h]
@[simp] theorem Thread.wr_resv : (t.wr r v).resv = t.resv := by
  obtain ⟨a, b, c, h⟩ := t.wr_shape r v; rw [h]
@[simp] theorem Thread.wr_trig : (t.wr r v).trig = t.trig := by
  obtain ⟨a, b, c, h⟩ := t.wr_shape r v; rw [h]
@[simp] theorem Thread.wr_resume : (t.wr r v).resume = t.resume := by
  obtain ⟨a, b, c, h⟩ := t.wr_shape r v; rw [h]
@[simp] theorem Thread.wr_light : (t.wr r v).light = t.light := by
  obtain ⟨a, b, c, h⟩ := t.wr_shape r v; rw [h]
@[simp] theorem Thread.wr_warned : (t.wr r v).warned = t.warned := by
  obtain ⟨a, b, c, h⟩ := t.wr_shape r v; rw [h]
@[simp] theorem Thread.wr_wrote : (t.wr r v).wrote = t.wrote := by
  obtain ⟨a, b, c, h⟩ := t.wr_shape r v; rw [h]
@[simp] theorem Thread.wr_stepping : (t.wr r v).stepping = t.stepping := by
  obtain ⟨a, b, c, h⟩ := t.wr_shape r v; rw [h]
@[simp] theorem Thread.wr_starting : (t.wr r v).starting = t.starting := by
  obtain ⟨a, b, c, h⟩ := t.wr_shape r v; rw [h]
@[simp] theorem Thread.wr_asks : (t.wr r v).asks = t.asks := by
  obtain ⟨a, b, c, h⟩ := t.wr_shape r v; rw [h]
@[simp] theorem Thread.wr_syncs : (t.wr r v).syncs = t.syncs := by
  obtain ⟨a, b, c, h⟩ := t.wr_shape r v; rw [h]
@[simp] theorem Thread.wr_since : (t.wr r v).since = t.since := by
  obtain ⟨a, b, c, h⟩ := t.wr_shape r v; rw [h]
@[simp] theorem Thread.wr_logs : (t.wr r v).logs = t.logs := by
  obtain ⟨a, b, c, h⟩ := t.wr_shape r v; rw [h]
@[simp] theorem Thread.wr_struck : (t.wr r v).struck = t.struck := by
  obtain ⟨a, b, c, h⟩ := t.wr_shape r v; rw [h]
end

section
variable (t : Thread) (r : Reg) (ws : List Word)
@[simp] theorem Thread.wrs_uid : (t.wrs r ws).uid = t.uid := by
  obtain ⟨a, b, c, h⟩ := Thread.wrs_shape ws t r; rw [h]
@[simp] theorem Thread.wrs_gang : (t.wrs r ws).gang = t.gang := by
  obtain ⟨a, b, c, h⟩ := Thread.wrs_shape ws t r; rw [h]
@[simp] theorem Thread.wrs_role : (t.wrs r ws).role = t.role := by
  obtain ⟨a, b, c, h⟩ := Thread.wrs_shape ws t r; rw [h]
@[simp] theorem Thread.wrs_gid : (t.wrs r ws).gid = t.gid := by
  obtain ⟨a, b, c, h⟩ := Thread.wrs_shape ws t r; rw [h]
@[simp] theorem Thread.wrs_member : (t.wrs r ws).member = t.member := by
  obtain ⟨a, b, c, h⟩ := Thread.wrs_shape ws t r; rw [h]
@[simp] theorem Thread.wrs_tid : (t.wrs r ws).tid = t.tid := by
  obtain ⟨a, b, c, h⟩ := Thread.wrs_shape ws t r; rw [h]
@[simp] theorem Thread.wrs_core : (t.wrs r ws).core = t.core := by
  obtain ⟨a, b, c, h⟩ := Thread.wrs_shape ws t r; rw [h]
@[simp] theorem Thread.wrs_part : (t.wrs r ws).part = t.part := by
  obtain ⟨a, b, c, h⟩ := Thread.wrs_shape ws t r; rw [h]
@[simp] theorem Thread.wrs_lane : (t.wrs r ws).lane = t.lane := by
  obtain ⟨a, b, c, h⟩ := Thread.wrs_shape ws t r; rw [h]
@[simp] theorem Thread.wrs_budget : (t.wrs r ws).budget = t.budget := by
  obtain ⟨a, b, c, h⟩ := Thread.wrs_shape ws t r; rw [h]
@[simp] theorem Thread.wrs_pc : (t.wrs r ws).pc = t.pc := by
  obtain ⟨a, b, c, h⟩ := Thread.wrs_shape ws t r; rw [h]
@[simp] theorem Thread.wrs_preds : (t.wrs r ws).preds = t.preds := by
  obtain ⟨a, b, c, h⟩ := Thread.wrs_shape ws t r; rw [h]
@[simp] theorem Thread.wrs_ord : (t.wrs r ws).ord = t.ord := by
  obtain ⟨a, b, c, h⟩ := Thread.wrs_shape ws t r; rw [h]
@[simp] theorem Thread.wrs_stk : (t.wrs r ws).stk = t.stk := by
  obtain ⟨a, b, c, h⟩ := Thread.wrs_shape ws t r; rw [h]
@[simp] theorem Thread.wrs_fcr : (t.wrs r ws).fcr = t.fcr := by
  obtain ⟨a, b, c, h⟩ := Thread.wrs_shape ws t r; rw [h]
@[simp] theorem Thread.wrs_fsr : (t.wrs r ws).fsr = t.fsr := by
  obtain ⟨a, b, c, h⟩ := Thread.wrs_shape ws t r; rw [h]
@[simp] theorem Thread.wrs_trapf : (t.wrs r ws).trapf = t.trapf := by
  obtain ⟨a, b, c, h⟩ := Thread.wrs_shape ws t r; rw [h]
@[simp] theorem Thread.wrs_asid : (t.wrs r ws).asid = t.asid := by
  obtain ⟨a, b, c, h⟩ := Thread.wrs_shape ws t r; rw [h]
@[simp] theorem Thread.wrs_ptel : (t.wrs r ws).ptel = t.ptel := by
  obtain ⟨a, b, c, h⟩ := Thread.wrs_shape ws t r; rw [h]
@[simp] theorem Thread.wrs_priv : (t.wrs r ws).priv = t.priv := by
  obtain ⟨a, b, c, h⟩ := Thread.wrs_shape ws t r; rw [h]
@[simp] theorem Thread.wrs_privSize : (t.wrs r ws).privSize = t.privSize := by
  obtain ⟨a, b, c, h⟩ := Thread.wrs_shape ws t r; rw [h]
@[simp] theorem Thread.wrs_privBase : (t.wrs r ws).privBase = t.privBase := by
  obtain ⟨a, b, c, h⟩ := Thread.wrs_shape ws t r; rw [h]
@[simp] theorem Thread.wrs_run : (t.wrs r ws).run = t.run := by
  obtain ⟨a, b, c, h⟩ := Thread.wrs_shape ws t r; rw [h]
@[simp] theorem Thread.wrs_halted : (t.wrs r ws).halted = t.halted := by
  obtain ⟨a, b, c, h⟩ := Thread.wrs_shape ws t r; rw [h]
@[simp] theorem Thread.wrs_handler : (t.wrs r ws).handler = t.handler := by
  obtain ⟨a, b, c, h⟩ := Thread.wrs_shape ws t r; rw [h]
@[simp] theorem Thread.wrs_entering : (t.wrs r ws).entering = t.entering := by
  obtain ⟨a, b, c, h⟩ := Thread.wrs_shape ws t r; rw [h]
@[simp] theorem Thread.wrs_held : (t.wrs r ws).held = t.held := by
  obtain ⟨a, b, c, h⟩ := Thread.wrs_shape ws t r; rw [h]
@[simp] theorem Thread.wrs_cancelTaken : (t.wrs r ws).cancelTaken = t.cancelTaken := by
  obtain ⟨a, b, c, h⟩ := Thread.wrs_shape ws t r; rw [h]
@[simp] theorem Thread.wrs_psn : (t.wrs r ws).psn = t.psn := by
  obtain ⟨a, b, c, h⟩ := Thread.wrs_shape ws t r; rw [h]
@[simp] theorem Thread.wrs_resv : (t.wrs r ws).resv = t.resv := by
  obtain ⟨a, b, c, h⟩ := Thread.wrs_shape ws t r; rw [h]
@[simp] theorem Thread.wrs_trig : (t.wrs r ws).trig = t.trig := by
  obtain ⟨a, b, c, h⟩ := Thread.wrs_shape ws t r; rw [h]
@[simp] theorem Thread.wrs_resume : (t.wrs r ws).resume = t.resume := by
  obtain ⟨a, b, c, h⟩ := Thread.wrs_shape ws t r; rw [h]
@[simp] theorem Thread.wrs_light : (t.wrs r ws).light = t.light := by
  obtain ⟨a, b, c, h⟩ := Thread.wrs_shape ws t r; rw [h]
@[simp] theorem Thread.wrs_warned : (t.wrs r ws).warned = t.warned := by
  obtain ⟨a, b, c, h⟩ := Thread.wrs_shape ws t r; rw [h]
@[simp] theorem Thread.wrs_wrote : (t.wrs r ws).wrote = t.wrote := by
  obtain ⟨a, b, c, h⟩ := Thread.wrs_shape ws t r; rw [h]
@[simp] theorem Thread.wrs_stepping : (t.wrs r ws).stepping = t.stepping := by
  obtain ⟨a, b, c, h⟩ := Thread.wrs_shape ws t r; rw [h]
@[simp] theorem Thread.wrs_starting : (t.wrs r ws).starting = t.starting := by
  obtain ⟨a, b, c, h⟩ := Thread.wrs_shape ws t r; rw [h]
@[simp] theorem Thread.wrs_asks : (t.wrs r ws).asks = t.asks := by
  obtain ⟨a, b, c, h⟩ := Thread.wrs_shape ws t r; rw [h]
@[simp] theorem Thread.wrs_syncs : (t.wrs r ws).syncs = t.syncs := by
  obtain ⟨a, b, c, h⟩ := Thread.wrs_shape ws t r; rw [h]
@[simp] theorem Thread.wrs_since : (t.wrs r ws).since = t.since := by
  obtain ⟨a, b, c, h⟩ := Thread.wrs_shape ws t r; rw [h]
@[simp] theorem Thread.wrs_logs : (t.wrs r ws).logs = t.logs := by
  obtain ⟨a, b, c, h⟩ := Thread.wrs_shape ws t r; rw [h]
@[simp] theorem Thread.wrs_struck : (t.wrs r ws).struck = t.struck := by
  obtain ⟨a, b, c, h⟩ := Thread.wrs_shape ws t r; rw [h]
end

section
variable (t : Thread) (r : Reg) (v : Dword)
@[simp] theorem Thread.wr2_uid : (t.wr2 r v).uid = t.uid := by
  obtain ⟨a, b, c, d, h⟩ := t.wr2_shape r v; rw [h]
@[simp] theorem Thread.wr2_gang : (t.wr2 r v).gang = t.gang := by
  obtain ⟨a, b, c, d, h⟩ := t.wr2_shape r v; rw [h]
@[simp] theorem Thread.wr2_role : (t.wr2 r v).role = t.role := by
  obtain ⟨a, b, c, d, h⟩ := t.wr2_shape r v; rw [h]
@[simp] theorem Thread.wr2_gid : (t.wr2 r v).gid = t.gid := by
  obtain ⟨a, b, c, d, h⟩ := t.wr2_shape r v; rw [h]
@[simp] theorem Thread.wr2_member : (t.wr2 r v).member = t.member := by
  obtain ⟨a, b, c, d, h⟩ := t.wr2_shape r v; rw [h]
@[simp] theorem Thread.wr2_tid : (t.wr2 r v).tid = t.tid := by
  obtain ⟨a, b, c, d, h⟩ := t.wr2_shape r v; rw [h]
@[simp] theorem Thread.wr2_core : (t.wr2 r v).core = t.core := by
  obtain ⟨a, b, c, d, h⟩ := t.wr2_shape r v; rw [h]
@[simp] theorem Thread.wr2_part : (t.wr2 r v).part = t.part := by
  obtain ⟨a, b, c, d, h⟩ := t.wr2_shape r v; rw [h]
@[simp] theorem Thread.wr2_lane : (t.wr2 r v).lane = t.lane := by
  obtain ⟨a, b, c, d, h⟩ := t.wr2_shape r v; rw [h]
@[simp] theorem Thread.wr2_budget : (t.wr2 r v).budget = t.budget := by
  obtain ⟨a, b, c, d, h⟩ := t.wr2_shape r v; rw [h]
@[simp] theorem Thread.wr2_pc : (t.wr2 r v).pc = t.pc := by
  obtain ⟨a, b, c, d, h⟩ := t.wr2_shape r v; rw [h]
@[simp] theorem Thread.wr2_preds : (t.wr2 r v).preds = t.preds := by
  obtain ⟨a, b, c, d, h⟩ := t.wr2_shape r v; rw [h]
@[simp] theorem Thread.wr2_ord : (t.wr2 r v).ord = t.ord := by
  obtain ⟨a, b, c, d, h⟩ := t.wr2_shape r v; rw [h]
@[simp] theorem Thread.wr2_stk : (t.wr2 r v).stk = t.stk := by
  obtain ⟨a, b, c, d, h⟩ := t.wr2_shape r v; rw [h]
@[simp] theorem Thread.wr2_fcr : (t.wr2 r v).fcr = t.fcr := by
  obtain ⟨a, b, c, d, h⟩ := t.wr2_shape r v; rw [h]
@[simp] theorem Thread.wr2_fsr : (t.wr2 r v).fsr = t.fsr := by
  obtain ⟨a, b, c, d, h⟩ := t.wr2_shape r v; rw [h]
@[simp] theorem Thread.wr2_trapf : (t.wr2 r v).trapf = t.trapf := by
  obtain ⟨a, b, c, d, h⟩ := t.wr2_shape r v; rw [h]
@[simp] theorem Thread.wr2_asid : (t.wr2 r v).asid = t.asid := by
  obtain ⟨a, b, c, d, h⟩ := t.wr2_shape r v; rw [h]
@[simp] theorem Thread.wr2_ptel : (t.wr2 r v).ptel = t.ptel := by
  obtain ⟨a, b, c, d, h⟩ := t.wr2_shape r v; rw [h]
@[simp] theorem Thread.wr2_priv : (t.wr2 r v).priv = t.priv := by
  obtain ⟨a, b, c, d, h⟩ := t.wr2_shape r v; rw [h]
@[simp] theorem Thread.wr2_privSize : (t.wr2 r v).privSize = t.privSize := by
  obtain ⟨a, b, c, d, h⟩ := t.wr2_shape r v; rw [h]
@[simp] theorem Thread.wr2_privBase : (t.wr2 r v).privBase = t.privBase := by
  obtain ⟨a, b, c, d, h⟩ := t.wr2_shape r v; rw [h]
@[simp] theorem Thread.wr2_run : (t.wr2 r v).run = t.run := by
  obtain ⟨a, b, c, d, h⟩ := t.wr2_shape r v; rw [h]
@[simp] theorem Thread.wr2_halted : (t.wr2 r v).halted = t.halted := by
  obtain ⟨a, b, c, d, h⟩ := t.wr2_shape r v; rw [h]
@[simp] theorem Thread.wr2_handler : (t.wr2 r v).handler = t.handler := by
  obtain ⟨a, b, c, d, h⟩ := t.wr2_shape r v; rw [h]
@[simp] theorem Thread.wr2_entering : (t.wr2 r v).entering = t.entering := by
  obtain ⟨a, b, c, d, h⟩ := t.wr2_shape r v; rw [h]
@[simp] theorem Thread.wr2_held : (t.wr2 r v).held = t.held := by
  obtain ⟨a, b, c, d, h⟩ := t.wr2_shape r v; rw [h]
@[simp] theorem Thread.wr2_cancelTaken : (t.wr2 r v).cancelTaken = t.cancelTaken := by
  obtain ⟨a, b, c, d, h⟩ := t.wr2_shape r v; rw [h]
@[simp] theorem Thread.wr2_psn : (t.wr2 r v).psn = t.psn := by
  obtain ⟨a, b, c, d, h⟩ := t.wr2_shape r v; rw [h]
@[simp] theorem Thread.wr2_resv : (t.wr2 r v).resv = t.resv := by
  obtain ⟨a, b, c, d, h⟩ := t.wr2_shape r v; rw [h]
@[simp] theorem Thread.wr2_trig : (t.wr2 r v).trig = t.trig := by
  obtain ⟨a, b, c, d, h⟩ := t.wr2_shape r v; rw [h]
@[simp] theorem Thread.wr2_resume : (t.wr2 r v).resume = t.resume := by
  obtain ⟨a, b, c, d, h⟩ := t.wr2_shape r v; rw [h]
@[simp] theorem Thread.wr2_light : (t.wr2 r v).light = t.light := by
  obtain ⟨a, b, c, d, h⟩ := t.wr2_shape r v; rw [h]
@[simp] theorem Thread.wr2_warned : (t.wr2 r v).warned = t.warned := by
  obtain ⟨a, b, c, d, h⟩ := t.wr2_shape r v; rw [h]
@[simp] theorem Thread.wr2_wrote : (t.wr2 r v).wrote = t.wrote := by
  obtain ⟨a, b, c, d, h⟩ := t.wr2_shape r v; rw [h]
@[simp] theorem Thread.wr2_stepping : (t.wr2 r v).stepping = t.stepping := by
  obtain ⟨a, b, c, d, h⟩ := t.wr2_shape r v; rw [h]
@[simp] theorem Thread.wr2_starting : (t.wr2 r v).starting = t.starting := by
  obtain ⟨a, b, c, d, h⟩ := t.wr2_shape r v; rw [h]
@[simp] theorem Thread.wr2_asks : (t.wr2 r v).asks = t.asks := by
  obtain ⟨a, b, c, d, h⟩ := t.wr2_shape r v; rw [h]
@[simp] theorem Thread.wr2_syncs : (t.wr2 r v).syncs = t.syncs := by
  obtain ⟨a, b, c, d, h⟩ := t.wr2_shape r v; rw [h]
@[simp] theorem Thread.wr2_since : (t.wr2 r v).since = t.since := by
  obtain ⟨a, b, c, d, h⟩ := t.wr2_shape r v; rw [h]
@[simp] theorem Thread.wr2_logs : (t.wr2 r v).logs = t.logs := by
  obtain ⟨a, b, c, d, h⟩ := t.wr2_shape r v; rw [h]
end

section
variable (t : Thread) (r : Reg)
@[simp] theorem Thread.drain_uid : (t.drain r).uid = t.uid := by
  obtain ⟨b, c, h⟩ := t.drain_shape r; rw [h]
@[simp] theorem Thread.drain_gang : (t.drain r).gang = t.gang := by
  obtain ⟨b, c, h⟩ := t.drain_shape r; rw [h]
@[simp] theorem Thread.drain_role : (t.drain r).role = t.role := by
  obtain ⟨b, c, h⟩ := t.drain_shape r; rw [h]
@[simp] theorem Thread.drain_gid : (t.drain r).gid = t.gid := by
  obtain ⟨b, c, h⟩ := t.drain_shape r; rw [h]
@[simp] theorem Thread.drain_member : (t.drain r).member = t.member := by
  obtain ⟨b, c, h⟩ := t.drain_shape r; rw [h]
@[simp] theorem Thread.drain_tid : (t.drain r).tid = t.tid := by
  obtain ⟨b, c, h⟩ := t.drain_shape r; rw [h]
@[simp] theorem Thread.drain_core : (t.drain r).core = t.core := by
  obtain ⟨b, c, h⟩ := t.drain_shape r; rw [h]
@[simp] theorem Thread.drain_part : (t.drain r).part = t.part := by
  obtain ⟨b, c, h⟩ := t.drain_shape r; rw [h]
@[simp] theorem Thread.drain_lane : (t.drain r).lane = t.lane := by
  obtain ⟨b, c, h⟩ := t.drain_shape r; rw [h]
@[simp] theorem Thread.drain_budget : (t.drain r).budget = t.budget := by
  obtain ⟨b, c, h⟩ := t.drain_shape r; rw [h]
@[simp] theorem Thread.drain_pc : (t.drain r).pc = t.pc := by
  obtain ⟨b, c, h⟩ := t.drain_shape r; rw [h]
@[simp] theorem Thread.drain_regs : (t.drain r).regs = t.regs := by
  obtain ⟨b, c, h⟩ := t.drain_shape r; rw [h]
@[simp] theorem Thread.drain_preds : (t.drain r).preds = t.preds := by
  obtain ⟨b, c, h⟩ := t.drain_shape r; rw [h]
@[simp] theorem Thread.drain_ord : (t.drain r).ord = t.ord := by
  obtain ⟨b, c, h⟩ := t.drain_shape r; rw [h]
@[simp] theorem Thread.drain_stk : (t.drain r).stk = t.stk := by
  obtain ⟨b, c, h⟩ := t.drain_shape r; rw [h]
@[simp] theorem Thread.drain_fcr : (t.drain r).fcr = t.fcr := by
  obtain ⟨b, c, h⟩ := t.drain_shape r; rw [h]
@[simp] theorem Thread.drain_fsr : (t.drain r).fsr = t.fsr := by
  obtain ⟨b, c, h⟩ := t.drain_shape r; rw [h]
@[simp] theorem Thread.drain_trapf : (t.drain r).trapf = t.trapf := by
  obtain ⟨b, c, h⟩ := t.drain_shape r; rw [h]
@[simp] theorem Thread.drain_asid : (t.drain r).asid = t.asid := by
  obtain ⟨b, c, h⟩ := t.drain_shape r; rw [h]
@[simp] theorem Thread.drain_ptel : (t.drain r).ptel = t.ptel := by
  obtain ⟨b, c, h⟩ := t.drain_shape r; rw [h]
@[simp] theorem Thread.drain_priv : (t.drain r).priv = t.priv := by
  obtain ⟨b, c, h⟩ := t.drain_shape r; rw [h]
@[simp] theorem Thread.drain_privSize : (t.drain r).privSize = t.privSize := by
  obtain ⟨b, c, h⟩ := t.drain_shape r; rw [h]
@[simp] theorem Thread.drain_privBase : (t.drain r).privBase = t.privBase := by
  obtain ⟨b, c, h⟩ := t.drain_shape r; rw [h]
@[simp] theorem Thread.drain_run : (t.drain r).run = t.run := by
  obtain ⟨b, c, h⟩ := t.drain_shape r; rw [h]
@[simp] theorem Thread.drain_halted : (t.drain r).halted = t.halted := by
  obtain ⟨b, c, h⟩ := t.drain_shape r; rw [h]
@[simp] theorem Thread.drain_handler : (t.drain r).handler = t.handler := by
  obtain ⟨b, c, h⟩ := t.drain_shape r; rw [h]
@[simp] theorem Thread.drain_entering : (t.drain r).entering = t.entering := by
  obtain ⟨b, c, h⟩ := t.drain_shape r; rw [h]
@[simp] theorem Thread.drain_held : (t.drain r).held = t.held := by
  obtain ⟨b, c, h⟩ := t.drain_shape r; rw [h]
@[simp] theorem Thread.drain_cancelTaken : (t.drain r).cancelTaken = t.cancelTaken := by
  obtain ⟨b, c, h⟩ := t.drain_shape r; rw [h]
@[simp] theorem Thread.drain_psn : (t.drain r).psn = t.psn := by
  obtain ⟨b, c, h⟩ := t.drain_shape r; rw [h]
@[simp] theorem Thread.drain_resv : (t.drain r).resv = t.resv := by
  obtain ⟨b, c, h⟩ := t.drain_shape r; rw [h]
@[simp] theorem Thread.drain_trig : (t.drain r).trig = t.trig := by
  obtain ⟨b, c, h⟩ := t.drain_shape r; rw [h]
@[simp] theorem Thread.drain_resume : (t.drain r).resume = t.resume := by
  obtain ⟨b, c, h⟩ := t.drain_shape r; rw [h]
@[simp] theorem Thread.drain_light : (t.drain r).light = t.light := by
  obtain ⟨b, c, h⟩ := t.drain_shape r; rw [h]
@[simp] theorem Thread.drain_warned : (t.drain r).warned = t.warned := by
  obtain ⟨b, c, h⟩ := t.drain_shape r; rw [h]
@[simp] theorem Thread.drain_wrote : (t.drain r).wrote = t.wrote := by
  obtain ⟨b, c, h⟩ := t.drain_shape r; rw [h]
@[simp] theorem Thread.drain_stepping : (t.drain r).stepping = t.stepping := by
  obtain ⟨b, c, h⟩ := t.drain_shape r; rw [h]
@[simp] theorem Thread.drain_starting : (t.drain r).starting = t.starting := by
  obtain ⟨b, c, h⟩ := t.drain_shape r; rw [h]
@[simp] theorem Thread.drain_asks : (t.drain r).asks = t.asks := by
  obtain ⟨b, c, h⟩ := t.drain_shape r; rw [h]
@[simp] theorem Thread.drain_syncs : (t.drain r).syncs = t.syncs := by
  obtain ⟨b, c, h⟩ := t.drain_shape r; rw [h]
@[simp] theorem Thread.drain_since : (t.drain r).since = t.since := by
  obtain ⟨b, c, h⟩ := t.drain_shape r; rw [h]
@[simp] theorem Thread.drain_logs : (t.drain r).logs = t.logs := by
  obtain ⟨b, c, h⟩ := t.drain_shape r; rw [h]
@[simp] theorem Thread.drain_struck : (t.drain r).struck = t.struck := by
  obtain ⟨b, c, h⟩ := t.drain_shape r; rw [h]
end

section
variable (t : Thread) (p : Prod)
@[simp] theorem Thread.produce_uid : (t.produce p).uid = t.uid := by
  obtain ⟨b, c, h⟩ := t.produce_shape p; rw [h]
@[simp] theorem Thread.produce_gang : (t.produce p).gang = t.gang := by
  obtain ⟨b, c, h⟩ := t.produce_shape p; rw [h]
@[simp] theorem Thread.produce_role : (t.produce p).role = t.role := by
  obtain ⟨b, c, h⟩ := t.produce_shape p; rw [h]
@[simp] theorem Thread.produce_gid : (t.produce p).gid = t.gid := by
  obtain ⟨b, c, h⟩ := t.produce_shape p; rw [h]
@[simp] theorem Thread.produce_member : (t.produce p).member = t.member := by
  obtain ⟨b, c, h⟩ := t.produce_shape p; rw [h]
@[simp] theorem Thread.produce_tid : (t.produce p).tid = t.tid := by
  obtain ⟨b, c, h⟩ := t.produce_shape p; rw [h]
@[simp] theorem Thread.produce_core : (t.produce p).core = t.core := by
  obtain ⟨b, c, h⟩ := t.produce_shape p; rw [h]
@[simp] theorem Thread.produce_part : (t.produce p).part = t.part := by
  obtain ⟨b, c, h⟩ := t.produce_shape p; rw [h]
@[simp] theorem Thread.produce_lane : (t.produce p).lane = t.lane := by
  obtain ⟨b, c, h⟩ := t.produce_shape p; rw [h]
@[simp] theorem Thread.produce_budget : (t.produce p).budget = t.budget := by
  obtain ⟨b, c, h⟩ := t.produce_shape p; rw [h]
@[simp] theorem Thread.produce_pc : (t.produce p).pc = t.pc := by
  obtain ⟨b, c, h⟩ := t.produce_shape p; rw [h]
@[simp] theorem Thread.produce_regs : (t.produce p).regs = t.regs := by
  obtain ⟨b, c, h⟩ := t.produce_shape p; rw [h]
@[simp] theorem Thread.produce_preds : (t.produce p).preds = t.preds := by
  obtain ⟨b, c, h⟩ := t.produce_shape p; rw [h]
@[simp] theorem Thread.produce_ord : (t.produce p).ord = t.ord := by
  obtain ⟨b, c, h⟩ := t.produce_shape p; rw [h]
@[simp] theorem Thread.produce_stk : (t.produce p).stk = t.stk := by
  obtain ⟨b, c, h⟩ := t.produce_shape p; rw [h]
@[simp] theorem Thread.produce_fcr : (t.produce p).fcr = t.fcr := by
  obtain ⟨b, c, h⟩ := t.produce_shape p; rw [h]
@[simp] theorem Thread.produce_fsr : (t.produce p).fsr = t.fsr := by
  obtain ⟨b, c, h⟩ := t.produce_shape p; rw [h]
@[simp] theorem Thread.produce_trapf : (t.produce p).trapf = t.trapf := by
  obtain ⟨b, c, h⟩ := t.produce_shape p; rw [h]
@[simp] theorem Thread.produce_asid : (t.produce p).asid = t.asid := by
  obtain ⟨b, c, h⟩ := t.produce_shape p; rw [h]
@[simp] theorem Thread.produce_ptel : (t.produce p).ptel = t.ptel := by
  obtain ⟨b, c, h⟩ := t.produce_shape p; rw [h]
@[simp] theorem Thread.produce_priv : (t.produce p).priv = t.priv := by
  obtain ⟨b, c, h⟩ := t.produce_shape p; rw [h]
@[simp] theorem Thread.produce_privSize : (t.produce p).privSize = t.privSize := by
  obtain ⟨b, c, h⟩ := t.produce_shape p; rw [h]
@[simp] theorem Thread.produce_privBase : (t.produce p).privBase = t.privBase := by
  obtain ⟨b, c, h⟩ := t.produce_shape p; rw [h]
@[simp] theorem Thread.produce_run : (t.produce p).run = t.run := by
  obtain ⟨b, c, h⟩ := t.produce_shape p; rw [h]
@[simp] theorem Thread.produce_halted : (t.produce p).halted = t.halted := by
  obtain ⟨b, c, h⟩ := t.produce_shape p; rw [h]
@[simp] theorem Thread.produce_handler : (t.produce p).handler = t.handler := by
  obtain ⟨b, c, h⟩ := t.produce_shape p; rw [h]
@[simp] theorem Thread.produce_entering : (t.produce p).entering = t.entering := by
  obtain ⟨b, c, h⟩ := t.produce_shape p; rw [h]
@[simp] theorem Thread.produce_held : (t.produce p).held = t.held := by
  obtain ⟨b, c, h⟩ := t.produce_shape p; rw [h]
@[simp] theorem Thread.produce_cancelTaken : (t.produce p).cancelTaken = t.cancelTaken := by
  obtain ⟨b, c, h⟩ := t.produce_shape p; rw [h]
@[simp] theorem Thread.produce_psn : (t.produce p).psn = t.psn := by
  obtain ⟨b, c, h⟩ := t.produce_shape p; rw [h]
@[simp] theorem Thread.produce_resv : (t.produce p).resv = t.resv := by
  obtain ⟨b, c, h⟩ := t.produce_shape p; rw [h]
@[simp] theorem Thread.produce_trig : (t.produce p).trig = t.trig := by
  obtain ⟨b, c, h⟩ := t.produce_shape p; rw [h]
@[simp] theorem Thread.produce_resume : (t.produce p).resume = t.resume := by
  obtain ⟨b, c, h⟩ := t.produce_shape p; rw [h]
@[simp] theorem Thread.produce_light : (t.produce p).light = t.light := by
  obtain ⟨b, c, h⟩ := t.produce_shape p; rw [h]
@[simp] theorem Thread.produce_warned : (t.produce p).warned = t.warned := by
  obtain ⟨b, c, h⟩ := t.produce_shape p; rw [h]
@[simp] theorem Thread.produce_wrote : (t.produce p).wrote = t.wrote := by
  obtain ⟨b, c, h⟩ := t.produce_shape p; rw [h]
@[simp] theorem Thread.produce_stepping : (t.produce p).stepping = t.stepping := by
  obtain ⟨b, c, h⟩ := t.produce_shape p; rw [h]
@[simp] theorem Thread.produce_starting : (t.produce p).starting = t.starting := by
  obtain ⟨b, c, h⟩ := t.produce_shape p; rw [h]
@[simp] theorem Thread.produce_asks : (t.produce p).asks = t.asks := by
  obtain ⟨b, c, h⟩ := t.produce_shape p; rw [h]
@[simp] theorem Thread.produce_syncs : (t.produce p).syncs = t.syncs := by
  obtain ⟨b, c, h⟩ := t.produce_shape p; rw [h]
@[simp] theorem Thread.produce_since : (t.produce p).since = t.since := by
  obtain ⟨b, c, h⟩ := t.produce_shape p; rw [h]
@[simp] theorem Thread.produce_logs : (t.produce p).logs = t.logs := by
  obtain ⟨b, c, h⟩ := t.produce_shape p; rw [h]
@[simp] theorem Thread.produce_struck : (t.produce p).struck = t.struck := by
  obtain ⟨b, c, h⟩ := t.produce_shape p; rw [h]
end

section
variable (t : Thread) (p : BitVec 3) (v : Bool)
@[simp] theorem Thread.setPred_uid : (t.setPred p v).uid = t.uid := by
  obtain ⟨a, h⟩ := t.setPred_shape p v; rw [h]
@[simp] theorem Thread.setPred_gang : (t.setPred p v).gang = t.gang := by
  obtain ⟨a, h⟩ := t.setPred_shape p v; rw [h]
@[simp] theorem Thread.setPred_role : (t.setPred p v).role = t.role := by
  obtain ⟨a, h⟩ := t.setPred_shape p v; rw [h]
@[simp] theorem Thread.setPred_gid : (t.setPred p v).gid = t.gid := by
  obtain ⟨a, h⟩ := t.setPred_shape p v; rw [h]
@[simp] theorem Thread.setPred_member : (t.setPred p v).member = t.member := by
  obtain ⟨a, h⟩ := t.setPred_shape p v; rw [h]
@[simp] theorem Thread.setPred_tid : (t.setPred p v).tid = t.tid := by
  obtain ⟨a, h⟩ := t.setPred_shape p v; rw [h]
@[simp] theorem Thread.setPred_core : (t.setPred p v).core = t.core := by
  obtain ⟨a, h⟩ := t.setPred_shape p v; rw [h]
@[simp] theorem Thread.setPred_part : (t.setPred p v).part = t.part := by
  obtain ⟨a, h⟩ := t.setPred_shape p v; rw [h]
@[simp] theorem Thread.setPred_lane : (t.setPred p v).lane = t.lane := by
  obtain ⟨a, h⟩ := t.setPred_shape p v; rw [h]
@[simp] theorem Thread.setPred_budget : (t.setPred p v).budget = t.budget := by
  obtain ⟨a, h⟩ := t.setPred_shape p v; rw [h]
@[simp] theorem Thread.setPred_pc : (t.setPred p v).pc = t.pc := by
  obtain ⟨a, h⟩ := t.setPred_shape p v; rw [h]
@[simp] theorem Thread.setPred_regs : (t.setPred p v).regs = t.regs := by
  obtain ⟨a, h⟩ := t.setPred_shape p v; rw [h]
@[simp] theorem Thread.setPred_fe : (t.setPred p v).fe = t.fe := by
  obtain ⟨a, h⟩ := t.setPred_shape p v; rw [h]
@[simp] theorem Thread.setPred_ord : (t.setPred p v).ord = t.ord := by
  obtain ⟨a, h⟩ := t.setPred_shape p v; rw [h]
@[simp] theorem Thread.setPred_stk : (t.setPred p v).stk = t.stk := by
  obtain ⟨a, h⟩ := t.setPred_shape p v; rw [h]
@[simp] theorem Thread.setPred_fcr : (t.setPred p v).fcr = t.fcr := by
  obtain ⟨a, h⟩ := t.setPred_shape p v; rw [h]
@[simp] theorem Thread.setPred_fsr : (t.setPred p v).fsr = t.fsr := by
  obtain ⟨a, h⟩ := t.setPred_shape p v; rw [h]
@[simp] theorem Thread.setPred_trapf : (t.setPred p v).trapf = t.trapf := by
  obtain ⟨a, h⟩ := t.setPred_shape p v; rw [h]
@[simp] theorem Thread.setPred_asid : (t.setPred p v).asid = t.asid := by
  obtain ⟨a, h⟩ := t.setPred_shape p v; rw [h]
@[simp] theorem Thread.setPred_ptel : (t.setPred p v).ptel = t.ptel := by
  obtain ⟨a, h⟩ := t.setPred_shape p v; rw [h]
@[simp] theorem Thread.setPred_priv : (t.setPred p v).priv = t.priv := by
  obtain ⟨a, h⟩ := t.setPred_shape p v; rw [h]
@[simp] theorem Thread.setPred_privSize : (t.setPred p v).privSize = t.privSize := by
  obtain ⟨a, h⟩ := t.setPred_shape p v; rw [h]
@[simp] theorem Thread.setPred_privBase : (t.setPred p v).privBase = t.privBase := by
  obtain ⟨a, h⟩ := t.setPred_shape p v; rw [h]
@[simp] theorem Thread.setPred_prods : (t.setPred p v).prods = t.prods := by
  obtain ⟨a, h⟩ := t.setPred_shape p v; rw [h]
@[simp] theorem Thread.setPred_run : (t.setPred p v).run = t.run := by
  obtain ⟨a, h⟩ := t.setPred_shape p v; rw [h]
@[simp] theorem Thread.setPred_halted : (t.setPred p v).halted = t.halted := by
  obtain ⟨a, h⟩ := t.setPred_shape p v; rw [h]
@[simp] theorem Thread.setPred_handler : (t.setPred p v).handler = t.handler := by
  obtain ⟨a, h⟩ := t.setPred_shape p v; rw [h]
@[simp] theorem Thread.setPred_entering : (t.setPred p v).entering = t.entering := by
  obtain ⟨a, h⟩ := t.setPred_shape p v; rw [h]
@[simp] theorem Thread.setPred_held : (t.setPred p v).held = t.held := by
  obtain ⟨a, h⟩ := t.setPred_shape p v; rw [h]
@[simp] theorem Thread.setPred_cancelTaken : (t.setPred p v).cancelTaken = t.cancelTaken := by
  obtain ⟨a, h⟩ := t.setPred_shape p v; rw [h]
@[simp] theorem Thread.setPred_psn : (t.setPred p v).psn = t.psn := by
  obtain ⟨a, h⟩ := t.setPred_shape p v; rw [h]
@[simp] theorem Thread.setPred_resv : (t.setPred p v).resv = t.resv := by
  obtain ⟨a, h⟩ := t.setPred_shape p v; rw [h]
@[simp] theorem Thread.setPred_trig : (t.setPred p v).trig = t.trig := by
  obtain ⟨a, h⟩ := t.setPred_shape p v; rw [h]
@[simp] theorem Thread.setPred_resume : (t.setPred p v).resume = t.resume := by
  obtain ⟨a, h⟩ := t.setPred_shape p v; rw [h]
@[simp] theorem Thread.setPred_light : (t.setPred p v).light = t.light := by
  obtain ⟨a, h⟩ := t.setPred_shape p v; rw [h]
@[simp] theorem Thread.setPred_warned : (t.setPred p v).warned = t.warned := by
  obtain ⟨a, h⟩ := t.setPred_shape p v; rw [h]
@[simp] theorem Thread.setPred_wrote : (t.setPred p v).wrote = t.wrote := by
  obtain ⟨a, h⟩ := t.setPred_shape p v; rw [h]
@[simp] theorem Thread.setPred_stepping : (t.setPred p v).stepping = t.stepping := by
  obtain ⟨a, h⟩ := t.setPred_shape p v; rw [h]
@[simp] theorem Thread.setPred_starting : (t.setPred p v).starting = t.starting := by
  obtain ⟨a, h⟩ := t.setPred_shape p v; rw [h]
@[simp] theorem Thread.setPred_asks : (t.setPred p v).asks = t.asks := by
  obtain ⟨a, h⟩ := t.setPred_shape p v; rw [h]
@[simp] theorem Thread.setPred_syncs : (t.setPred p v).syncs = t.syncs := by
  obtain ⟨a, h⟩ := t.setPred_shape p v; rw [h]
@[simp] theorem Thread.setPred_since : (t.setPred p v).since = t.since := by
  obtain ⟨a, h⟩ := t.setPred_shape p v; rw [h]
@[simp] theorem Thread.setPred_logs : (t.setPred p v).logs = t.logs := by
  obtain ⟨a, h⟩ := t.setPred_shape p v; rw [h]
@[simp] theorem Thread.setPred_struck : (t.setPred p v).struck = t.struck := by
  obtain ⟨a, h⟩ := t.setPred_shape p v; rw [h]
end

section
variable (t : Thread) (w : Wait)
@[simp] theorem Thread.await_uid : (t.await w).uid = t.uid := by
  obtain ⟨w, -, -, h⟩ := t.await_shape w; rw [h]
@[simp] theorem Thread.await_gang : (t.await w).gang = t.gang := by
  obtain ⟨w, -, -, h⟩ := t.await_shape w; rw [h]
@[simp] theorem Thread.await_role : (t.await w).role = t.role := by
  obtain ⟨w, -, -, h⟩ := t.await_shape w; rw [h]
@[simp] theorem Thread.await_gid : (t.await w).gid = t.gid := by
  obtain ⟨w, -, -, h⟩ := t.await_shape w; rw [h]
@[simp] theorem Thread.await_member : (t.await w).member = t.member := by
  obtain ⟨w, -, -, h⟩ := t.await_shape w; rw [h]
@[simp] theorem Thread.await_tid : (t.await w).tid = t.tid := by
  obtain ⟨w, -, -, h⟩ := t.await_shape w; rw [h]
@[simp] theorem Thread.await_core : (t.await w).core = t.core := by
  obtain ⟨w, -, -, h⟩ := t.await_shape w; rw [h]
@[simp] theorem Thread.await_part : (t.await w).part = t.part := by
  obtain ⟨w, -, -, h⟩ := t.await_shape w; rw [h]
@[simp] theorem Thread.await_lane : (t.await w).lane = t.lane := by
  obtain ⟨w, -, -, h⟩ := t.await_shape w; rw [h]
@[simp] theorem Thread.await_budget : (t.await w).budget = t.budget := by
  obtain ⟨w, -, -, h⟩ := t.await_shape w; rw [h]
@[simp] theorem Thread.await_pc : (t.await w).pc = t.pc := by
  obtain ⟨w, -, -, h⟩ := t.await_shape w; rw [h]
@[simp] theorem Thread.await_regs : (t.await w).regs = t.regs := by
  obtain ⟨w, -, -, h⟩ := t.await_shape w; rw [h]
@[simp] theorem Thread.await_fe : (t.await w).fe = t.fe := by
  obtain ⟨w, -, -, h⟩ := t.await_shape w; rw [h]
@[simp] theorem Thread.await_preds : (t.await w).preds = t.preds := by
  obtain ⟨w, -, -, h⟩ := t.await_shape w; rw [h]
@[simp] theorem Thread.await_ord : (t.await w).ord = t.ord := by
  obtain ⟨w, -, -, h⟩ := t.await_shape w; rw [h]
@[simp] theorem Thread.await_stk : (t.await w).stk = t.stk := by
  obtain ⟨w, -, -, h⟩ := t.await_shape w; rw [h]
@[simp] theorem Thread.await_fcr : (t.await w).fcr = t.fcr := by
  obtain ⟨w, -, -, h⟩ := t.await_shape w; rw [h]
@[simp] theorem Thread.await_fsr : (t.await w).fsr = t.fsr := by
  obtain ⟨w, -, -, h⟩ := t.await_shape w; rw [h]
@[simp] theorem Thread.await_trapf : (t.await w).trapf = t.trapf := by
  obtain ⟨w, -, -, h⟩ := t.await_shape w; rw [h]
@[simp] theorem Thread.await_asid : (t.await w).asid = t.asid := by
  obtain ⟨w, -, -, h⟩ := t.await_shape w; rw [h]
@[simp] theorem Thread.await_ptel : (t.await w).ptel = t.ptel := by
  obtain ⟨w, -, -, h⟩ := t.await_shape w; rw [h]
@[simp] theorem Thread.await_priv : (t.await w).priv = t.priv := by
  obtain ⟨w, -, -, h⟩ := t.await_shape w; rw [h]
@[simp] theorem Thread.await_privSize : (t.await w).privSize = t.privSize := by
  obtain ⟨w, -, -, h⟩ := t.await_shape w; rw [h]
@[simp] theorem Thread.await_privBase : (t.await w).privBase = t.privBase := by
  obtain ⟨w, -, -, h⟩ := t.await_shape w; rw [h]
@[simp] theorem Thread.await_prods : (t.await w).prods = t.prods := by
  obtain ⟨w, -, -, h⟩ := t.await_shape w; rw [h]
@[simp] theorem Thread.await_halted : (t.await w).halted = t.halted := by
  obtain ⟨w, -, -, h⟩ := t.await_shape w; rw [h]
@[simp] theorem Thread.await_handler : (t.await w).handler = t.handler := by
  obtain ⟨w, -, -, h⟩ := t.await_shape w; rw [h]
@[simp] theorem Thread.await_entering : (t.await w).entering = t.entering := by
  obtain ⟨w, -, -, h⟩ := t.await_shape w; rw [h]
@[simp] theorem Thread.await_held : (t.await w).held = t.held := by
  obtain ⟨w, -, -, h⟩ := t.await_shape w; rw [h]
@[simp] theorem Thread.await_cancelTaken : (t.await w).cancelTaken = t.cancelTaken := by
  obtain ⟨w, -, -, h⟩ := t.await_shape w; rw [h]
@[simp] theorem Thread.await_psn : (t.await w).psn = t.psn := by
  obtain ⟨w, -, -, h⟩ := t.await_shape w; rw [h]
@[simp] theorem Thread.await_resv : (t.await w).resv = t.resv := by
  obtain ⟨w, -, -, h⟩ := t.await_shape w; rw [h]
@[simp] theorem Thread.await_trig : (t.await w).trig = t.trig := by
  obtain ⟨w, -, -, h⟩ := t.await_shape w; rw [h]
@[simp] theorem Thread.await_resume : (t.await w).resume = t.resume := by
  obtain ⟨w, -, -, h⟩ := t.await_shape w; rw [h]
@[simp] theorem Thread.await_light : (t.await w).light = t.light := by
  obtain ⟨w, -, -, h⟩ := t.await_shape w; rw [h]
@[simp] theorem Thread.await_warned : (t.await w).warned = t.warned := by
  obtain ⟨w, -, -, h⟩ := t.await_shape w; rw [h]
@[simp] theorem Thread.await_wrote : (t.await w).wrote = t.wrote := by
  obtain ⟨w, -, -, h⟩ := t.await_shape w; rw [h]
@[simp] theorem Thread.await_stepping : (t.await w).stepping = t.stepping := by
  obtain ⟨w, -, -, h⟩ := t.await_shape w; rw [h]
@[simp] theorem Thread.await_starting : (t.await w).starting = t.starting := by
  obtain ⟨w, -, -, h⟩ := t.await_shape w; rw [h]
@[simp] theorem Thread.await_asks : (t.await w).asks = t.asks := by
  obtain ⟨w, -, -, h⟩ := t.await_shape w; rw [h]
@[simp] theorem Thread.await_syncs : (t.await w).syncs = t.syncs := by
  obtain ⟨w, -, -, h⟩ := t.await_shape w; rw [h]
@[simp] theorem Thread.await_since : (t.await w).since = t.since := by
  obtain ⟨w, -, -, h⟩ := t.await_shape w; rw [h]
@[simp] theorem Thread.await_logs : (t.await w).logs = t.logs := by
  obtain ⟨w, -, -, h⟩ := t.await_shape w; rw [h]
@[simp] theorem Thread.await_struck : (t.await w).struck = t.struck := by
  obtain ⟨w, -, -, h⟩ := t.await_shape w; rw [h]
end

/-! ### Reading a register after writing one (R62, R69) -/

@[simp] theorem Thread.rd_zero (t : Thread) : t.rd 0 = 0 := rfl

theorem Thread.wr_regs (t : Thread) (r : Reg) (v : Word) (h : r ≠ 0) : (t.wr r v).regs = t.regs.set r.toNat v := by
  unfold Thread.wr
  rw [if_neg h]
  split <;> rfl

/-- A write to g0 does nothing (R62). -/
@[simp] theorem Thread.wr_zero (t : Thread) (v : Word) : t.wr 0 v = t := rfl

/-- Reading the register written gives the value, except that g0 reads zero. -/
theorem Thread.rd_wr_same (t : Thread) (r : Reg) (v : Word) (h : r ≠ 0) : (t.wr r v).rd r = v := by
  rw [Thread.rd, if_neg h, t.wr_regs r v h, Vector.getElem_set_self]

/-- A write leaves every other register. -/
theorem Thread.rd_wr_other (t : Thread) (r q : Reg) (v : Word) (h : q ≠ r) : (t.wr r v).rd q = t.rd q := by
  by_cases hr : r = 0
  · subst hr; rfl
  · rw [Thread.rd, Thread.rd, t.wr_regs r v hr]
    split
    · rfl
    · rw [Vector.getElem_set_ne]
      intro e
      exact h (BitVec.eq_of_toNat_eq e.symm)

theorem Thread.rd_wr (t : Thread) (r q : Reg) (v : Word) : (t.wr r v).rd q = if q = r ∧ r ≠ 0 then v else t.rd q := by
  by_cases h : q = r
  · subst h
    by_cases hq : q = 0
    · subst hq; rw [if_neg (fun e => e.2 rfl)]; rfl
    · rw [t.rd_wr_same q v hq, if_pos ⟨rfl, hq⟩]
  · rw [t.rd_wr_other r q v h, if_neg (fun e => h e.1)]

@[simp] theorem Thread.rd_advanceBy (t : Thread) (n : Nat) (r : Reg) : (t.advanceBy n).rd r = t.rd r := rfl
@[simp] theorem Thread.rd_mend (t : Thread) (q r : Reg) (n : Nat) : (t.mend q n).rd r = t.rd r := rfl
@[simp] theorem Thread.rd_setPred (t : Thread) (p : BitVec 3) (v : Bool) (r : Reg) : (t.setPred p v).rd r = t.rd r := by
  rw [Thread.rd, Thread.rd, Thread.setPred_regs]
@[simp] theorem Thread.rd_drain (t : Thread) (d r : Reg) : (t.drain d).rd r = t.rd r := by
  rw [Thread.rd, Thread.rd, Thread.drain_regs]
@[simp] theorem Thread.rd_produce (t : Thread) (p : Prod) (r : Reg) : (t.produce p).rd r = t.rd r := by
  rw [Thread.rd, Thread.rd, Thread.produce_regs]
@[simp] theorem Thread.rd_await (t : Thread) (w : Wait) (r : Reg) : (t.await w).rd r = t.rd r := by
  rw [Thread.rd, Thread.rd, Thread.await_regs]

theorem pred_bit (m : BitVec 8) (p q : BitVec 3) (v : Bool) (h : p ≠ 0) :
    (q == 0 || ((m &&& ~~~(1#8 <<< p.toNat)) ||| (if v then 1#8 <<< p.toNat else 0)).getLsbD q.toNat) =
      if q = p then v else (q == 0 || m.getLsbD q.toNat) := by
  have hq := q.isLt
  have e : (p.toNat = q.toNat) ↔ (q = p) := ⟨fun h => BitVec.eq_of_toNat_eq h.symm, fun h => by rw [h]⟩
  by_cases c : q = p
  · subst c
    have h' : (q == 0#3) = false := beq_eq_false_iff_ne.mpr h
    have h8 : q.toNat < 8 := by omega
    cases v <;> simp [h', h8]
  · have h8 : q.toNat < 8 := by omega
    have n : p.toNat ≠ q.toNat := fun h => c (e.mp h)
    rcases Nat.lt_or_gt_of_ne n with l | l
    · have a : ¬ q.toNat < p.toNat := by omega
      have b : q.toNat - p.toNat ≠ 0 := by omega
      cases v <;> simp [c, h8, a, b]
    · cases v <;> simp [c, h8, l]

/-- A predicate written reads as written; p0 reads true (R52). -/
theorem Thread.pred_setPred (t : Thread) (p q : BitVec 3) (v : Bool) :
    (t.setPred p v).pred q = if q = p ∧ p ≠ 0 then v else t.pred q := by
  by_cases h : p = 0
  · subst h; simp [Thread.setPred]
  · have := pred_bit t.preds p q v h
    rw [Thread.setPred, if_neg h, Thread.pred, Thread.pred]
    rw [this]
    simp only [ne_eq, h, not_false_eq_true, and_true]

end Sys2Proof.Machine
end

