-- ==== Sys2Proof/Laws/Canonical.lean ====
section
/-! SUPPORT. The shared operations keep every byte memory of the state in its canonical form. -/
noncomputable section
namespace Sys2Proof.Machine

/-! ### The tools -/

/-- Only the bytes, the threads' private spaces and the scratchpads matter. -/
theorem State.memoriesWf_same {s t : State} (h : s.memoriesWf) (hm : t.mem = s.mem) (ht : t.threads.map (·.priv) = s.threads.map (·.priv))
    (hp : t.pads = s.pads) : t.memoriesWf := by
  obtain ⟨h1, h2, h3⟩ := h
  refine ⟨hm ▸ h1, fun x hx => ?_, hp ▸ h3⟩
  have : x.priv ∈ t.threads.map (·.priv) := List.mem_map_of_mem hx
  rw [ht] at this
  obtain ⟨y, hy, e⟩ := List.mem_map.mp this
  exact e ▸ h2 y hy

theorem State.canonical_mem {s : State} (h : s.memoriesWf) {m : List Host.Cell} (hm : Memory.wf m = true) : ({ s with mem := m } : State).memoriesWf :=
  ⟨hm, h.2.1, h.2.2⟩

theorem State.canonical_upd {s : State} (h : s.memoriesWf) {f : Thread → Thread} (hf : Memory.wf (f s.me).priv = true) : (s.upd f).memoriesWf := by
  refine ⟨h.1, fun t ht => ?_, h.2.2⟩
  rcases List.mem_cons.mp ht with e | e
  · rw [e]; exact hf
  · exact h.2.1 t (List.mem_cons_of_mem _ e)

/-- The issuing thread's private bytes are canonical. -/
theorem State.canonical_me {s : State} (h : s.memoriesWf) : Memory.wf s.me.priv = true := h.2.1 s.me (List.mem_cons_self ..)

theorem State.canonical_upd_same {s : State} (h : s.memoriesWf) {f : Thread → Thread} (hf : (f s.me).priv = s.me.priv) : (s.upd f).memoriesWf :=
  State.canonical_upd h (hf ▸ State.canonical_me h)

theorem State.canonical_mapThreads {s : State} (h : s.memoriesWf) {f : Thread → Thread} (hf : ∀ t, (f t).priv = t.priv) : (s.mapThreads f).memoriesWf := by
  refine State.memoriesWf_same h rfl ?_ rfl
  simp [State.threads, State.mapThreads, hf, Function.comp_def]

theorem State.canonical_mapThread {s : State} (h : s.memoriesWf) (u : Nat) {f : Thread → Thread} (hf : ∀ t, (f t).priv = t.priv) :
    (s.mapThread u f).memoriesWf := by
  refine State.canonical_mapThreads h (fun t => ?_)
  by_cases c : t.uid = u
  · simp only [if_pos c, hf]
  · simp only [if_neg c]

theorem State.canonical_ite {c : Prop} [Decidable c] {s t : State} (hs : s.memoriesWf) (ht : t.memoriesWf) : (if c then s else t).memoriesWf := by
  split
  · exact hs
  · exact ht

theorem State.canonical_foldl {α : Type} {f : State → α → State} (hf : ∀ s x, s.memoriesWf → (f s x).memoriesWf) (l : List α) :
    ∀ {s : State}, s.memoriesWf → (l.foldl f s).memoriesWf := by
  induction l with
  | nil => exact fun h => h
  | cons x l ih => exact fun h => ih (hf _ x h)

theorem State.canonical_mapPad {s : State} (h : s.memoriesWf) (g c : Nat) {f : Pad → Pad}
    (hf : ∀ p, Memory.wf p.bytes = true → Memory.wf (f p).bytes = true) : (s.mapPad g c f).memoriesWf := by
  refine ⟨h.1, h.2.1, fun p hp => ?_⟩
  obtain ⟨q, hq, e⟩ := List.mem_map.mp hp
  rw [← e]
  split
  · exact hf q (h.2.2 q hq)
  · exact h.2.2 q hq

/-! ### Registers and waits -/

theorem State.canonical_wr {s : State} (h : s.memoriesWf) (r : Reg) (v : Word) : (s.wr r v).memoriesWf := State.canonical_upd_same h (by simp)
theorem State.canonical_wr2 {s : State} (h : s.memoriesWf) (r : Reg) (v : Dword) : (s.wr2 r v).memoriesWf := State.canonical_upd_same h (by simp)
theorem State.canonical_wrNat {s : State} (h : s.memoriesWf) (r : Reg) (n v : Nat) : (s.wrNat r n v).memoriesWf := State.canonical_upd_same h (by simp)
theorem State.canonical_setPred {s : State} (h : s.memoriesWf) (p : BitVec 3) (v : Bool) : (s.setPred p v).memoriesWf :=
  State.canonical_upd_same h (by simp)
theorem State.canonical_bump {s : State} (h : s.memoriesWf) : s.bump.memoriesWf := h
theorem State.canonical_produce {s : State} (h : s.memoriesWf) (d : Reg) (n : Nat) (v : Option (List Word)) : (s.produce d n v).memoriesWf :=
  State.canonical_bump (State.canonical_upd_same h (by simp))
theorem State.canonical_enqueue {s : State} (h : s.memoriesWf) (d : Reg) (v : List Word) (fl : BitVec 6) (q : Option (Dword × Nat)) :
    (s.enqueue d v fl q).memoriesWf :=
  State.canonical_bump (State.canonical_upd_same h (by simp))
theorem State.canonical_advanceBy {s : State} (h : s.memoriesWf) (n : Nat) : (s.advanceBy n).memoriesWf := State.canonical_upd_same h rfl
theorem State.canonical_advance {s : State} (h : s.memoriesWf) (i : Checks) : (s.advance i).memoriesWf := State.canonical_advanceBy h _
theorem State.canonical_goto {s : State} (h : s.memoriesWf) (a : Dword) : (s.goto a).memoriesWf := State.canonical_upd_same h rfl
theorem State.canonical_await {s : State} (h : s.memoriesWf) (k : WaitKind) : (s.await k).memoriesWf := State.canonical_upd_same h (by simp)
theorem State.canonical_awaitWith {s : State} (h : s.memoriesWf) (w : Wait) : (s.awaitWith w).memoriesWf := State.canonical_upd_same h (by simp)
theorem State.canonical_tally {s : State} (h : s.memoriesWf) : s.tally.memoriesWf := State.canonical_upd_same h rfl
theorem State.canonical_event {s : State} (h : s.memoriesWf) : s.event.memoriesWf := State.canonical_upd_same h rfl
theorem State.canonical_push {s : State} (h : s.memoriesWf) (o : MemOp) : (s.push o).memoriesWf := h

/-! ### Lines and levels (R184, R185, R217, R236) -/

theorem State.canonical_mapCore {s : State} (h : s.memoriesWf) (core : Nat) (f : Core → Core) : (s.mapCore core f).memoriesWf := h
theorem State.canonical_setPurlin {s : State} (h : s.memoriesWf) (p : Purlin) : (s.setPurlin p).memoriesWf := h
theorem State.canonical_setLine {s : State} (h : s.memoriesWf) (l : LineState) : (s.setLine l).memoriesWf := h
theorem State.canonical_countPurlin {s : State} (h : s.memoriesWf) (u : Nat) (i : Fin 7) : (s.countPurlin u i).memoriesWf := h
theorem State.canonical_countBatten {s : State} (h : s.memoriesWf) (c : Nat) (i : Fin 7) : (s.countBatten c i).memoriesWf := h

theorem State.canonical_markSeen {s : State} (h : s.memoriesWf) (line : Nat) (c : Cause) : (s.markSeen line c).memoriesWf := by
  unfold State.markSeen
  split <;> exact h

theorem State.canonical_handover {s : State} (h : s.memoriesWf) (line : Nat) (new : Owner) (dst : Nat) (next : Bool) (c : Cause) :
    (s.handover line new dst next c).memoriesWf := by
  unfold State.handover
  dsimp only
  exact State.memoriesWf_same (State.canonical_markSeen (State.canonical_setLine (State.canonical_ite h (State.canonical_setPurlin h _)) _) line c) rfl rfl rfl
theorem State.canonical_grant {s : State} (h : s.memoriesWf) (line : Nat) (new : Owner) (c : Cause) : (s.grant line new c).memoriesWf :=
  State.canonical_handover h _ _ _ _ _

theorem State.canonical_readLine {s : State} (h : s.memoriesWf) (d line : Nat) (c : Cause) : (s.readLine d line c).memoriesWf := by
  unfold State.readLine
  split
  · exact State.canonical_grant h _ _ _
  · exact State.canonical_grant h _ _ _
  · exact State.canonical_grant h _ _ _
  · split
    · exact h
    · exact State.canonical_handover h _ _ _ _ _
  · split
    · exact h
    · exact State.canonical_handover h _ _ _ _ _

theorem State.canonical_writeLine {s : State} (h : s.memoriesWf) (d line : Nat) (c : Cause) : (s.writeLine d line c).memoriesWf := by
  unfold State.writeLine
  dsimp only
  split
  · split
    · split <;> exact h
    · exact State.canonical_grant h _ _ _
  · exact State.canonical_grant h _ _ _

theorem State.canonical_atomicLine {s : State} (h : s.memoriesWf) (line : Nat) (c : Cause) : (s.atomicLine line c).memoriesWf := by
  unfold State.atomicLine
  split
  · exact h
  · exact State.canonical_grant h _ _ _
theorem State.canonical_homeLine {s : State} (h : s.memoriesWf) (line : Nat) (c : Cause) : (s.homeLine line c).memoriesWf := by
  unfold State.homeLine
  split
  · exact h
  · exact State.canonical_grant h _ _ _

theorem State.canonical_readCounted {s : State} (h : s.memoriesWf) (line : Nat) (c : Cause) : (s.readCounted line c).memoriesWf := by
  unfold State.readCounted
  split
  · exact h
  · dsimp only
    split
    · exact h
    · split
      · refine State.canonical_homeLine ?_ _ _
        exact h
      · exact h

theorem State.canonical_correct {s : State} (h : s.memoriesWf) (a n : Nat) : (s.correct a n).memoriesWf := by
  unfold State.correct
  dsimp only
  split <;> exact h

theorem State.canonical_l2Read {s : State} (h : s.memoriesWf) (d a n : Nat) (c : Cause) : (s.l2Read d a n c).memoriesWf := by
  refine State.canonical_foldl (fun s l h => ?_) _ (State.canonical_correct h a n)
  split
  · exact State.canonical_readCounted (State.canonical_readLine h _ _ _) _ _
  · exact State.canonical_readLine h _ _ _

theorem clearResv_priv (glb : Bool) (a n : Nat) (w : Option Nat) (t : Thread) : (clearResv glb a n w t).priv = t.priv := by
  unfold clearResv
  split
  · split <;> rfl
  · rfl

theorem State.canonical_l2Put {s : State} (h : s.memoriesWf) (d a : Nat) (bs : List (Option Byte)) (c : Cause) : (s.l2Put d a bs c).memoriesWf := by
  have h := State.canonical_foldl (fun s l h => State.canonical_writeLine h d l c) (linesOf a bs.length) h
  exact ⟨Memory.wf_writeSome _ _ h.1, h.2.1, h.2.2⟩
theorem State.canonical_l2Write {s : State} (h : s.memoriesWf) (d a : Nat) (bs : List (Option Byte)) (c : Cause) : (s.l2Write d a bs c).memoriesWf :=
  State.canonical_mapThreads (State.canonical_l2Put h d a bs c) (clearResv_priv true a bs.length c.uid)

theorem State.canonical_setL1 {s : State} (h : s.memoriesWf) (core : Nat) (l : L1Line) : (s.setL1 core l).memoriesWf := h
theorem State.canonical_dropL1 {s : State} (h : s.memoriesWf) (core line : Nat) : (s.dropL1 core line).memoriesWf := h
theorem State.canonical_l1Mend {s : State} (h : s.memoriesWf) (core a : Nat) (bs : List (Option Byte)) : (s.l1Mend core a bs).memoriesWf := h

theorem Thread.noteBack_priv (line i : Nat) (t : Thread) : (t.noteBack line i).priv = t.priv := rfl
theorem State.canonical_wbLine {s : State} (h : s.memoriesWf) (core line : Nat) (c : Cause) : (s.wbLine core line c).memoriesWf := by
  unfold State.wbLine
  split
  · exact h
  · split
    · exact h
    · have note : ∀ (t : State) (i : Nat) (bad : List Nat), t.memoriesWf →
          ({ t.mapThreads (fun x => if x.core = core then x.noteBack line i else x) with badWords := bad } : State).memoriesWf := by
        intro t i bad ht
        have h' : (t.mapThreads (fun x => if x.core = core then x.noteBack line i else x)).memoriesWf :=
          State.canonical_mapThreads ht (fun x => by split <;> rfl)
        exact h'
      exact note _ _ _ (State.canonical_ite (State.canonical_l2Put h _ _ _ _) (State.canonical_setL1 (State.canonical_l2Put h _ _ _ _) _ _))

theorem State.canonical_wbAll {s : State} (h : s.memoriesWf) (core : Nat) (c : Cause) : (s.wbAll core c).memoriesWf :=
  State.canonical_foldl (fun _ _ h => State.canonical_wbLine h _ _ _) _ h

theorem State.canonical_wbInv {s : State} (h : s.memoriesWf) (core line : Nat) (c : Cause) : (s.wbInv core line c).memoriesWf :=
  State.canonical_ite (State.canonical_wbLine h _ _ _) (State.canonical_dropL1 (State.canonical_wbLine h _ _ _) _ _)

theorem State.canonical_refreshL1 {s : State} (h : s.memoriesWf) (core p line : Nat) : (s.refreshL1 core p line).memoriesWf := State.canonical_setL1 h _ _
theorem State.canonical_fillL1 {s : State} (h : s.memoriesWf) (core p line : Nat) (c : Cause) : (s.fillL1 core p line c).memoriesWf :=
  State.canonical_refreshL1 (State.canonical_l2Read h _ _ _ _) _ _ _

theorem State.canonical_l1Read {s : State} (h : s.memoriesWf) (core p a n : Nat) (c : Cause) : (s.l1Read core p a n c).2.memoriesWf := by
  refine State.canonical_foldl (fun s l h => ?_) _ h
  split
  · split
    · exact h
    · exact State.canonical_fillL1 h _ _ _ _
  · split
    · exact State.canonical_l2Read h _ _ _ _
    · exact State.canonical_fillL1 h _ _ _ _

theorem State.canonical_l2ReadBytes {s : State} (h : s.memoriesWf) (core p a n : Nat) (c : Cause) : (s.l2ReadBytes core p a n c).2.memoriesWf := by
  refine State.canonical_foldl (fun s l h => ?_) _ (State.canonical_l2Read h _ _ _ _)
  split
  · exact State.canonical_refreshL1 h _ _ _
  · exact h

theorem State.canonical_l1Write {s : State} (h : s.memoriesWf) (core a : Nat) (bs : List (Option Byte)) (rel : Bool) (w : Option Nat) :
    (s.l1Write core a bs rel w).memoriesWf := by
  refine State.canonical_foldl (fun s i h => ?_) _ (State.canonical_l1Mend (State.memoriesWf_same
    (State.canonical_mapThreads h (clearResv_priv true a bs.length w)) rfl rfl rfl) core a bs)
  dsimp only
  split
  · exact h
  · exact State.canonical_setL1 h _ _

theorem State.canonical_throughWrite {s : State} (h : s.memoriesWf) (core a : Nat) (bs : List (Option Byte)) (c : Cause) :
    (s.throughWrite core a bs c).memoriesWf := by
  refine State.canonical_foldl (fun s i h => ?_) _ (State.canonical_l1Mend (State.canonical_l2Write h _ _ _ _) core a bs)
  split
  · exact State.canonical_setL1 h _ _
  · exact h

theorem State.canonical_acquireL1 {s : State} (h : s.memoriesWf) (core p reach : Nat) : (s.acquireL1 core p reach).memoriesWf := h

theorem State.canonical_scrWrite {s : State} (h : s.memoriesWf) (g c a : Nat) (bs : List (Option Byte)) (w : Option Nat) :
    (s.scrWrite g c a bs w).memoriesWf := by
  refine State.memoriesWf_same (State.canonical_mapPad (State.canonical_mapThreads h (fun t => ?_)) g c (fun p hp => Memory.wf_writeSome _ _ hp)) rfl rfl rfl
  split
  · exact clearResv_priv _ _ _ _ t
  · rfl

theorem State.canonical_prvWrite {s : State} (h : s.memoriesWf) (uid a : Nat) (bs : List (Option Byte)) : (s.prvWrite uid a bs).memoriesWf := by
  have ok : ∀ t : Thread, Memory.wf t.priv = true → Memory.wf (if t.uid = uid then { t with priv := writeSome t.priv a bs } else t).priv = true := by
    intro t ht
    split
    · exact Memory.wf_writeSome _ _ ht
    · exact ht
  refine ⟨h.1, fun t ht => ?_, h.2.2⟩
  rcases List.mem_cons.mp ht with e | e
  · rw [e]
    exact ok _ (State.canonical_me h)
  · obtain ⟨u, hu, e⟩ := List.mem_map.mp e
    rw [← e]
    exact ok _ (h.2.1 u (List.mem_cons_of_mem _ hu))

theorem State.canonical_readSeg {s : State} (h : s.memoriesWf) (o : MemOp) (a n : Nat) : (s.readSeg o a n).2.memoriesWf := by
  unfold State.readSeg
  split
  · exact h
  · exact h
  · dsimp only
    split
    · exact State.canonical_l2ReadBytes h _ _ _ _ _
    · exact State.canonical_l1Read h _ _ _ _ _

theorem State.canonical_dropOp {s : State} (h : s.memoriesWf) (o : MemOp) : (s.dropOp o).memoriesWf := h
theorem State.canonical_fillProd {s : State} (h : s.memoriesWf) (o : MemOp) (ws : List Word) : (s.fillProd o ws).memoriesWf := by
  unfold State.fillProd
  split
  · exact h
  · exact State.canonical_mapThread h _ (fun _ => rfl)
theorem State.canonical_acquireOf {s : State} (h : s.memoriesWf) (o : MemOp) : (s.acquireOf o).memoriesWf := by
  unfold State.acquireOf
  split
  · exact State.canonical_acquireL1 h _ _ _
  · exact h
theorem State.canonical_releaseOf {s : State} (h : s.memoriesWf) (o : MemOp) : (s.releaseOf o).memoriesWf := by
  unfold State.releaseOf
  split
  · exact State.canonical_wbAll h _ _
  · exact h
theorem State.canonical_holdOf {s : State} (h : s.memoriesWf) (o : MemOp) (was : Was) (e : Bool) : (s.holdOf o was e).memoriesWf := by
  unfold State.holdOf
  split
  · exact h
  · exact h
theorem State.canonical_capture {s : State} (h : s.memoriesWf) (u a : Nat) (bs : List (Option Byte)) (r : Bool) : (s.capture u a bs r).memoriesWf := by
  unfold State.capture
  split <;> exact h
theorem State.canonical_markMap {s : State} (h : s.memoriesWf) (a n : Nat) (r : Bool) : (s.markMap a n r).memoriesWf := by
  unfold State.markMap
  split <;> exact h
theorem Thread.noteLine_priv (id l i : Nat) (t : Thread) : (t.noteLine id l i).priv = t.priv := by
  unfold Thread.noteLine
  split <;> rfl
theorem Thread.noteLines_priv (id : Nat) (f : Nat → Nat) (lines : List Nat) : ∀ t : Thread, (lines.foldl (fun t l => t.noteLine id l (f l)) t).priv = t.priv := by
  induction lines with
  | nil => exact fun _ => rfl
  | cons l lines ih => exact fun t => (ih (t.noteLine id l (f l))).trans (Thread.noteLine_priv id l (f l) t)
theorem State.canonical_noteLines {s : State} (h : s.memoriesWf) (u id : Nat) (lines : List Nat) : (s.noteLines u id lines).memoriesWf :=
  State.canonical_mapThread h u (Thread.noteLines_priv id (fun l => (s.lineState l).interval) lines)
theorem State.canonical_noteWrote {s : State} (h : s.memoriesWf) (o : MemOp) (bs : List (Option Byte)) : (s.noteWrote o bs).memoriesWf := by
  unfold State.noteWrote
  split
  · refine State.canonical_foldl (fun s x h => ?_) _ (State.canonical_noteLines h _ _ _)
    split
    · exact h
    · exact State.canonical_capture (State.canonical_markMap h _ _ _) _ _ _ _
  · exact h
theorem State.canonical_writeSeg {s : State} (h : s.memoriesWf) (o : MemOp) (a : Nat) (bs : List (Option Byte)) : (s.writeSeg o a bs).memoriesWf := by
  unfold State.writeSeg
  split
  · exact State.canonical_scrWrite h _ _ _ _ _
  · exact State.canonical_prvWrite h _ _ _
  · split
    · exact State.canonical_throughWrite h _ _ _ _
    · exact State.canonical_l1Write h _ _ _ _ _

theorem State.canonical_toAtomicPoint {s : State} (h : s.memoriesWf) (core a n : Nat) (c : Cause) : (s.toAtomicPoint core a n c).memoriesWf := by
  refine State.canonical_foldl (fun s l h => ?_) _ h
  dsimp only
  split
  · exact State.canonical_writeLine (State.canonical_wbInv h _ _ _) _ _ _
  · exact State.canonical_atomicLine (State.canonical_wbInv h _ _ _) _ _

theorem State.canonical_atomicWrite {s : State} (h : s.memoriesWf) (a : Nat) (bs : List Byte) (w : Option Nat) : (s.atomicWrite a bs w).memoriesWf := by
  have h2 := State.canonical_mapThreads h (clearResv_priv true a bs.length w)
  exact ⟨Memory.wf_writeBytes _ _ h.1, h2.2.1, h2.2.2⟩

/-! ### Translation (R176 to R180) -/

theorem State.canonical_walkRead {s : State} (h : s.memoriesWf) (die a : Nat) (c : Cause) : (s.walkRead die a c).memoriesWf :=
  State.canonical_l2Read h _ _ _ _

theorem State.canonical_setEntry {s : State} (h : s.memoriesWf) (die a old new : Nat) (c : Cause) : (s.setEntry die a old new c).memoriesWf := by
  unfold State.setEntry
  split
  · exact h
  · refine State.canonical_atomicWrite ?_ _ _ _
    split
    · exact State.canonical_writeLine h _ _ _
    · exact State.canonical_atomicLine h _ _

theorem State.canonical_translateWith {s : State} (h : s.memoriesWf) (die : Nat) (c : Cause) (e : Option Tlb) {put : Tlb → State → State}
    (hp : ∀ e s, s.memoriesWf → (put e s).memoriesWf) (asid : Word) (ptel : Dword) (root : Nat) (user : Bool) (va : Dword) (acc : Acc) :
    (s.translateWith die c e put asid ptel root user va acc).2.memoriesWf := by
  unfold State.translateWith
  cases e with
  | some e => dsimp only; split <;> exact h
  | none =>
    dsimp only
    have h1 (l : List Nat) := State.canonical_foldl (fun s a h => State.canonical_walkRead h die a c) l h
    split
    case h_6 =>
      split
      · exact h1 _
      · exact hp _ _ (State.canonical_setEntry (h1 _) _ _ _ _ _)
    all_goals exact h1 _

theorem State.canonical_cacheTlb {s : State} (h : s.memoriesWf) (core : Nat) (e : Tlb) : (s.cacheTlb core e).memoriesWf := h

theorem State.canonical_translateIn {s : State} (h : s.memoriesWf) (core : Nat) (c : Cause) (asid : Word) (ptel : Dword) (root : Nat)
    (user : Bool) (va : Dword) (acc : Acc) : (s.translateIn core c asid ptel root user va acc).2.memoriesWf := by
  unfold State.translateIn
  split
  · exact h
  · exact State.canonical_translateWith h _ _ _ (fun e _ h => State.canonical_cacheTlb h core e) _ _ _ _ _ _

theorem State.canonical_translate {s : State} (h : s.memoriesWf) (va : Dword) (acc : Acc) : (s.translate va acc).2.memoriesWf :=
  State.canonical_translateIn h _ _ _ _ _ _ _ _

/-! ### Performing an access (R185, R217) -/

theorem State.canonical_pointWrite {s : State} (h : s.memoriesWf) (sp : OpSpace) (a n v : Nat) (w : Option Nat) : (s.pointWrite sp a n v w).memoriesWf := by
  unfold State.pointWrite
  split
  · exact State.canonical_atomicWrite h _ _ _
  · exact State.canonical_scrWrite h _ _ _ _ _
  · exact State.canonical_prvWrite h _ _ _
theorem State.canonical_toPoint {s : State} (h : s.memoriesWf) (sp : OpSpace) (core a n : Nat) (c : Cause) : (s.toPoint sp core a n c).memoriesWf := by
  unfold State.toPoint
  split
  · exact State.canonical_toAtomicPoint h _ _ _ _
  · exact h

theorem State.canonical_rmwNow {s : State} (h : s.memoriesWf) (o : MemOp) (f : Nat → Option Nat) : (s.rmwNow o f).2.memoriesWf := by
  unfold State.rmwNow
  split
  · exact h
  · have h1 := fun sp core a n c => State.canonical_toPoint (State.canonical_countBatten (State.canonical_releaseOf h o) o.core 0) sp core a n c
    dsimp only
    split
    · exact State.canonical_holdOf (State.canonical_acquireOf (State.canonical_noteWrote (State.canonical_pointWrite (h1 _ _ _ _ _) _ _ _ _ _) _ _) _) _ _ _
    · exact State.canonical_acquireOf (h1 _ _ _ _ _) _

theorem State.canonical_reads (o : MemOp) (segs : List (Nat × Nat)) : ∀ x : List Byte × State, x.2.memoriesWf →
    (segs.foldl (fun (x : List Byte × State) seg => let (b, s) := x.2.readSeg o seg.1 seg.2; (x.1 ++ b, s)) x).2.memoriesWf := by
  induction segs with
  | nil => exact fun _ h => h
  | cons a l ih => exact fun x hx => ih _ (State.canonical_readSeg hx o a.1 a.2)
theorem State.canonical_readSegs {s : State} (h : s.memoriesWf) (o : MemOp) : (s.readSegs o).2.memoriesWf := State.canonical_reads o o.segs ([], s) h
theorem State.canonical_loaded {s : State} (h : s.memoriesWf) (o : MemOp) (sx : Bool) (bs : List Byte) : (s.loaded o sx bs).memoriesWf :=
  State.canonical_dropOp (State.canonical_acquireOf (State.canonical_fillProd h _ _) _) _

theorem State.canonical_holdTrap {s : State} (h : s.memoriesWf) (u : Nat) (t : Trap) : (s.holdTrap u t).memoriesWf :=
  State.canonical_mapThread h u (fun _ => rfl)

theorem State.canonical_reloads {s : State} (h : s.memoriesWf) (o : MemOp) : (s.reloads o).memoriesWf := State.canonical_ite (State.canonical_countBatten h _ _) h
theorem State.canonical_performNow {s : State} (h : s.memoriesWf) (o : MemOp) : (s.performNow o).memoriesWf := by
  unfold State.performNow
  split
  · exact State.canonical_loaded (State.canonical_readSegs (State.canonical_countBatten (State.canonical_reloads h o) _ _) _) _ _ _
  · dsimp only
    refine State.canonical_dropOp (State.canonical_holdOf (State.canonical_noteWrote ?_ _ _) _ _ _) _
    refine State.canonical_foldl (fun s x h => ?_) _ (State.canonical_countBatten (State.canonical_releaseOf h _) _ _)
    split
    · exact h
    · exact State.canonical_writeSeg h _ _ _
  · dsimp only
    refine State.canonical_dropOp (State.canonical_fillProd ?_ _ _) _
    generalize (if s.lateError o then _ else _) = g
    split
    · exact State.canonical_ite (State.canonical_rmwNow h _ _) (State.canonical_mapThread (State.canonical_rmwNow h _ _) _ (fun _ => rfl))
    · exact State.canonical_rmwNow h _ _
  · dsimp only
    exact State.canonical_dropOp (State.canonical_holdOf (State.canonical_acquireOf (State.canonical_countBatten (State.canonical_releaseOf h _) _ _) _) _ _ _) _

/-- An access that performs keeps every memory canonical. -/
theorem State.canonical_perform {s : State} (h : s.memoriesWf) (o : MemOp) : (s.perform o).memoriesWf := by
  unfold State.perform
  split
  · exact State.canonical_holdTrap (State.canonical_performNow h o) _ _
  · exact State.canonical_performNow h o

/-! ### The device's own accesses and events (R301, R318, R405) -/

theorem State.canonical_regionTranslate {s : State} (h : s.memoriesWf) (core : Nat) (r : Region) (va : Dword) (acc : Acc) :
    (s.regionTranslate core r va acc).2.memoriesWf := State.canonical_translateIn h _ _ _ _ _ _ _ _
theorem State.canonical_request {s : State} (h : s.memoriesWf) (d : Nat) (asid : Word) (va : Dword) (w e : Bool) : (s.request d asid va w e).2.memoriesWf := by
  unfold State.request
  split <;> exact h

theorem State.canonical_deviceAt {s t : State} (h : s.memoriesWf) (w : DevWrite) (pa : Nat) (e : s.deviceAt w pa = some t) : t.memoriesWf := by
  have wb : ∀ (l : List Core) {s : State}, s.memoriesWf → (l.foldl (fun s (c : Core) => s.wbAll c.id w.cause) s).memoriesWf :=
    fun l _ h => State.canonical_foldl (fun _ _ h => State.canonical_wbAll h _ _) l h
  unfold State.deviceAt at e
  split at e
  · cases e; exact h
  · split at e
    · cases e
    · split at e
      · cases e; exact State.canonical_l2Write h _ _ _ _
      · cases e; exact State.canonical_atomicWrite (State.canonical_toAtomicPoint h _ _ _ _) _ _ _
      · cases e; exact State.canonical_l2Write h _ _ _ _
      · split at e
        · cases e
        · dsimp only at e
          cases e
          refine State.canonical_ite (State.canonical_toAtomicPoint ?_ _ _ _ _) (State.canonical_atomicWrite (State.canonical_toAtomicPoint ?_ _ _ _ _) _ _ _)
            <;> exact State.canonical_ite (wb s.cores h) h

/-- The state in which a write of the device ends. -/
def DevEnd.state : DevEnd → State
  | .done s => s
  | .wait _ s => s

theorem State.canonical_deviceDo {s : State} (h : s.memoriesWf) (w : DevWrite) : (s.deviceDo w).state.memoriesWf := by
  have fin : ∀ {s : State}, s.memoriesWf → ∀ pa, (match s.deviceAt w pa with | some s => DevEnd.done s | none => .wait w s).state.memoriesWf := by
    intro s h pa
    cases e : s.deviceAt w pa with
    | some t => exact State.canonical_deviceAt h w pa e
    | none => exact h
  unfold State.deviceDo
  dsimp only
  split
  · exact fin h _
  · split
    · exact h
    · rename_i r _
      have h1 := State.canonical_regionTranslate h w.core r w.va .write
      revert h1
      generalize s.regionTranslate w.core r w.va .write = x
      obtain ⟨tr, s1⟩ := x
      intro h1
      cases tr <;> dsimp only at h1 ⊢
      case ok => exact fin h1 _
      case park => exact State.canonical_request h1 _ _ _ _ _
      all_goals exact h1

theorem State.canonical_deviceSend {s : State} (h : s.memoriesWf) (w : DevWrite) : (s.deviceSend w).memoriesWf := by
  unfold State.deviceSend
  split
  · exact h
  · have h1 := State.canonical_deviceDo h w
    split <;> rename_i e <;> rw [e] at h1 <;> exact h1

theorem State.canonical_deviceWrite {s : State} (h : s.memoriesWf) (core : Nat) (r : Region) (va : Dword) (bs : List Byte) :
    (s.deviceWrite core r va bs).memoriesWf := by
  simp only [State.deviceWrite]
  split
  · exact State.canonical_deviceSend (State.canonical_deviceSend h _) _
  · exact State.canonical_deviceSend h _

theorem State.canonical_writeNodes {s : State} (h : s.memoriesWf) (core : Nat) (p r : Region) : (s.writeNodes core p r).memoriesWf := by
  refine State.canonical_foldl (fun s i h => ?_) _ h
  split
  · exact State.canonical_deviceWrite h _ _ _ _
  · exact h
theorem State.canonical_writeBack {s : State} (h : s.memoriesWf) (core num : Nat) : (s.writeBack core num).memoriesWf := by
  unfold State.writeBack
  split
  · exact h
  · split
    · exact State.canonical_writeNodes h _ _ _
    · exact State.canonical_writeNodes (State.canonical_deviceWrite (State.canonical_deviceWrite (State.canonical_deviceWrite
        (State.canonical_deviceWrite h _ _ _ _) _ _ _ _) _ _ _ _) _ _ _ _) _ _ _

theorem State.canonical_postEvent {s : State} (h : s.memoriesWf) (vif : Nat) (e : List Byte) : (s.postEvent vif e).memoriesWf := by
  unfold State.postEvent
  split
  · exact h
  · dsimp only
    split
    · refine State.canonical_deviceSend ?_ _
      exact h
    · exact h
theorem State.canonical_postAll {s : State} (h : s.memoriesWf) (e : List Byte) : (s.postAll e).memoriesWf :=
  State.canonical_foldl (fun _ _ h => State.canonical_postEvent h _ _) _ h
theorem State.canonical_postRegion {s : State} (h : s.memoriesWf) (k : Nat) (t : Bool) (r : Region) (rec' : List Byte) : (s.postRegion k t r rec').memoriesWf :=
  State.canonical_postEvent h _ _

theorem State.canonical_report {s : State} (h : s.memoriesWf) (b : Bool) (t : Thread) (l : List (List Byte)) : (s.report b t l).memoriesWf := by
  unfold State.report
  split
  · exact State.canonical_foldl (fun _ _ h => State.canonical_postRegion h _ _ _ _) _ h
  · exact h

theorem State.canonical_recordLog {s : State} (h : s.memoriesWf) (t : Thread) (pc : Dword) (en : BitVec 6) : (s.recordLog t pc en).memoriesWf := by
  unfold State.recordLog
  split
  · exact h
  · dsimp only
    split
    · refine State.canonical_deviceWrite ?_ _ _ _ _
      exact h
    · exact h
theorem State.canonical_flushFrom (l : List LogWait) : ∀ {s : State} (_ : s.memoriesWf) (u : Nat) (b : Bool), (s.flushFrom u b l).memoriesWf := by
  induction l with
  | nil => exact fun h u _ => State.canonical_mapThread h u (fun _ => rfl)
  | cons x l ih =>
    intro s h u b
    unfold State.flushFrom
    split
    · exact h
    · split
      · split
        · exact ih (State.canonical_recordLog h _ _ _) _ _
        · exact State.canonical_mapThread h u (fun _ => rfl)
      · split
        · exact State.canonical_mapThread h u (fun _ => rfl)
        · exact ih h _ _
theorem State.canonical_flushLogs {s : State} (h : s.memoriesWf) (u : Nat) (b : Bool) : (s.flushLogs u b).memoriesWf := by
  unfold State.flushLogs
  split
  · exact State.canonical_ite h (State.canonical_flushFrom _ h _ _)
  · exact h

theorem State.canonical_finishCard {s : State} (h : s.memoriesWf) (id : Nat) : (s.finishCard id).memoriesWf := by
  unfold State.finishCard
  split
  · exact h
  · split
    · exact h
    · dsimp only
      split
      · exact h
      · split
        · exact h
        · refine State.canonical_deviceSend ?_ _
          exact h

theorem State.canonical_discardBatch {s : State} (h : s.memoriesWf) (b : Batch) : (s.discardBatch b).memoriesWf := h

theorem State.canonical_discardCards {s : State} (h : s.memoriesWf) (r : Nat) : (s.discardCards r).memoriesWf := by
  simp only [State.discardCards]
  refine State.canonical_foldl (fun s c h => ?_) _ ?_
  · refine State.canonical_finishCard ?_ _
    exact State.memoriesWf_same h rfl rfl rfl
  refine State.memoriesWf_same (State.canonical_foldl (fun s x h => ?_) (s.ready.filter (fun x => x.region = r)) h) rfl rfl rfl
  split <;> exact h

theorem State.canonical_discardWork {s : State} (h : s.memoriesWf) (r : Nat) : (s.discardWork r).memoriesWf :=
  State.canonical_discardCards (State.canonical_foldl (fun _ b h => State.canonical_discardBatch h b) _ h) r

theorem State.canonical_retire {s : State} (h : s.memoriesWf) (g : Nat) : (s.retire g).memoriesWf :=
  State.canonical_mapThreads (f := fun t => if t.gang = g then
    { t with run := .exited, prods := [], entering := none, held := [], handler := none, resv := none, trig := none, halted := false } else t)
    (State.canonical_foldl (fun _ _ h => State.canonical_report (State.canonical_flushLogs h _ _) _ _ _) _ h) (fun t => by split <;> rfl)

/-! ### Traps (R363 to R365, R242) -/

theorem State.canonical_park {s : State} (h : s.memoriesWf) (va : Dword) (w e : Bool) : (s.park va w e).memoriesWf :=
  State.canonical_upd_same (State.canonical_request h _ _ _ _ _) rfl

theorem State.canonical_unhold {s : State} (h : s.memoriesWf) (x : Hold) : (s.unhold x).memoriesWf := h
theorem State.canonical_remark {s : State} (h : s.memoriesWf) (x : Hold) (m : Nat × List Nat) : (State.remark x s m).memoriesWf := h
theorem State.canonical_putBack {s : State} (h : s.memoriesWf) (o : MemOp) (x : OldByte) : (State.putBack o s x).memoriesWf := by
  unfold State.putBack
  dsimp only
  split
  · exact State.canonical_mapPad h _ _ (fun p hp => Memory.wf_writeByte hp _ _)
  · exact State.canonical_prvWrite h _ _ _
  · generalize (!(o.atL2 || o.isRmw) && !((s.l1? o.core (x.a / 64)).map (·.dirty.getLsbD (x.a % 64))).getD false) = b
    have h1 : (if b then { s with mem := writeByte s.mem x.a (x.dirty.getD x.was) }
        else if o.atL2 || o.isRmw then { s with mem := writeByte s.mem x.a x.was } else s : State).memoriesWf :=
      State.canonical_ite (State.canonical_mem h (Memory.wf_writeByte h.1 _ _)) (State.canonical_ite (State.canonical_mem h (Memory.wf_writeByte h.1 _ _)) h)
    split
    · exact h1
    · exact State.canonical_setL1 h1 _ _
theorem State.canonical_withdraw {s : State} (h : s.memoriesWf) (x : Hold) : (s.withdraw x).memoriesWf :=
  State.canonical_countBatten (State.canonical_foldl (fun _ m h => State.canonical_remark h x m) _
    (State.canonical_foldl (fun _ b h => State.canonical_putBack h x.op b) _ (State.canonical_unhold h x))) _ _

theorem State.canonical_terminate {s : State} (h : s.memoriesWf) (f : Nat) : (s.terminate f).memoriesWf := by
  simp only [State.terminate]
  refine State.canonical_foldl (fun _ _ h => State.canonical_writeBack h _ _) _ ?_
  refine State.memoriesWf_same ?_ rfl rfl rfl (s := List.foldl State.discardWork _ _)
  exact State.canonical_foldl (fun _ x h => State.canonical_discardWork h x) _ (State.canonical_foldl (fun _ g h => State.canonical_retire h g.id) _
    (State.canonical_foldl (fun _ x h => State.canonical_withdraw h x) _ h))

theorem State.canonical_failHandler {s : State} (h : s.memoriesWf) : s.failHandler.memoriesWf := by
  unfold State.failHandler
  split
  · exact State.canonical_report (State.canonical_terminate (State.canonical_upd_same h rfl) _) _ _ _
  · exact State.canonical_upd_same h rfl
theorem State.canonical_failAt {s : State} (h : s.memoriesWf) (t : Trap) : (s.failAt t).memoriesWf := State.canonical_report (State.canonical_failHandler h) _ _ _

theorem State.canonical_countMchk {s : State} (h : s.memoriesWf) (t : Trap) : (s.countMchk t).memoriesWf := by
  unfold State.countMchk
  split
  · dsimp only
    split
    · refine State.canonical_postAll ?_ _
      exact h
    · exact h
  · exact h

theorem State.canonical_failEntry {s : State} (h : s.memoriesWf) (t : Trap) : (s.failEntry t).memoriesWf :=
  State.canonical_failAt (State.canonical_countMchk h t) t

theorem State.canonical_refetch {s : State} (h : s.memoriesWf) (line : Nat) (c : Cause) : (s.refetch line c).2.memoriesWf := by
  unfold State.refetch
  dsimp only
  split
  · exact State.canonical_l2Read h _ _ _ _
  · exact State.canonical_l2Read (State.canonical_l2Read h _ _ _ _) _ _ _ _
theorem State.canonical_fetchPhys {s : State} (h : s.memoriesWf) (pa : Nat) (c : Cause) : (s.fetchPhys pa c).2.memoriesWf := by
  unfold State.fetchPhys
  dsimp only
  split
  · exact h
  · split
    · exact h
    · split
      · exact h
      · split
        · exact h
        · have h1 := State.canonical_refetch h (pa / 64) c
          split <;> rename_i e <;> rw [e] at h1 <;> exact h1

theorem State.canonical_fetch {s : State} (h : s.memoriesWf) (va : Dword) : (s.fetch va).2.memoriesWf := by
  unfold State.fetch
  have h1 := State.canonical_translate h va .exec
  revert h1
  generalize s.translate va .exec = x
  obtain ⟨tr, s1⟩ := x
  intro h1
  cases tr <;> dsimp only at h1 ⊢
  case ok => exact State.canonical_fetchPhys h1 _ _
  all_goals exact h1

theorem State.canonical_checkTarget {s : State} (h : s.memoriesWf) (a : Dword) (tgt : Bool) : (s.checkTarget a tgt).2.memoriesWf := by
  unfold State.checkTarget
  dsimp only
  split
  · exact h
  · have h1 := State.canonical_fetch h a
    revert h1
    generalize s.fetch a = x
    obtain ⟨tr, s1⟩ := x
    intro h1
    cases tr <;> exact h1

theorem State.canonical_translateLines (k : Nat) : ∀ {s : State} (_ : s.memoriesWf) (va : Dword) (acc : List Nat), (s.translateLines va k acc).2.2.memoriesWf := by
  induction k with
  | zero => exact fun h _ _ => h
  | succ k ih =>
    intro s h va acc
    unfold State.translateLines
    have h1 := State.canonical_translate h va .write
    revert h1
    generalize s.translate va .write = x
    obtain ⟨tr, s1⟩ := x
    intro h1
    cases tr <;> dsimp only at h1 ⊢
    case ok => exact ih h1 _ _
    all_goals exact h1

theorem State.canonical_enterAt {s : State} (h : s.memoriesWf) (t : Trap) (pas : List Nat) (e : TargetEnd) : (s.enterAt t pas e).memoriesWf := by
  simp only [State.enterAt]
  have h1 := State.canonical_foldl (f := fun s (x : Nat × List Byte) => s.pushStore x.1 x.2) (fun s x h => State.canonical_push h _)
    (pas.zip (chunks64 pas.length (natBytes 64 (s.frame t) ++ t.record))) (State.canonical_countMchk h t)
  split
  · exact State.canonical_upd_same h1 rfl
  · exact State.canonical_failAt h1 _

theorem State.canonical_enterTrap {s : State} (h : s.memoriesWf) (t : Trap) : (s.enterTrap t).memoriesWf := by
  unfold State.enterTrap
  have h1 := State.canonical_translateLines (1 + (t.record.length + 63) / 64) h s.me.trapf []
  revert h1
  generalize s.translateLines s.me.trapf (1 + (t.record.length + 63) / 64) [] = x
  obtain ⟨⟨tr, va⟩, pas, s1⟩ := x
  intro h1
  cases tr <;> dsimp only at h1 ⊢
  case held => exact State.canonical_upd_same (State.canonical_await h1 _) rfl
  case park => exact State.canonical_upd_same (State.canonical_park h1 _ _ _) rfl
  case fault => exact State.canonical_failEntry h1 _
  case mchk => exact State.canonical_failEntry h1 _
  case ok =>
    split
    · exact State.canonical_failEntry h1 _
    · split
      · exact State.canonical_enterAt h1 _ _ _
      · have h2 := State.canonical_checkTarget h1 s1.handlerEntry true
        revert h2
        generalize s1.checkTarget s1.handlerEntry true = y
        obtain ⟨e, s2⟩ := y
        intro h2
        cases e <;> dsimp only at h2 ⊢
        case held => exact State.canonical_upd_same (State.canonical_await h2 _) rfl
        case park => exact State.canonical_upd_same (State.canonical_park h2 _ _ _) rfl
        all_goals exact State.canonical_enterAt h2 _ _ _

/-- Taking a trap keeps every memory canonical. -/
theorem State.canonical_takeTrap {s : State} (h : s.memoriesWf) (t : Trap) : (s.takeTrap t).memoriesWf := by
  unfold State.takeTrap
  split
  · exact State.canonical_failEntry h t
  · exact State.canonical_enterTrap h t
theorem State.canonical_trap {s : State} (h : s.memoriesWf) (c : Nat) (f d : Dword) : (s.trap c f d).memoriesWf := State.canonical_takeTrap h _
theorem State.canonical_untranslated {s : State} (h : s.memoriesWf) (va : Dword) (acc : Acc) (r : Tr) : (s.untranslated va acc r).memoriesWf := by
  cases r
  case ok => exact h
  case held => exact State.canonical_await h _
  case park => exact State.canonical_park h _ _ _
  case fault => exact State.canonical_trap h _ _ _
  case mchk => exact State.canonical_trap h _ _ _

/-- Where the effect on success keeps the memories canonical, so does the transfer of control (R38). -/
theorem State.canonical_transferTo {s : State} (h : s.memoriesWf) (a : Dword) (tgt : Bool) {k : State → State} (hk : ∀ t, t.memoriesWf → (k t).memoriesWf) :
    (s.transferTo a tgt k).memoriesWf := by
  unfold State.transferTo
  have h1 := State.canonical_checkTarget h a tgt
  revert h1
  generalize s.checkTarget a tgt = x
  obtain ⟨e, s1⟩ := x
  intro h1
  cases e <;> dsimp only at h1 ⊢
  case ok => exact hk _ h1
  case held => exact State.canonical_await h1 _
  case park => exact State.canonical_park h1 _ _ _
  all_goals exact State.canonical_trap h1 _ _ _

theorem State.canonical_regFault {s t : State} (h : s.memoriesWf) (l : List Source) (e : s.regFault l = some t) : t.memoriesWf := by
  unfold State.regFault at e
  dsimp only at e
  split at e
  · split at e
    · cases e
      refine State.canonical_takeTrap ?_ _
      exact State.memoriesWf_same h rfl rfl rfl
    · cases e
  · cases e

/-- Where an instruction's own effect keeps the memories canonical, so does the instruction (R61). -/
theorem canonical_issue {s : State} (h : s.memoriesWf) (c : Checks) {act : State → State} (ha : s.memoriesWf → (act s).memoriesWf) :
    (issue c act s).memoriesWf := by
  unfold issue
  dsimp only
  split
  · exact State.canonical_trap h _ _ _
  · split
    · exact State.canonical_trap h _ _ _
    · split
      · exact State.canonical_advanceBy h _
      · split
        · exact State.canonical_trap h _ _ _
        · cases e : s.regFault (c.sources (s.bank s.me)) with
          | none => exact State.canonical_await h _
          | some t => exact State.canonical_regFault h _ e
        · split
          · exact State.canonical_trap h _ _ _
          · exact ha h

theorem canonical_completes {s : State} (h : s.memoriesWf) (c : Checks) {act : State → State} (ha : s.memoriesWf → (act s).memoriesWf) :
    (completes c act s).memoriesWf := canonical_issue h c (fun h => State.canonical_advance (ha h) c)

/-! ### Finding the place of an access (R192) -/

/-- Both ways in which a search for a place ends leave the memories canonical. -/
def CanonicalEnd (x : Except State (Spot × State)) : Prop := (∀ e, x = .error e → e.memoriesWf) ∧ (∀ p, x = .ok p → p.2.memoriesWf)
theorem CanonicalEnd.stop {t : State} (h : t.memoriesWf) : CanonicalEnd (.error t) := ⟨fun e he => by cases he; exact h, fun x hx => by cases hx⟩
theorem CanonicalEnd.go {t : State} (h : t.memoriesWf) (p : Spot) : CanonicalEnd (.ok (p, t)) := ⟨fun e he => by (cases he), fun x hx => by cases hx; exact h⟩

theorem State.canonical_physCheck {s : State} (h : s.memoriesWf) (va : Dword) (segs : List (Nat × Nat)) (rd : Bool) (p : Spot) :
    CanonicalEnd (s.physCheck va segs rd p) := by
  unfold State.physCheck
  split
  · exact .stop (State.canonical_trap h _ _ _)
  · split
    · exact .stop (State.canonical_trap h _ _ _)
    · exact .go h p

theorem State.canonical_mapRange {s : State} (h : s.memoriesWf) (a : Dword) (n : Nat) (acc : Acc) (rd : Bool) (spot : List (Nat × Nat) → Spot) :
    CanonicalEnd (s.mapRange a n acc rd spot) := by
  unfold State.mapRange
  have h1 := State.canonical_translate h a acc
  revert h1
  generalize s.translate a acc = x
  obtain ⟨tr, s1⟩ := x
  intro h1
  cases tr <;> dsimp only at h1 ⊢
  case ok pa =>
    split
    · exact State.canonical_physCheck h1 _ _ _ _
    · have h2 := State.canonical_translate h1 (a + BitVec.ofNat 64 (Nat.min n (4096 - a.toNat % 4096))) acc
      revert h2
      generalize s1.translate (a + BitVec.ofNat 64 (Nat.min n (4096 - a.toNat % 4096))) acc = y
      obtain ⟨tr2, s2⟩ := y
      intro h2
      cases tr2 <;> dsimp only at h2 ⊢
      case ok pb => exact State.canonical_physCheck h2 _ _ _ _
      all_goals exact .stop (State.canonical_untranslated h2 _ _ _)
  all_goals exact .stop (State.canonical_untranslated h1 _ _ _)

theorem State.canonical_locate {s : State} (h : s.memoriesWf) (sp : Space) (hd a : Dword) (n : Nat) (al : Bool) (acc : Acc) (rd : Bool) :
    CanonicalEnd (s.locate sp hd a n al acc rd) := by
  unfold State.locate
  split
  · exact .stop (State.canonical_trap h _ _ _)
  · cases sp <;> dsimp only
    case scr =>
      split
      · exact .stop (State.canonical_trap h _ _ _)
      · split
        · exact .stop (State.canonical_trap h _ _ _)
        · exact .go h _
    case prv =>
      split
      · exact .stop (State.canonical_trap h _ _ _)
      · exact State.canonical_mapRange h _ _ _ _ _
    case par =>
      split
      · exact .stop (State.canonical_trap h _ _ _)
      · exact State.canonical_physCheck h _ _ _ _
    case glb => exact State.canonical_mapRange h _ _ _ _ _

end Sys2Proof.Machine
end
end

