-- ==== Sys2Proof/Laws/Issue.lean ====
section
/-! SUPPORT. What the common part of every instruction can do (R61, R70, R78): one lemma for `issue`, and that every encoded instruction goes through it. -/
noncomputable section
namespace Sys2Proof.Machine

theorem issue_illegal (c : Checks) (act : State → State) (s : State) (h : (c.legal (s.bank s.me) && c.fits (s.bank s.me) s.me.budget) = false) :
    issue c act s = s.trap 1 0 0 := by
  simp [issue, h]

theorem issue_privilege (c : Checks) (act : State → State) (s : State) (h : (c.legal (s.bank s.me) && c.fits (s.bank s.me) s.me.budget) = true)
    (hs : c.sys = true) (hm : s.isSys s.me = false) : issue c act s = s.trap 4 0 0 := by
  simp [issue, h, hs, hm]

theorem issue_guard (c : Checks) (act : State → State) (s : State) (h : (c.legal (s.bank s.me) && c.fits (s.bank s.me) s.me.budget) = true)
    (hm : c.sys = true → s.isSys s.me = true) (hg : s.me.passes c.g = false) : issue c act s = s.advanceBy c.syl := by
  cases hs : c.sys <;> simp_all [issue]

/-- Where the checks before the sources pass, the sources decide. -/
theorem issue_sources (c : Checks) (act : State → State) (s : State) (h : (c.legal (s.bank s.me) && c.fits (s.bank s.me) s.me.budget) = true)
    (hm : c.sys = true → s.isSys s.me = true) (hg : s.me.passes c.g = true) :
    issue c act s = (match s.me.sources (c.sources (s.bank s.me)) with
      | .empty r => s.trap 6 0 (r.setWidth 64)
      | .block => (s.regFault (c.sources (s.bank s.me))).getD (s.await .source)
      | .full => if s.me.readsStruck (c.sources (s.bank s.me)) then s.trap 5 0 2 else act s) := by
  cases hs : c.sys <;> simp_all [issue] <;> rfl

/-- Where all checks pass, the effect follows. -/
theorem issue_effect (c : Checks) (act : State → State) (s : State) (h : (c.legal (s.bank s.me) && c.fits (s.bank s.me) s.me.budget) = true)
    (hm : c.sys = true → s.isSys s.me = true) (hg : s.me.passes c.g = true) (hf : s.me.sources (c.sources (s.bank s.me)) = .full)
    (hc : s.me.readsStruck (c.sources (s.bank s.me)) = false) : issue c act s = act s := by
  rw [issue_sources c act s h hm hg, hf]
  simp [hc]

/-- `State.issues` in terms of the checks of an instruction. -/
theorem issues_checks {s : State} {i : Instr} (h : s.issues i = true) :
    (i.checks.legal (s.bank s.me) && i.checks.fits (s.bank s.me) s.me.budget) = true ∧ (i.checks.sys = true → s.isSys s.me = true) ∧
    s.me.passes i.checks.g = true ∧ s.me.sources (i.checks.sources (s.bank s.me)) = .full ∧
    s.me.readsStruck (i.checks.sources (s.bank s.me)) = false := by
  simp only [State.issues, Bool.and_eq_true, Bool.or_eq_true, Bool.not_eq_true', beq_iff_eq] at h
  obtain ⟨⟨⟨⟨⟨⟨_, h1⟩, h2⟩, h3⟩, h4⟩, h5⟩, h6⟩ := h
  refine ⟨?_, ?_, h4, h5, h6⟩
  · show (i.legal _ && i.inBudget _ _) = true
    rw [h1, h2]; rfl
  · intro hs
    rcases h3 with h3 | h3
    · exact absurd (show i.isSys = true from hs) (by rw [h3]; decide)
    · exact h3

/-- An instruction that issues has its effect. -/
theorem issue_of_issues {s : State} {i : Instr} (h : s.issues i = true) (act : State → State) : issue i.checks act s = act s := by
  obtain ⟨h1, h2, h3, h4, h5⟩ := issues_checks h
  exact issue_effect _ _ _ h1 h2 h3 h4 h5

theorem exec_cctl (o : LOps) (m : MemMod) (s : State) : ∃ act, exec (.cctl o m) s = .next (issue (Instr.cctl o m).checks act s) := by
  simp only [exec, execCctl, cctlOp]
  generalize o.d.toNat = k
  rcases k with _ | _ | _ | _ | _ | k
  case succ.succ.succ.succ.zero => simp only []; split <;> exact ⟨_, rfl⟩
  all_goals exact ⟨_, rfl⟩

set_option maxHeartbeats 1000000 in
/-- Every instruction that needs no matrix unit goes through `issue`. -/
theorem exec_issue (i : Instr) (s : State) (h : i.isEvent = false) (hu : needsUnit i = false) :
    ∃ act, exec i s = .next (issue i.checks act s) := by
  cases i
  case cctl o m => exact exec_cctl o m s
  case mma | mmaJ | slateLd | slateSp | slateRel | epi | accRd | accWr | accZero | accZeroFree => cases hu
  case instructionLineFill | longLatencyArrival | napExpiry | watchdogExpiry | handlerTimeLimit | pageRequestResponse | releaseConfirm |
    handoverRecord | hostRead | hostWrite | atsInvalidationRequest | streamInstructionComplete | copyCommandStart | copyCommandComplete |
    matrixCommandExecute | gangPlacement | gangEnd | batchTimerSeal | dealChunk | cancelGraceExpiry | jokebryPreemptRequest | preemptionTrap |
    lightSave | preemptionGraceExpiry | savedGangResume | parcelArrival | deliveryConfirmed | deliveryFailed | remoteOperationArrival |
    rmaCompletion | collectiveRoundComplete | collectiveTimeout | flitReceive | linkIdleTimeout | linkStateUpdate | drainRoundEnd |
    linkStateEvent | linkRetrain | triggerTick | waitUntilReached | waitValTimeout | doorbellRing | sysIdleTimeLimit | auditReplayComplete |
    scrubPass | thermalCritical | envelopeWrite | firmwareUpdate | dieBoot | attestationRequest | rootRcbCreation | jokebryRegisterWrite |
    storePerforms | cxlCacheSnoop | softError | powerRemoval | hostAttachment | cxlPortDown => cases h
  case mmaF64 o m =>
    simp only [exec, execMmaF64, mmaF64Op, matrixOp, Bool.false_and, Bool.false_eq_true, if_false]
    exact ⟨_, rfl⟩
  case nop o m => dsimp only [exec, execNop, nopOp, completes]; exact ⟨_, rfl⟩
  case bra o m => dsimp only [exec, execBra, braOp]; exact ⟨_, rfl⟩
  case jmp o m => dsimp only [exec, execJmp, jmpOp]; exact ⟨_, rfl⟩
  case call o m => dsimp only [exec, execCall, callOp]; exact ⟨_, rfl⟩
  case calli o m => dsimp only [exec, execCalli, calliOp]; exact ⟨_, rfl⟩
  case ret o m => dsimp only [exec, execRet, retOp]; exact ⟨_, rfl⟩
  case exit o m => dsimp only [exec, execExit, exitOp]; exact ⟨_, rfl⟩
  case yield o m => dsimp only [exec, execYield, yieldOp]; exact ⟨_, rfl⟩
  case conv o m => dsimp only [exec, execConv, convOp]; exact ⟨_, rfl⟩
  case barGrp o m => dsimp only [exec, execBarGrp, barGrpOp]; exact ⟨_, rfl⟩
  case guardSet o m => dsimp only [exec, execGuardSet, guardSetOp]; exact ⟨_, rfl⟩
  case guardClr o m => dsimp only [exec, execGuardClr, guardClrOp]; exact ⟨_, rfl⟩
  case plog o m => dsimp only [exec, execPlog, plogOp, completes]; exact ⟨_, rfl⟩
  case pmovRd o m => dsimp only [exec, execPmovRd, pmovRdOp, completes]; exact ⟨_, rfl⟩
  case pmovWr o m => dsimp only [exec, execPmovWr, pmovWrOp, completes]; exact ⟨_, rfl⟩
  case sread o m => dsimp only [exec, execSread, sreadOp]; exact ⟨_, rfl⟩
  case swrite o m => dsimp only [exec, execSwrite, swriteOp]; exact ⟨_, rfl⟩
  case brdec o m => dsimp only [exec, execBrdec, brdecOp]; exact ⟨_, rfl⟩
  case brv o m => dsimp only [exec, execBrv, brvOp]; exact ⟨_, rfl⟩
  case nap o m => dsimp only [exec, execNap, napOp]; exact ⟨_, rfl⟩
  case ipref o m => dsimp only [exec, execIpref, ipref]; exact ⟨_, rfl⟩
  case feSet o m => dsimp only [exec, execFeSet, feSetOp]; exact ⟨_, rfl⟩
  case feTest o m => dsimp only [exec, execFeTest, feTestOp, completes]; exact ⟨_, rfl⟩
  case add o m => dsimp only [exec, execAdd, addOp, intOp2, completes]; exact ⟨_, rfl⟩
  case sub o m => dsimp only [exec, execSub, subOp, intOp2, completes]; exact ⟨_, rfl⟩
  case addc o m => dsimp only [exec, execAddc, addcOp, completes]; exact ⟨_, rfl⟩
  case subb o m => dsimp only [exec, execSubb, subbOp, completes]; exact ⟨_, rfl⟩
  case mul o m => dsimp only [exec, execMul, mulOp, intOp2, completes]; exact ⟨_, rfl⟩
  case mulh o m => dsimp only [exec, execMulh, mulhOp, completes]; exact ⟨_, rfl⟩
  case mad o m => dsimp only [exec, execMad, madOp, completes]; exact ⟨_, rfl⟩
  case div o m => dsimp only [exec, execDiv, divOp, completes]; exact ⟨_, rfl⟩
  case rem o m => dsimp only [exec, execRem, remOp, completes]; exact ⟨_, rfl⟩
  case min o m => dsimp only [exec, execMin, minOp, intOp2, completes]; exact ⟨_, rfl⟩
  case max o m => dsimp only [exec, execMax, maxOp, intOp2, completes]; exact ⟨_, rfl⟩
  case abs o m => dsimp only [exec, execAbs, absOp, intOp1, completes]; exact ⟨_, rfl⟩
  case neg o m => dsimp only [exec, execNeg, negOp, intOp1, completes]; exact ⟨_, rfl⟩
  case and o m => dsimp only [exec, execAnd, andOp, logicOp, completes]; exact ⟨_, rfl⟩
  case or o m => dsimp only [exec, execOr, orOp, logicOp, completes]; exact ⟨_, rfl⟩
  case xor o m => dsimp only [exec, execXor, xorOp, logicOp, completes]; exact ⟨_, rfl⟩
  case andn o m => dsimp only [exec, execAndn, andnOp, logicOp, completes]; exact ⟨_, rfl⟩
  case shl o m => dsimp only [exec, execShl, shlOp, shiftOp, completes]; exact ⟨_, rfl⟩
  case shr o m => dsimp only [exec, execShr, shrOp, shiftOp, completes]; exact ⟨_, rfl⟩
  case sar o m => dsimp only [exec, execSar, sarOp, shiftOp, completes]; exact ⟨_, rfl⟩
  case rot o m => dsimp only [exec, execRot, rotOp, shiftOp, completes]; exact ⟨_, rfl⟩
  case bfx o m => dsimp only [exec, execBfx, bfxOp, shiftOp, completes]; exact ⟨_, rfl⟩
  case bfi o m => dsimp only [exec, execBfi, bfiOp, completes]; exact ⟨_, rfl⟩
  case popc o m => dsimp only [exec, execPopc, popcOp, completes]; exact ⟨_, rfl⟩
  case clz o m => dsimp only [exec, execClz, clzOp, completes]; exact ⟨_, rfl⟩
  case brev o m => dsimp only [exec, execBrev, brevOp, completes]; exact ⟨_, rfl⟩
  case cmp o m => dsimp only [exec, execCmp, cmpOp, completes]; exact ⟨_, rfl⟩
  case sel o m => dsimp only [exec, execSel, selOp, completes]; exact ⟨_, rfl⟩
  case mov o m => dsimp only [exec, execMov, movOp, completes]; exact ⟨_, rfl⟩
  case lea o m => dsimp only [exec, execLea, leaOp, completes]; exact ⟨_, rfl⟩
  case fpAdd o m => dsimp only [exec, execFpAdd, fpAddOp, fpArith2]; exact ⟨_, rfl⟩
  case fpSub o m => dsimp only [exec, execFpSub, fpSubOp, fpArith2]; exact ⟨_, rfl⟩
  case fpMul o m => dsimp only [exec, execFpMul, fpMulOp, fpArith2]; exact ⟨_, rfl⟩
  case fma o m => dsimp only [exec, execFma, fmaOp, fpArith3]; exact ⟨_, rfl⟩
  case fms o m => dsimp only [exec, execFms, fmsOp, fpArith3]; exact ⟨_, rfl⟩
  case fnma o m => dsimp only [exec, execFnma, fnmaOp, fpArith3]; exact ⟨_, rfl⟩
  case fnms o m => dsimp only [exec, execFnms, fnmsOp, fpArith3]; exact ⟨_, rfl⟩
  case fpDiv o m => dsimp only [exec, execFpDiv, fpDivOp]; exact ⟨_, rfl⟩
  case sqrt o m => dsimp only [exec, execSqrt, sqrtOp]; exact ⟨_, rfl⟩
  case fpMin o m => dsimp only [exec, execFpMin, fpMinMax]; exact ⟨_, rfl⟩
  case fpMax o m => dsimp only [exec, execFpMax, fpMinMax]; exact ⟨_, rfl⟩
  case fpAbs o m => dsimp only [exec, execFpAbs, signOp, completes]; exact ⟨_, rfl⟩
  case fpNeg o m => dsimp only [exec, execFpNeg, signOp, completes]; exact ⟨_, rfl⟩
  case cpysgn o m => dsimp only [exec, execCpysgn, signOp, completes]; exact ⟨_, rfl⟩
  case fpCmp o m => dsimp only [exec, execFpCmp, fpCmpOp]; exact ⟨_, rfl⟩
  case fclass o m => dsimp only [exec, execFclass, classOp, completes]; exact ⟨_, rfl⟩
  case rint o m => dsimp only [exec, execRint, rintOp]; exact ⟨_, rfl⟩
  case scale o m => dsimp only [exec, execScale, scaleOp]; exact ⟨_, rfl⟩
  case getexp o m => dsimp only [exec, execGetexp, getexpOp]; exact ⟨_, rfl⟩
  case cvt o m => dsimp only [exec, execCvt, cvtOp]; exact ⟨_, rfl⟩
  case cvti o m => dsimp only [exec, execCvti, cvtiOp]; exact ⟨_, rfl⟩
  case cvtf o m => dsimp only [exec, execCvtf, cvtfOp]; exact ⟨_, rfl⟩
  case padd o m => dsimp only [exec, execPadd, paddOp, packedOp]; exact ⟨_, rfl⟩
  case pmul o m => dsimp only [exec, execPmul, pmulOp, packedOp]; exact ⟨_, rfl⟩
  case pfma o m => dsimp only [exec, execPfma, pfmaOp, packedOp]; exact ⟨_, rfl⟩
  case pdot o m => dsimp only [exec, execPdot, pdotOp]; exact ⟨_, rfl⟩
  case pcvt o m => dsimp only [exec, execPcvt, pcvtOp]; exact ⟨_, rfl⟩
  case pmax o m => dsimp only [exec, execPmax, pmaxOp, packedOp]; exact ⟨_, rfl⟩
  case shfl o m => dsimp only [exec, execShfl, shflOp, laneOp]; exact ⟨_, rfl⟩
  case bcast o m => dsimp only [exec, execBcast, bcastOp, laneOp]; exact ⟨_, rfl⟩
  case vote o m => dsimp only [exec, execVote, voteOp, laneOp]; exact ⟨_, rfl⟩
  case laneRed o m => dsimp only [exec, execLaneRed, laneRedOp, laneOp]; exact ⟨_, rfl⟩
  case laneScan o m => dsimp only [exec, execLaneScan, laneScanOp, laneOp]; exact ⟨_, rfl⟩
  case laneChain o m => dsimp only [exec, execLaneChain, chainOp]; exact ⟨_, rfl⟩
  case matchAny o m => dsimp only [exec, execMatchAny, matchOp, laneOp]; exact ⟨_, rfl⟩
  case rcp o m => dsimp only [exec, execRcp, sfuOp]; exact ⟨_, rfl⟩
  case rsq o m => dsimp only [exec, execRsq, sfuOp]; exact ⟨_, rfl⟩
  case exp2 o m => dsimp only [exec, execExp2, sfuOp]; exact ⟨_, rfl⟩
  case log2 o m => dsimp only [exec, execLog2, sfuOp]; exact ⟨_, rfl⟩
  case sin o m => dsimp only [exec, execSin, sfuOp]; exact ⟨_, rfl⟩
  case cos o m => dsimp only [exec, execCos, sfuOp]; exact ⟨_, rfl⟩
  case tanh o m => dsimp only [exec, execTanh, sfuOp]; exact ⟨_, rfl⟩
  case ssync o m => dsimp only [exec, execSsync, ssyncOp]; exact ⟨_, rfl⟩
  case ld o m => dsimp only [exec, execLd, ldOp, loadOp]; exact ⟨_, rfl⟩
  case ldSignExtend o m => dsimp only [exec, execLdSignExtend, ldSxOp, loadOp]; exact ⟨_, rfl⟩
  case st o m => dsimp only [exec, execSt, stOp, storeOp]; exact ⟨_, rfl⟩
  case ldu o m => dsimp only [exec, execLdu, lduOp, loadOp]; exact ⟨_, rfl⟩
  case stz o m => dsimp only [exec, execStz, stzOp, storeOp]; exact ⟨_, rfl⟩
  case stm o m => dsimp only [exec, execStm, stmOp, storeOp]; exact ⟨_, rfl⟩
  case pref o m => dsimp only [exec, execPref, prefOp, completes]; exact ⟨_, rfl⟩
  case prefCnt o m => dsimp only [exec, execPrefCnt, prefCntOp]; exact ⟨_, rfl⟩
  case cdisc o m => dsimp only [exec, execCdisc, cdiscOp, lineOp]; exact ⟨_, rfl⟩
  case salloc o m => dsimp only [exec, execSalloc, sallocOp, completes]; exact ⟨_, rfl⟩
  case sfree o m => dsimp only [exec, execSfree, sfreeOp]; exact ⟨_, rfl⟩
  case probe o m => dsimp only [exec, execProbe, probeOp]; exact ⟨_, rfl⟩
  case atom o m => dsimp only [exec, execAtom, atomOp, atomicOp]; exact ⟨_, rfl⟩
  case atomFloat o m => dsimp only [exec, execAtomFloat, atomFloatOp, atomicOp]; exact ⟨_, rfl⟩
  case atomCas o m => dsimp only [exec, execAtomCas, atomCasOp, atomicOp]; exact ⟨_, rfl⟩
  case red o m => dsimp only [exec, execRed, redOp, atomicOp]; exact ⟨_, rfl⟩
  case redFloat o m => dsimp only [exec, execRedFloat, redFloatOp, atomicOp]; exact ⟨_, rfl⟩
  case fence o m => dsimp only [exec, execFence, fenceOp, completes]; exact ⟨_, rfl⟩
  case waitVal o m => dsimp only [exec, execWaitVal, waitValOp]; exact ⟨_, rfl⟩
  case ldLink o m => dsimp only [exec, execLdLink, ldLinkOp]; exact ⟨_, rfl⟩
  case stCond o m => dsimp only [exec, execStCond, stCondOp]; exact ⟨_, rfl⟩
  case barInit o m => dsimp only [exec, execBarInit, barInitOp]; exact ⟨_, rfl⟩
  case barArrive o m => dsimp only [exec, execBarArrive, barArriveOp]; exact ⟨_, rfl⟩
  case barWait o m => dsimp only [exec, execBarWait, barWaitOp]; exact ⟨_, rfl⟩
  case barSync o m => dsimp only [exec, execBarSync, barSyncOp]; exact ⟨_, rfl⟩
  case barTest o m => dsimp only [exec, execBarTest, barTestOp]; exact ⟨_, rfl⟩
  case barDrop o m => dsimp only [exec, execBarDrop, barDropOp]; exact ⟨_, rfl⟩
  case chkInjectEarly o m => dsimp only [exec, execChkInjectEarly, chkInjectOp]; exact ⟨_, rfl⟩
  case chkInjectHash o m => dsimp only [exec, execChkInjectHash, chkInjectOp]; exact ⟨_, rfl⟩
  case chkInjectSkip o m => dsimp only [exec, execChkInjectSkip, chkInjectOp]; exact ⟨_, rfl⟩
  case chkInjectDup o m => dsimp only [exec, execChkInjectDup, chkInjectOp]; exact ⟨_, rfl⟩
  case chkRead o m => dsimp only [exec, execChkRead, chkReadOp]; exact ⟨_, rfl⟩
  case chkSync o m => dsimp only [exec, execChkSync, chkSyncOp]; exact ⟨_, rfl⟩
  case chkClear o m => dsimp only [exec, execChkClear, chkClearOp]; exact ⟨_, rfl⟩
  case chkSample o m => dsimp only [exec, execChkSample, chkSampleOp]; exact ⟨_, rfl⟩
  case mstat o m => dsimp only [exec, execMstat, mstatOp]; exact ⟨_, rfl⟩
  case mstatNow o m => dsimp only [exec, execMstatNow, mstatNowOp]; exact ⟨_, rfl⟩
  case mreset o m => dsimp only [exec, execMreset, mresetOp]; exact ⟨_, rfl⟩
  case tcopy o m => dsimp only [exec, execTcopy, tcopyOp, tensorOp]; exact ⟨_, rfl⟩
  case tstore o m => dsimp only [exec, execTstore, tstoreOp, tensorOp]; exact ⟨_, rfl⟩
  case twait o m => dsimp only [exec, execTwait, twaitOp]; exact ⟨_, rfl⟩
  case tstate o m => dsimp only [exec, execTstate, tstateOp]; exact ⟨_, rfl⟩
  case tdef o m => dsimp only [exec, execTdef, tdefOp]; exact ⟨_, rfl⟩
  case tfree o m => dsimp only [exec, execTfree, tfreeOp]; exact ⟨_, rfl⟩
  case tfill o m => dsimp only [exec, execTfill, tfillOp]; exact ⟨_, rfl⟩
  case tmov o m => dsimp only [exec, execTmov, tmovOp]; exact ⟨_, rfl⟩
  case tcancel o m => dsimp only [exec, execTcancel, tcancelOp]; exact ⟨_, rfl⟩
  case emit o m => dsimp only [exec, execEmit, emitOp]; exact ⟨_, rfl⟩
  case emitTry o m => dsimp only [exec, execEmitTry, emitTryOp]; exact ⟨_, rfl⟩
  case launchJob o m => dsimp only [exec, execLaunchJob, launchJobOp]; exact ⟨_, rfl⟩
  case cancel o m => dsimp only [exec, execCancel, cancelOp, regionCtlOp]; exact ⟨_, rfl⟩
  case quiesce o m => dsimp only [exec, execQuiesce, quiesceOp, regionCtlOp]; exact ⟨_, rfl⟩
  case resume o m => dsimp only [exec, execResume, resumeOp, regionCtlOp]; exact ⟨_, rfl⟩
  case nodeCtlOff o m => dsimp only [exec, execNodeCtlOff, nodeCtlOp]; exact ⟨_, rfl⟩
  case nodeCtlOn o m => dsimp only [exec, execNodeCtlOn, nodeCtlOp]; exact ⟨_, rfl⟩
  case nodeCtlFlush o m => dsimp only [exec, execNodeCtlFlush, nodeCtlOp]; exact ⟨_, rfl⟩
  case regionNew o m => dsimp only [exec, execRegionNew, regionNewOp]; exact ⟨_, rfl⟩
  case regionFree o m => dsimp only [exec, execRegionFree, regionFreeOp]; exact ⟨_, rfl⟩
  case qstat o m => dsimp only [exec, execQstat, qstatOp]; exact ⟨_, rfl⟩
  case pclNew o m => dsimp only [exec, execPclNew, pclNewOp]; exact ⟨_, rfl⟩
  case pclFree o m => dsimp only [exec, execPclFree, pclFreeOp]; exact ⟨_, rfl⟩
  case post o m => dsimp only [exec, execPost, postOp]; exact ⟨_, rfl⟩
  case postNb o m => dsimp only [exec, execPostNb, postNbOp]; exact ⟨_, rfl⟩
  case accept o m => dsimp only [exec, execAccept, acceptOp, acceptWith]; exact ⟨_, rfl⟩
  case acceptTry o m => dsimp only [exec, execAcceptTry, acceptTryOp, acceptWith]; exact ⟨_, rfl⟩
  case acceptBack o m => dsimp only [exec, execAcceptBack, acceptBackOp]; exact ⟨_, rfl⟩
  case pclStat o m => dsimp only [exec, execPclStat, pclStatOp]; exact ⟨_, rfl⟩
  case rmaReg o m => dsimp only [exec, execRmaReg, rmaRegOp]; exact ⟨_, rfl⟩
  case rmaDereg o m => dsimp only [exec, execRmaDereg, rmaDeregOp]; exact ⟨_, rfl⟩
  case rmaWr o m => dsimp only [exec, execRmaWr, rmaWrOp, remoteOp]; exact ⟨_, rfl⟩
  case rmaWri o m => dsimp only [exec, execRmaWri, rmaWriOp, remoteOp]; exact ⟨_, rfl⟩
  case rmaRd o m => dsimp only [exec, execRmaRd, rmaRdOp, remoteOp]; exact ⟨_, rfl⟩
  case rmaRdBlk o m => dsimp only [exec, execRmaRdBlk, rmaRdBlkOp, remoteOp]; exact ⟨_, rfl⟩
  case rmaAtom o m => dsimp only [exec, execRmaAtom, rmaAtomOp, remoteOp]; exact ⟨_, rfl⟩
  case noteWait o m => dsimp only [exec, execNoteWait, noteWaitOp, noteWith]; exact ⟨_, rfl⟩
  case noteTry o m => dsimp only [exec, execNoteTry, noteTryOp, noteWith]; exact ⟨_, rfl⟩
  case stPref o m => dsimp only [exec, execStPref, stPrefOp]; exact ⟨_, rfl⟩
  case ldPref o m => dsimp only [exec, execLdPref, ldPrefOp]; exact ⟨_, rfl⟩
  case coll o m => dsimp only [exec, execColl, collOpIssue]; exact ⟨_, rfl⟩
  case collWait o m => dsimp only [exec, execCollWait, collWaitOp]; exact ⟨_, rfl⟩
  case timeRd o m => dsimp only [exec, execTimeRd, timeRdOp]; exact ⟨_, rfl⟩
  case trigAt o m => dsimp only [exec, execTrigAt, trigAtOp]; exact ⟨_, rfl⟩
  case waitUntil o m => dsimp only [exec, execWaitUntil, waitUntilOp]; exact ⟨_, rfl⟩
  case hops o m => dsimp only [exec, execHops, hopsOp]; exact ⟨_, rfl⟩
  case trap o m => dsimp only [exec, execTrap, trapOp]; exact ⟨_, rfl⟩
  case trapRet o m => dsimp only [exec, execTrapRet, trapRetOp]; exact ⟨_, rfl⟩
  case preemptDone o m => dsimp only [exec, execPreemptDone, preemptDoneOp]; exact ⟨_, rfl⟩
  case dbgBrk o m => dsimp only [exec, execDbgBrk, dbgBrkOp]; exact ⟨_, rfl⟩
  case invRange o m => dsimp only [exec, execInvRange, invRangeOp]; exact ⟨_, rfl⟩
  case invAsid o m => dsimp only [exec, execInvAsid, invAsidOp]; exact ⟨_, rfl⟩
  case ctxSave o m => dsimp only [exec, execCtxSave, ctxSaveOp, ctxSaveWith]; exact ⟨_, rfl⟩
  case ctxSaveNow o m => dsimp only [exec, execCtxSaveNow, ctxSaveNowOp, ctxSaveWith]; exact ⟨_, rfl⟩
  case ctxLoad o m => dsimp only [exec, execCtxLoad, ctxLoadOp]; exact ⟨_, rfl⟩
  case dbgHalt o m => dsimp only [exec, execDbgHalt, dbgHaltOp, debugWith]; exact ⟨_, rfl⟩
  case dbgHaltArm o m => dsimp only [exec, execDbgHaltArm, dbgHaltArmOp, debugWith]; exact ⟨_, rfl⟩
  case dbgHaltDisarm o m => dsimp only [exec, execDbgHaltDisarm, dbgHaltDisarmOp, debugWith]; exact ⟨_, rfl⟩
  case dbgHaltQry o m => dsimp only [exec, execDbgHaltQry, dbgHaltQryOp, debugWith]; exact ⟨_, rfl⟩
  case dbgStep o m => dsimp only [exec, execDbgStep, dbgStepOp]; exact ⟨_, rfl⟩
  case dbgResume o m => dsimp only [exec, execDbgResume, dbgResumeOp, debugWith]; exact ⟨_, rfl⟩
  case vdtLd o m => dsimp only [exec, execVdtLd, vdtLdOp]; exact ⟨_, rfl⟩
  case envRd o m => dsimp only [exec, execEnvRd, envRdOp, completes]; exact ⟨_, rfl⟩
  case logRd o m => dsimp only [exec, execLogRd, logRdOp, completes]; exact ⟨_, rfl⟩
  case mchkRd o m => dsimp only [exec, execMchkRd, mchkRdOp, completes]; exact ⟨_, rfl⟩
  case sysIdle o m => dsimp only [exec, execSysIdle, sysIdleOp]; exact ⟨_, rfl⟩
  case nopS32 o => dsimp only [exec, execNopS32, nopOp, completes]; exact ⟨_, rfl⟩
  case exitS32 o => dsimp only [exec, execExitS32, exitOp]; exact ⟨_, rfl⟩
  case yieldS32 o => dsimp only [exec, execYieldS32, yieldOp]; exact ⟨_, rfl⟩
  case convS32 o => dsimp only [exec, execConvS32, convOp]; exact ⟨_, rfl⟩
  case retS32 o => dsimp only [exec, execRetS32, retOp]; exact ⟨_, rfl⟩
  case barGrpS32 o => dsimp only [exec, execBarGrpS32, barGrpOp]; exact ⟨_, rfl⟩
  case guardSetS32 o => dsimp only [exec, execGuardSetS32, guardSetOp]; exact ⟨_, rfl⟩
  case guardClrS32 o => dsimp only [exec, execGuardClrS32, guardClrOp]; exact ⟨_, rfl⟩
  case plogAndS32 o => dsimp only [exec, execPlogAndS32, plogOp, completes]; exact ⟨_, rfl⟩
  case plogOrS32 o => dsimp only [exec, execPlogOrS32, plogOp, completes]; exact ⟨_, rfl⟩
  case plogXorS32 o => dsimp only [exec, execPlogXorS32, plogOp, completes]; exact ⟨_, rfl⟩
  case plogAndnS32 o => dsimp only [exec, execPlogAndnS32, plogOp, completes]; exact ⟨_, rfl⟩
  case twaitS32 o => dsimp only [exec, execTwaitS32, twaitOp]; exact ⟨_, rfl⟩
  case tstateS32 o => dsimp only [exec, execTstateS32, tstateOp]; exact ⟨_, rfl⟩
  case dbgBrkS32 o => dsimp only [exec, execDbgBrkS32, dbgBrkOp]; exact ⟨_, rfl⟩
  case ssyncS32 o => dsimp only [exec, execSsyncS32, ssyncOp]; exact ⟨_, rfl⟩
  case addI32S32 o => dsimp only [exec, execAddI32S32, addOp, intOp2, completes]; exact ⟨_, rfl⟩
  case subI32S32 o => dsimp only [exec, execSubI32S32, subOp, intOp2, completes]; exact ⟨_, rfl⟩
  case mulI32S32 o => dsimp only [exec, execMulI32S32, mulOp, intOp2, completes]; exact ⟨_, rfl⟩
  case andN32S32 o => dsimp only [exec, execAndN32S32, andOp, logicOp, completes]; exact ⟨_, rfl⟩
  case orN32S32 o => dsimp only [exec, execOrN32S32, orOp, logicOp, completes]; exact ⟨_, rfl⟩
  case xorN32S32 o => dsimp only [exec, execXorN32S32, xorOp, logicOp, completes]; exact ⟨_, rfl⟩
  case shlN32S32 o => dsimp only [exec, execShlN32S32, shlOp, shiftOp, completes]; exact ⟨_, rfl⟩
  case shrN32S32 o => dsimp only [exec, execShrN32S32, shrOp, shiftOp, completes]; exact ⟨_, rfl⟩
  case sarI32S32 o => dsimp only [exec, execSarI32S32, sarOp, shiftOp, completes]; exact ⟨_, rfl⟩
  case minI32S32 o => dsimp only [exec, execMinI32S32, minOp, intOp2, completes]; exact ⟨_, rfl⟩
  case maxI32S32 o => dsimp only [exec, execMaxI32S32, maxOp, intOp2, completes]; exact ⟨_, rfl⟩
  case minN32S32 o => dsimp only [exec, execMinN32S32, minOp, intOp2, completes]; exact ⟨_, rfl⟩
  case maxN32S32 o => dsimp only [exec, execMaxN32S32, maxOp, intOp2, completes]; exact ⟨_, rfl⟩
  case movN32S32 o => dsimp only [exec, execMovN32S32, movOp, completes]; exact ⟨_, rfl⟩
  case cmpI32S32 o => dsimp only [exec, execCmpI32S32, cmpOp, completes]; exact ⟨_, rfl⟩
  case cmpN32S32 o => dsimp only [exec, execCmpN32S32, cmpOp, completes]; exact ⟨_, rfl⟩
  case addF32S32 o => dsimp only [exec, execAddF32S32, fpAddOp, fpArith2]; exact ⟨_, rfl⟩
  case subF32S32 o => dsimp only [exec, execSubF32S32, fpSubOp, fpArith2]; exact ⟨_, rfl⟩
  case mulF32S32 o => dsimp only [exec, execMulF32S32, fpMulOp, fpArith2]; exact ⟨_, rfl⟩
  case minF32S32 o => dsimp only [exec, execMinF32S32, fpMinMax]; exact ⟨_, rfl⟩
  case maxF32S32 o => dsimp only [exec, execMaxF32S32, fpMinMax]; exact ⟨_, rfl⟩
  case cmpF32S32 o => dsimp only [exec, execCmpF32S32, fpCmpOp]; exact ⟨_, rfl⟩
  case addF64S32 o => dsimp only [exec, execAddF64S32, fpAddOp, fpArith2]; exact ⟨_, rfl⟩
  case subF64S32 o => dsimp only [exec, execSubF64S32, fpSubOp, fpArith2]; exact ⟨_, rfl⟩
  case mulF64S32 o => dsimp only [exec, execMulF64S32, fpMulOp, fpArith2]; exact ⟨_, rfl⟩
  case rcpF32S32 o => dsimp only [exec, execRcpF32S32, sfuOp]; exact ⟨_, rfl⟩
  case rsqF32S32 o => dsimp only [exec, execRsqF32S32, sfuOp]; exact ⟨_, rfl⟩
  case exp2F32S32 o => dsimp only [exec, execExp2F32S32, sfuOp]; exact ⟨_, rfl⟩
  case log2F32S32 o => dsimp only [exec, execLog2F32S32, sfuOp]; exact ⟨_, rfl⟩
  case nestCopy o => dsimp only [exec, execNestCopy, nestOp]; exact ⟨_, rfl⟩
  case nestFill o => dsimp only [exec, execNestFill, nestOp]; exact ⟨_, rfl⟩
  case nestCvt o => dsimp only [exec, execNestCvt, nestOp]; exact ⟨_, rfl⟩
  case nestAdd o => dsimp only [exec, execNestAdd, nestOp]; exact ⟨_, rfl⟩
  case nestSub o => dsimp only [exec, execNestSub, nestOp]; exact ⟨_, rfl⟩
  case nestMul o => dsimp only [exec, execNestMul, nestOp]; exact ⟨_, rfl⟩
  case nestFma o => dsimp only [exec, execNestFma, nestOp]; exact ⟨_, rfl⟩
  case nestMin o => dsimp only [exec, execNestMin, nestOp]; exact ⟨_, rfl⟩
  case nestMax o => dsimp only [exec, execNestMax, nestOp]; exact ⟨_, rfl⟩
  case nestAbs o => dsimp only [exec, execNestAbs, nestOp]; exact ⟨_, rfl⟩
  case nestNeg o => dsimp only [exec, execNestNeg, nestOp]; exact ⟨_, rfl⟩
  case nestScale o => dsimp only [exec, execNestScale, nestOp]; exact ⟨_, rfl⟩
  case nestRelu o => dsimp only [exec, execNestRelu, nestOp]; exact ⟨_, rfl⟩
  case nestExp2 o => dsimp only [exec, execNestExp2, nestOp]; exact ⟨_, rfl⟩
  case nestTanh o => dsimp only [exec, execNestTanh, nestOp]; exact ⟨_, rfl⟩
  case nestRcp o => dsimp only [exec, execNestRcp, nestOp]; exact ⟨_, rfl⟩
  case nestRsq o => dsimp only [exec, execNestRsq, nestOp]; exact ⟨_, rfl⟩
  case nestSum o => dsimp only [exec, execNestSum, nestOp]; exact ⟨_, rfl⟩
  case nestSumsq o => dsimp only [exec, execNestSumsq, nestOp]; exact ⟨_, rfl⟩
  case nestRmax o => dsimp only [exec, execNestRmax, nestOp]; exact ⟨_, rfl⟩
  case nestRmin o => dsimp only [exec, execNestRmin, nestOp]; exact ⟨_, rfl⟩
  case nestDot o => dsimp only [exec, execNestDot, nestOp]; exact ⟨_, rfl⟩
  case nestArgmax o => dsimp only [exec, execNestArgmax, nestOp]; exact ⟨_, rfl⟩
  case nestScan o => dsimp only [exec, execNestScan, nestOp]; exact ⟨_, rfl⟩
  all_goals (dsimp only [exec, execSeal, sealOp]; exact ⟨_, rfl⟩)

/-- An instruction that needs a matrix unit goes through `issue` on a core that has one, and is illegal on another. -/
theorem exec_issue_unit (i : Instr) (s : State) (hu : needsUnit i = true) :
    ∃ act, exec i s = .next (if !s.hasMatrix s.me.core then s.trap 1 0 0 else issue i.checks act s) := by
  cases i
  case mma | mmaJ | slateLd | slateSp | slateRel | epi | accRd | accWr | accZero | accZeroFree => exact ⟨_, rfl⟩
  all_goals cases hu

/-- Every instruction whose core has the unit it needs goes through `issue`. -/
theorem exec_issue_hasUnit (i : Instr) (s : State) (he : i.isEvent = false) (hu : s.hasUnit i = true) :
    ∃ act, exec i s = .next (issue i.checks act s) := by
  by_cases h : needsUnit i = true
  · obtain ⟨act, ha⟩ := exec_issue_unit i s h
    refine ⟨act, ?_⟩
    simp only [State.hasUnit, h, Bool.not_true, Bool.false_or] at hu
    rw [ha]
    simp [hu]
  · exact exec_issue i s he (by simpa using h)

/-! ### The scheduler (R67) -/

/-- Where nothing of a list changes the state, the list has no first change. -/
theorem firstChange_none (s : State) : ∀ l : List (State → State), (∀ f ∈ l, f s = s) → firstChange s l = none
  | [], _ => rfl
  | f :: l, h => by
    rw [firstChange, if_pos (h f (List.mem_cons_self ..)), firstChange_none s l (fun g hg => h g (List.mem_cons_of_mem _ hg))]

/-- A ready thread that is not being stepped takes its turn at once. -/
theorem State.takeTurn_ready (s : State) (ex : Instr → State → Out) (h : s.me.run = .ready) (h2 : s.me.stepping = false) : s.takeTurn ex = s.turn ex := by
  simp [State.takeTurn, h, h2]

end Sys2Proof.Machine
end
end

