-- ==== Sys2Proof/Laws/PerInstr.lean ====
section
/-! SUPPORT. R36, instruction by instruction: the length field of the encoded bits says how many syllables the instruction has. -/
noncomputable section
namespace Sys2Proof.Laws

open Sys2Proof.Machine

/-- R36: the length that bits [1:0] of the encoded bits name is the instruction's. -/
def Length.Statement (i : Instr) : Prop := ∀ n, encode i = some n → lenSyllables n = i.syllables

theorem lenSyllables_pack (len : Nat) (ws vs : List Nat) : lenSyllables (pack (2 :: ws) (len :: vs)) = lenSyllables len := by
  simp only [lenSyllables, pack]
  rw [show (len % 2 ^ 2 + 2 ^ 2 * pack ws vs) % 4 = len % 4 by omega]

theorem length_long {i : Instr} {op : Nat} {o : LOps} {m : Mod} (hf : i.form = some (.l op o m)) (hs : i.syllables = if o.lit.isSome then 3 else 2) :
    Length.Statement i := by
  intro n h
  rw [encode, hf] at h
  cases h
  cases l : o.lit with
  | none => rw [l] at hs; simp only [Form.bits, l]; exact (lenSyllables_pack ..).trans hs.symm
  | some v => rw [l] at hs; simp only [Form.bits, l]; exact (lenSyllables_pack ..).trans hs.symm
theorem length_short {i : Instr} {op : Nat} {o : SOps} (hf : i.form = some (.s op o)) (hs : i.syllables = 1) : Length.Statement i := by
  intro n h
  rw [encode, hf] at h
  rw [Option.map_some] at h
  rw [← Option.some.inj h, hs]
  simp only [Form.bits]
  exact lenSyllables_pack 0 _ _
theorem length_nest {i : Instr} {op : Nat} {o : NestOps} (hf : i.form = some (.n op o)) (hs : i.syllables = 8) : Length.Statement i := by
  intro n h
  rw [encode, hf] at h
  rw [Option.map_some] at h
  rw [← Option.some.inj h, hs]
  simp only [Form.bits]
  exact lenSyllables_pack 3 _ _
theorem length_event {i : Instr} (hf : i.form = none) : Length.Statement i := by
  intro n h
  rw [encode, hf] at h
  cases h

theorem Length.nop (o : LOps) (m : CtlMod) : Length.Statement (.nop o m) := length_long rfl rfl
theorem Length.bra (o : LOps) (m : CtlMod) : Length.Statement (.bra o m) := length_long rfl rfl
theorem Length.jmp (o : LOps) (m : CtlMod) : Length.Statement (.jmp o m) := length_long rfl rfl
theorem Length.call (o : LOps) (m : CtlMod) : Length.Statement (.call o m) := length_long rfl rfl
theorem Length.calli (o : LOps) (m : CtlMod) : Length.Statement (.calli o m) := length_long rfl rfl
theorem Length.ret (o : LOps) (m : CtlMod) : Length.Statement (.ret o m) := length_long rfl rfl
theorem Length.exit (o : LOps) (m : CtlMod) : Length.Statement (.exit o m) := length_long rfl rfl
theorem Length.yield (o : LOps) (m : CtlMod) : Length.Statement (.yield o m) := length_long rfl rfl
theorem Length.conv (o : LOps) (m : CtlMod) : Length.Statement (.conv o m) := length_long rfl rfl
theorem Length.barGrp (o : LOps) (m : CtlMod) : Length.Statement (.barGrp o m) := length_long rfl rfl
theorem Length.guardSet (o : LOps) (m : CtlMod) : Length.Statement (.guardSet o m) := length_long rfl rfl
theorem Length.guardClr (o : LOps) (m : CtlMod) : Length.Statement (.guardClr o m) := length_long rfl rfl
theorem Length.plog (o : LOps) (m : CtlMod) : Length.Statement (.plog o m) := length_long rfl rfl
theorem Length.pmovRd (o : LOps) (m : CtlMod) : Length.Statement (.pmovRd o m) := length_long rfl rfl
theorem Length.pmovWr (o : LOps) (m : CtlMod) : Length.Statement (.pmovWr o m) := length_long rfl rfl
theorem Length.sread (o : LOps) (m : CtlMod) : Length.Statement (.sread o m) := length_long rfl rfl
theorem Length.swrite (o : LOps) (m : CtlMod) : Length.Statement (.swrite o m) := length_long rfl rfl
theorem Length.brdec (o : LOps) (m : CtlMod) : Length.Statement (.brdec o m) := length_long rfl rfl
theorem Length.brv (o : LOps) (m : CtlMod) : Length.Statement (.brv o m) := length_long rfl rfl
theorem Length.nap (o : LOps) (m : CtlMod) : Length.Statement (.nap o m) := length_long rfl rfl
theorem Length.ipref (o : LOps) (m : CtlMod) : Length.Statement (.ipref o m) := length_long rfl rfl
theorem Length.feSet (o : LOps) (m : CtlMod) : Length.Statement (.feSet o m) := length_long rfl rfl
theorem Length.feTest (o : LOps) (m : CtlMod) : Length.Statement (.feTest o m) := length_long rfl rfl
theorem Length.add (o : LOps) (m : IntMod) : Length.Statement (.add o m) := length_long rfl rfl
theorem Length.sub (o : LOps) (m : IntMod) : Length.Statement (.sub o m) := length_long rfl rfl
theorem Length.addc (o : LOps) (m : IntMod) : Length.Statement (.addc o m) := length_long rfl rfl
theorem Length.subb (o : LOps) (m : IntMod) : Length.Statement (.subb o m) := length_long rfl rfl
theorem Length.mul (o : LOps) (m : IntMod) : Length.Statement (.mul o m) := length_long rfl rfl
theorem Length.mulh (o : LOps) (m : IntMod) : Length.Statement (.mulh o m) := length_long rfl rfl
theorem Length.mad (o : LOps) (m : IntMod) : Length.Statement (.mad o m) := length_long rfl rfl
theorem Length.div (o : LOps) (m : IntMod) : Length.Statement (.div o m) := length_long rfl rfl
theorem Length.rem (o : LOps) (m : IntMod) : Length.Statement (.rem o m) := length_long rfl rfl
theorem Length.min (o : LOps) (m : IntMod) : Length.Statement (.min o m) := length_long rfl rfl
theorem Length.max (o : LOps) (m : IntMod) : Length.Statement (.max o m) := length_long rfl rfl
theorem Length.abs (o : LOps) (m : IntMod) : Length.Statement (.abs o m) := length_long rfl rfl
theorem Length.neg (o : LOps) (m : IntMod) : Length.Statement (.neg o m) := length_long rfl rfl
theorem Length.and (o : LOps) (m : IntMod) : Length.Statement (.and o m) := length_long rfl rfl
theorem Length.or (o : LOps) (m : IntMod) : Length.Statement (.or o m) := length_long rfl rfl
theorem Length.xor (o : LOps) (m : IntMod) : Length.Statement (.xor o m) := length_long rfl rfl
theorem Length.andn (o : LOps) (m : IntMod) : Length.Statement (.andn o m) := length_long rfl rfl
theorem Length.shl (o : LOps) (m : IntMod) : Length.Statement (.shl o m) := length_long rfl rfl
theorem Length.shr (o : LOps) (m : IntMod) : Length.Statement (.shr o m) := length_long rfl rfl
theorem Length.sar (o : LOps) (m : IntMod) : Length.Statement (.sar o m) := length_long rfl rfl
theorem Length.rot (o : LOps) (m : IntMod) : Length.Statement (.rot o m) := length_long rfl rfl
theorem Length.bfx (o : LOps) (m : IntMod) : Length.Statement (.bfx o m) := length_long rfl rfl
theorem Length.bfi (o : LOps) (m : IntMod) : Length.Statement (.bfi o m) := length_long rfl rfl
theorem Length.popc (o : LOps) (m : IntMod) : Length.Statement (.popc o m) := length_long rfl rfl
theorem Length.clz (o : LOps) (m : IntMod) : Length.Statement (.clz o m) := length_long rfl rfl
theorem Length.brev (o : LOps) (m : IntMod) : Length.Statement (.brev o m) := length_long rfl rfl
theorem Length.cmp (o : LOps) (m : IntMod) : Length.Statement (.cmp o m) := length_long rfl rfl
theorem Length.sel (o : LOps) (m : IntMod) : Length.Statement (.sel o m) := length_long rfl rfl
theorem Length.mov (o : LOps) (m : IntMod) : Length.Statement (.mov o m) := length_long rfl rfl
theorem Length.lea (o : LOps) (m : IntMod) : Length.Statement (.lea o m) := length_long rfl rfl
theorem Length.fpAdd (o : LOps) (m : FpMod) : Length.Statement (.fpAdd o m) := length_long rfl rfl
theorem Length.fpSub (o : LOps) (m : FpMod) : Length.Statement (.fpSub o m) := length_long rfl rfl
theorem Length.fpMul (o : LOps) (m : FpMod) : Length.Statement (.fpMul o m) := length_long rfl rfl
theorem Length.fma (o : LOps) (m : FpMod) : Length.Statement (.fma o m) := length_long rfl rfl
theorem Length.fms (o : LOps) (m : FpMod) : Length.Statement (.fms o m) := length_long rfl rfl
theorem Length.fnma (o : LOps) (m : FpMod) : Length.Statement (.fnma o m) := length_long rfl rfl
theorem Length.fnms (o : LOps) (m : FpMod) : Length.Statement (.fnms o m) := length_long rfl rfl
theorem Length.fpDiv (o : LOps) (m : FpMod) : Length.Statement (.fpDiv o m) := length_long rfl rfl
theorem Length.sqrt (o : LOps) (m : FpMod) : Length.Statement (.sqrt o m) := length_long rfl rfl
theorem Length.fpMin (o : LOps) (m : FpMod) : Length.Statement (.fpMin o m) := length_long rfl rfl
theorem Length.fpMax (o : LOps) (m : FpMod) : Length.Statement (.fpMax o m) := length_long rfl rfl
theorem Length.fpAbs (o : LOps) (m : FpMod) : Length.Statement (.fpAbs o m) := length_long rfl rfl
theorem Length.fpNeg (o : LOps) (m : FpMod) : Length.Statement (.fpNeg o m) := length_long rfl rfl
theorem Length.cpysgn (o : LOps) (m : FpMod) : Length.Statement (.cpysgn o m) := length_long rfl rfl
theorem Length.fpCmp (o : LOps) (m : FpMod) : Length.Statement (.fpCmp o m) := length_long rfl rfl
theorem Length.fclass (o : LOps) (m : FpMod) : Length.Statement (.fclass o m) := length_long rfl rfl
theorem Length.rint (o : LOps) (m : FpMod) : Length.Statement (.rint o m) := length_long rfl rfl
theorem Length.scale (o : LOps) (m : FpMod) : Length.Statement (.scale o m) := length_long rfl rfl
theorem Length.getexp (o : LOps) (m : FpMod) : Length.Statement (.getexp o m) := length_long rfl rfl
theorem Length.cvt (o : LOps) (m : FpMod) : Length.Statement (.cvt o m) := length_long rfl rfl
theorem Length.cvti (o : LOps) (m : FpMod) : Length.Statement (.cvti o m) := length_long rfl rfl
theorem Length.cvtf (o : LOps) (m : FpMod) : Length.Statement (.cvtf o m) := length_long rfl rfl
theorem Length.padd (o : LOps) (m : FpMod) : Length.Statement (.padd o m) := length_long rfl rfl
theorem Length.pmul (o : LOps) (m : FpMod) : Length.Statement (.pmul o m) := length_long rfl rfl
theorem Length.pfma (o : LOps) (m : FpMod) : Length.Statement (.pfma o m) := length_long rfl rfl
theorem Length.pdot (o : LOps) (m : FpMod) : Length.Statement (.pdot o m) := length_long rfl rfl
theorem Length.pcvt (o : LOps) (m : FpMod) : Length.Statement (.pcvt o m) := length_long rfl rfl
theorem Length.pmax (o : LOps) (m : FpMod) : Length.Statement (.pmax o m) := length_long rfl rfl
theorem Length.shfl (o : LOps) (m : FpMod) : Length.Statement (.shfl o m) := length_long rfl rfl
theorem Length.bcast (o : LOps) (m : FpMod) : Length.Statement (.bcast o m) := length_long rfl rfl
theorem Length.vote (o : LOps) (m : FpMod) : Length.Statement (.vote o m) := length_long rfl rfl
theorem Length.laneRed (o : LOps) (m : FpMod) : Length.Statement (.laneRed o m) := length_long rfl rfl
theorem Length.laneScan (o : LOps) (m : FpMod) : Length.Statement (.laneScan o m) := length_long rfl rfl
theorem Length.laneChain (o : LOps) (m : FpMod) : Length.Statement (.laneChain o m) := length_long rfl rfl
theorem Length.matchAny (o : LOps) (m : FpMod) : Length.Statement (.matchAny o m) := length_long rfl rfl
theorem Length.rcp (o : LOps) (m : FpMod) : Length.Statement (.rcp o m) := length_long rfl rfl
theorem Length.rsq (o : LOps) (m : FpMod) : Length.Statement (.rsq o m) := length_long rfl rfl
theorem Length.exp2 (o : LOps) (m : FpMod) : Length.Statement (.exp2 o m) := length_long rfl rfl
theorem Length.log2 (o : LOps) (m : FpMod) : Length.Statement (.log2 o m) := length_long rfl rfl
theorem Length.sin (o : LOps) (m : FpMod) : Length.Statement (.sin o m) := length_long rfl rfl
theorem Length.cos (o : LOps) (m : FpMod) : Length.Statement (.cos o m) := length_long rfl rfl
theorem Length.tanh (o : LOps) (m : FpMod) : Length.Statement (.tanh o m) := length_long rfl rfl
theorem Length.ssync (o : LOps) (m : FpMod) : Length.Statement (.ssync o m) := length_long rfl rfl
theorem Length.ld (o : LOps) (m : MemMod) : Length.Statement (.ld o m) := length_long rfl rfl
theorem Length.ldSignExtend (o : LOps) (m : MemMod) : Length.Statement (.ldSignExtend o m) := length_long rfl rfl
theorem Length.st (o : LOps) (m : MemMod) : Length.Statement (.st o m) := length_long rfl rfl
theorem Length.ldu (o : LOps) (m : MemMod) : Length.Statement (.ldu o m) := length_long rfl rfl
theorem Length.stz (o : LOps) (m : MemMod) : Length.Statement (.stz o m) := length_long rfl rfl
theorem Length.stm (o : LOps) (m : MemMod) : Length.Statement (.stm o m) := length_long rfl rfl
theorem Length.pref (o : LOps) (m : MemMod) : Length.Statement (.pref o m) := length_long rfl rfl
theorem Length.prefCnt (o : LOps) (m : MemMod) : Length.Statement (.prefCnt o m) := length_long rfl rfl
theorem Length.cctl (o : LOps) (m : MemMod) : Length.Statement (.cctl o m) := length_long rfl rfl
theorem Length.cdisc (o : LOps) (m : MemMod) : Length.Statement (.cdisc o m) := length_long rfl rfl
theorem Length.salloc (o : LOps) (m : MemMod) : Length.Statement (.salloc o m) := length_long rfl rfl
theorem Length.sfree (o : LOps) (m : MemMod) : Length.Statement (.sfree o m) := length_long rfl rfl
theorem Length.probe (o : LOps) (m : MemMod) : Length.Statement (.probe o m) := length_long rfl rfl
theorem Length.atom (o : LOps) (m : SyncMod) : Length.Statement (.atom o m) := length_long rfl rfl
theorem Length.atomFloat (o : LOps) (m : SyncMod) : Length.Statement (.atomFloat o m) := length_long rfl rfl
theorem Length.atomCas (o : LOps) (m : SyncMod) : Length.Statement (.atomCas o m) := length_long rfl rfl
theorem Length.red (o : LOps) (m : SyncMod) : Length.Statement (.red o m) := length_long rfl rfl
theorem Length.redFloat (o : LOps) (m : SyncMod) : Length.Statement (.redFloat o m) := length_long rfl rfl
theorem Length.fence (o : LOps) (m : SyncMod) : Length.Statement (.fence o m) := length_long rfl rfl
theorem Length.waitVal (o : LOps) (m : SyncMod) : Length.Statement (.waitVal o m) := length_long rfl rfl
theorem Length.ldLink (o : LOps) (m : SyncMod) : Length.Statement (.ldLink o m) := length_long rfl rfl
theorem Length.stCond (o : LOps) (m : SyncMod) : Length.Statement (.stCond o m) := length_long rfl rfl
theorem Length.barInit (o : LOps) (m : SyncMod) : Length.Statement (.barInit o m) := length_long rfl rfl
theorem Length.barArrive (o : LOps) (m : SyncMod) : Length.Statement (.barArrive o m) := length_long rfl rfl
theorem Length.barWait (o : LOps) (m : SyncMod) : Length.Statement (.barWait o m) := length_long rfl rfl
theorem Length.barSync (o : LOps) (m : SyncMod) : Length.Statement (.barSync o m) := length_long rfl rfl
theorem Length.barTest (o : LOps) (m : SyncMod) : Length.Statement (.barTest o m) := length_long rfl rfl
theorem Length.barDrop (o : LOps) (m : SyncMod) : Length.Statement (.barDrop o m) := length_long rfl rfl
theorem Length.chkInjectEarly (o : LOps) (m : CtlMod) : Length.Statement (.chkInjectEarly o m) := length_long rfl rfl
theorem Length.chkInjectHash (o : LOps) (m : CtlMod) : Length.Statement (.chkInjectHash o m) := length_long rfl rfl
theorem Length.chkInjectSkip (o : LOps) (m : CtlMod) : Length.Statement (.chkInjectSkip o m) := length_long rfl rfl
theorem Length.chkInjectDup (o : LOps) (m : CtlMod) : Length.Statement (.chkInjectDup o m) := length_long rfl rfl
theorem Length.chkRead (o : LOps) (m : CtlMod) : Length.Statement (.chkRead o m) := length_long rfl rfl
theorem Length.chkSync (o : LOps) (m : CtlMod) : Length.Statement (.chkSync o m) := length_long rfl rfl
theorem Length.chkClear (o : LOps) (m : CtlMod) : Length.Statement (.chkClear o m) := length_long rfl rfl
theorem Length.chkSample (o : LOps) (m : CtlMod) : Length.Statement (.chkSample o m) := length_long rfl rfl
theorem Length.mma (o : LOps) (m : EngMod) : Length.Statement (.mma o m) := length_long rfl rfl
theorem Length.mmaJ (o : LOps) (m : EngMod) : Length.Statement (.mmaJ o m) := length_long rfl rfl
theorem Length.mmaF64 (o : LOps) (m : EngMod) : Length.Statement (.mmaF64 o m) := length_long rfl rfl
theorem Length.slateLd (o : LOps) (m : EngMod) : Length.Statement (.slateLd o m) := length_long rfl rfl
theorem Length.slateSp (o : LOps) (m : EngMod) : Length.Statement (.slateSp o m) := length_long rfl rfl
theorem Length.slateRel (o : LOps) (m : EngMod) : Length.Statement (.slateRel o m) := length_long rfl rfl
theorem Length.epi (o : LOps) (m : EngMod) : Length.Statement (.epi o m) := length_long rfl rfl
theorem Length.accRd (o : LOps) (m : EngMod) : Length.Statement (.accRd o m) := length_long rfl rfl
theorem Length.accWr (o : LOps) (m : EngMod) : Length.Statement (.accWr o m) := length_long rfl rfl
theorem Length.accZero (o : LOps) (m : EngMod) : Length.Statement (.accZero o m) := length_long rfl rfl
theorem Length.accZeroFree (o : LOps) (m : EngMod) : Length.Statement (.accZeroFree o m) := length_long rfl rfl
theorem Length.mstat (o : LOps) (m : EngMod) : Length.Statement (.mstat o m) := length_long rfl rfl
theorem Length.mstatNow (o : LOps) (m : EngMod) : Length.Statement (.mstatNow o m) := length_long rfl rfl
theorem Length.mreset (o : LOps) (m : EngMod) : Length.Statement (.mreset o m) := length_long rfl rfl
theorem Length.tcopy (o : LOps) (m : EngMod) : Length.Statement (.tcopy o m) := length_long rfl rfl
theorem Length.tstore (o : LOps) (m : EngMod) : Length.Statement (.tstore o m) := length_long rfl rfl
theorem Length.twait (o : LOps) (m : EngMod) : Length.Statement (.twait o m) := length_long rfl rfl
theorem Length.tstate (o : LOps) (m : EngMod) : Length.Statement (.tstate o m) := length_long rfl rfl
theorem Length.tdef (o : LOps) (m : EngMod) : Length.Statement (.tdef o m) := length_long rfl rfl
theorem Length.tfree (o : LOps) (m : EngMod) : Length.Statement (.tfree o m) := length_long rfl rfl
theorem Length.tfill (o : LOps) (m : EngMod) : Length.Statement (.tfill o m) := length_long rfl rfl
theorem Length.tmov (o : LOps) (m : EngMod) : Length.Statement (.tmov o m) := length_long rfl rfl
theorem Length.tcancel (o : LOps) (m : EngMod) : Length.Statement (.tcancel o m) := length_long rfl rfl
theorem Length.emit (o : LOps) (m : CtlMod) : Length.Statement (.emit o m) := length_long rfl rfl
theorem Length.emitTry (o : LOps) (m : CtlMod) : Length.Statement (.emitTry o m) := length_long rfl rfl
theorem Length.launchJob (o : LOps) (m : CtlMod) : Length.Statement (.launchJob o m) := length_long rfl rfl
theorem Length.cancel (o : LOps) (m : CtlMod) : Length.Statement (.cancel o m) := length_long rfl rfl
theorem Length.quiesce (o : LOps) (m : CtlMod) : Length.Statement (.quiesce o m) := length_long rfl rfl
theorem Length.resume (o : LOps) (m : CtlMod) : Length.Statement (.resume o m) := length_long rfl rfl
theorem Length.nodeCtlOff (o : LOps) (m : CtlMod) : Length.Statement (.nodeCtlOff o m) := length_long rfl rfl
theorem Length.nodeCtlOn (o : LOps) (m : CtlMod) : Length.Statement (.nodeCtlOn o m) := length_long rfl rfl
theorem Length.nodeCtlFlush (o : LOps) (m : CtlMod) : Length.Statement (.nodeCtlFlush o m) := length_long rfl rfl
theorem Length.regionNew (o : LOps) (m : CtlMod) : Length.Statement (.regionNew o m) := length_long rfl rfl
theorem Length.regionFree (o : LOps) (m : CtlMod) : Length.Statement (.regionFree o m) := length_long rfl rfl
theorem Length.qstat (o : LOps) (m : CtlMod) : Length.Statement (.qstat o m) := length_long rfl rfl
theorem Length.pclNew (o : LOps) (m : SyncMod) : Length.Statement (.pclNew o m) := length_long rfl rfl
theorem Length.pclFree (o : LOps) (m : SyncMod) : Length.Statement (.pclFree o m) := length_long rfl rfl
theorem Length.seal (o : LOps) (m : SyncMod) : Length.Statement (.seal o m) := length_long rfl rfl
theorem Length.post (o : LOps) (m : SyncMod) : Length.Statement (.post o m) := length_long rfl rfl
theorem Length.postNb (o : LOps) (m : SyncMod) : Length.Statement (.postNb o m) := length_long rfl rfl
theorem Length.accept (o : LOps) (m : SyncMod) : Length.Statement (.accept o m) := length_long rfl rfl
theorem Length.acceptTry (o : LOps) (m : SyncMod) : Length.Statement (.acceptTry o m) := length_long rfl rfl
theorem Length.acceptBack (o : LOps) (m : SyncMod) : Length.Statement (.acceptBack o m) := length_long rfl rfl
theorem Length.pclStat (o : LOps) (m : SyncMod) : Length.Statement (.pclStat o m) := length_long rfl rfl
theorem Length.rmaReg (o : LOps) (m : SyncMod) : Length.Statement (.rmaReg o m) := length_long rfl rfl
theorem Length.rmaDereg (o : LOps) (m : SyncMod) : Length.Statement (.rmaDereg o m) := length_long rfl rfl
theorem Length.rmaWr (o : LOps) (m : SyncMod) : Length.Statement (.rmaWr o m) := length_long rfl rfl
theorem Length.rmaWri (o : LOps) (m : SyncMod) : Length.Statement (.rmaWri o m) := length_long rfl rfl
theorem Length.rmaRd (o : LOps) (m : SyncMod) : Length.Statement (.rmaRd o m) := length_long rfl rfl
theorem Length.rmaRdBlk (o : LOps) (m : SyncMod) : Length.Statement (.rmaRdBlk o m) := length_long rfl rfl
theorem Length.rmaAtom (o : LOps) (m : SyncMod) : Length.Statement (.rmaAtom o m) := length_long rfl rfl
theorem Length.noteWait (o : LOps) (m : SyncMod) : Length.Statement (.noteWait o m) := length_long rfl rfl
theorem Length.noteTry (o : LOps) (m : SyncMod) : Length.Statement (.noteTry o m) := length_long rfl rfl
theorem Length.stPref (o : LOps) (m : MemMod) : Length.Statement (.stPref o m) := length_long rfl rfl
theorem Length.ldPref (o : LOps) (m : MemMod) : Length.Statement (.ldPref o m) := length_long rfl rfl
theorem Length.coll (o : LOps) (m : SyncMod) : Length.Statement (.coll o m) := length_long rfl rfl
theorem Length.collWait (o : LOps) (m : SyncMod) : Length.Statement (.collWait o m) := length_long rfl rfl
theorem Length.timeRd (o : LOps) (m : SyncMod) : Length.Statement (.timeRd o m) := length_long rfl rfl
theorem Length.trigAt (o : LOps) (m : SyncMod) : Length.Statement (.trigAt o m) := length_long rfl rfl
theorem Length.waitUntil (o : LOps) (m : SyncMod) : Length.Statement (.waitUntil o m) := length_long rfl rfl
theorem Length.hops (o : LOps) (m : SyncMod) : Length.Statement (.hops o m) := length_long rfl rfl
theorem Length.trap (o : LOps) (m : CtlMod) : Length.Statement (.trap o m) := length_long rfl rfl
theorem Length.trapRet (o : LOps) (m : CtlMod) : Length.Statement (.trapRet o m) := length_long rfl rfl
theorem Length.preemptDone (o : LOps) (m : CtlMod) : Length.Statement (.preemptDone o m) := length_long rfl rfl
theorem Length.dbgBrk (o : LOps) (m : CtlMod) : Length.Statement (.dbgBrk o m) := length_long rfl rfl
theorem Length.invRange (o : LOps) (m : CtlMod) : Length.Statement (.invRange o m) := length_long rfl rfl
theorem Length.invAsid (o : LOps) (m : CtlMod) : Length.Statement (.invAsid o m) := length_long rfl rfl
theorem Length.ctxSave (o : LOps) (m : CtlMod) : Length.Statement (.ctxSave o m) := length_long rfl rfl
theorem Length.ctxSaveNow (o : LOps) (m : CtlMod) : Length.Statement (.ctxSaveNow o m) := length_long rfl rfl
theorem Length.ctxLoad (o : LOps) (m : CtlMod) : Length.Statement (.ctxLoad o m) := length_long rfl rfl
theorem Length.dbgHalt (o : LOps) (m : CtlMod) : Length.Statement (.dbgHalt o m) := length_long rfl rfl
theorem Length.dbgHaltArm (o : LOps) (m : CtlMod) : Length.Statement (.dbgHaltArm o m) := length_long rfl rfl
theorem Length.dbgHaltDisarm (o : LOps) (m : CtlMod) : Length.Statement (.dbgHaltDisarm o m) := length_long rfl rfl
theorem Length.dbgHaltQry (o : LOps) (m : CtlMod) : Length.Statement (.dbgHaltQry o m) := length_long rfl rfl
theorem Length.dbgStep (o : LOps) (m : CtlMod) : Length.Statement (.dbgStep o m) := length_long rfl rfl
theorem Length.dbgResume (o : LOps) (m : CtlMod) : Length.Statement (.dbgResume o m) := length_long rfl rfl
theorem Length.vdtLd (o : LOps) (m : CtlMod) : Length.Statement (.vdtLd o m) := length_long rfl rfl
theorem Length.envRd (o : LOps) (m : CtlMod) : Length.Statement (.envRd o m) := length_long rfl rfl
theorem Length.logRd (o : LOps) (m : CtlMod) : Length.Statement (.logRd o m) := length_long rfl rfl
theorem Length.mchkRd (o : LOps) (m : CtlMod) : Length.Statement (.mchkRd o m) := length_long rfl rfl
theorem Length.sysIdle (o : LOps) (m : CtlMod) : Length.Statement (.sysIdle o m) := length_long rfl rfl
theorem Length.nopS32 (o : SOps) : Length.Statement (.nopS32 o) := length_short rfl rfl
theorem Length.exitS32 (o : SOps) : Length.Statement (.exitS32 o) := length_short rfl rfl
theorem Length.yieldS32 (o : SOps) : Length.Statement (.yieldS32 o) := length_short rfl rfl
theorem Length.convS32 (o : SOps) : Length.Statement (.convS32 o) := length_short rfl rfl
theorem Length.retS32 (o : SOps) : Length.Statement (.retS32 o) := length_short rfl rfl
theorem Length.barGrpS32 (o : SOps) : Length.Statement (.barGrpS32 o) := length_short rfl rfl
theorem Length.guardSetS32 (o : SOps) : Length.Statement (.guardSetS32 o) := length_short rfl rfl
theorem Length.guardClrS32 (o : SOps) : Length.Statement (.guardClrS32 o) := length_short rfl rfl
theorem Length.plogAndS32 (o : SOps) : Length.Statement (.plogAndS32 o) := length_short rfl rfl
theorem Length.plogOrS32 (o : SOps) : Length.Statement (.plogOrS32 o) := length_short rfl rfl
theorem Length.plogXorS32 (o : SOps) : Length.Statement (.plogXorS32 o) := length_short rfl rfl
theorem Length.plogAndnS32 (o : SOps) : Length.Statement (.plogAndnS32 o) := length_short rfl rfl
theorem Length.twaitS32 (o : SOps) : Length.Statement (.twaitS32 o) := length_short rfl rfl
theorem Length.tstateS32 (o : SOps) : Length.Statement (.tstateS32 o) := length_short rfl rfl
theorem Length.dbgBrkS32 (o : SOps) : Length.Statement (.dbgBrkS32 o) := length_short rfl rfl
theorem Length.ssyncS32 (o : SOps) : Length.Statement (.ssyncS32 o) := length_short rfl rfl
theorem Length.addI32S32 (o : SOps) : Length.Statement (.addI32S32 o) := length_short rfl rfl
theorem Length.subI32S32 (o : SOps) : Length.Statement (.subI32S32 o) := length_short rfl rfl
theorem Length.mulI32S32 (o : SOps) : Length.Statement (.mulI32S32 o) := length_short rfl rfl
theorem Length.andN32S32 (o : SOps) : Length.Statement (.andN32S32 o) := length_short rfl rfl
theorem Length.orN32S32 (o : SOps) : Length.Statement (.orN32S32 o) := length_short rfl rfl
theorem Length.xorN32S32 (o : SOps) : Length.Statement (.xorN32S32 o) := length_short rfl rfl
theorem Length.shlN32S32 (o : SOps) : Length.Statement (.shlN32S32 o) := length_short rfl rfl
theorem Length.shrN32S32 (o : SOps) : Length.Statement (.shrN32S32 o) := length_short rfl rfl
theorem Length.sarI32S32 (o : SOps) : Length.Statement (.sarI32S32 o) := length_short rfl rfl
theorem Length.minI32S32 (o : SOps) : Length.Statement (.minI32S32 o) := length_short rfl rfl
theorem Length.maxI32S32 (o : SOps) : Length.Statement (.maxI32S32 o) := length_short rfl rfl
theorem Length.minN32S32 (o : SOps) : Length.Statement (.minN32S32 o) := length_short rfl rfl
theorem Length.maxN32S32 (o : SOps) : Length.Statement (.maxN32S32 o) := length_short rfl rfl
theorem Length.movN32S32 (o : SOps) : Length.Statement (.movN32S32 o) := length_short rfl rfl
theorem Length.cmpI32S32 (o : SOps) : Length.Statement (.cmpI32S32 o) := length_short rfl rfl
theorem Length.cmpN32S32 (o : SOps) : Length.Statement (.cmpN32S32 o) := length_short rfl rfl
theorem Length.addF32S32 (o : SOps) : Length.Statement (.addF32S32 o) := length_short rfl rfl
theorem Length.subF32S32 (o : SOps) : Length.Statement (.subF32S32 o) := length_short rfl rfl
theorem Length.mulF32S32 (o : SOps) : Length.Statement (.mulF32S32 o) := length_short rfl rfl
theorem Length.minF32S32 (o : SOps) : Length.Statement (.minF32S32 o) := length_short rfl rfl
theorem Length.maxF32S32 (o : SOps) : Length.Statement (.maxF32S32 o) := length_short rfl rfl
theorem Length.cmpF32S32 (o : SOps) : Length.Statement (.cmpF32S32 o) := length_short rfl rfl
theorem Length.addF64S32 (o : SOps) : Length.Statement (.addF64S32 o) := length_short rfl rfl
theorem Length.subF64S32 (o : SOps) : Length.Statement (.subF64S32 o) := length_short rfl rfl
theorem Length.mulF64S32 (o : SOps) : Length.Statement (.mulF64S32 o) := length_short rfl rfl
theorem Length.rcpF32S32 (o : SOps) : Length.Statement (.rcpF32S32 o) := length_short rfl rfl
theorem Length.rsqF32S32 (o : SOps) : Length.Statement (.rsqF32S32 o) := length_short rfl rfl
theorem Length.exp2F32S32 (o : SOps) : Length.Statement (.exp2F32S32 o) := length_short rfl rfl
theorem Length.log2F32S32 (o : SOps) : Length.Statement (.log2F32S32 o) := length_short rfl rfl
theorem Length.nestCopy (o : NestOps) : Length.Statement (.nestCopy o) := length_nest rfl rfl
theorem Length.nestFill (o : NestOps) : Length.Statement (.nestFill o) := length_nest rfl rfl
theorem Length.nestCvt (o : NestOps) : Length.Statement (.nestCvt o) := length_nest rfl rfl
theorem Length.nestAdd (o : NestOps) : Length.Statement (.nestAdd o) := length_nest rfl rfl
theorem Length.nestSub (o : NestOps) : Length.Statement (.nestSub o) := length_nest rfl rfl
theorem Length.nestMul (o : NestOps) : Length.Statement (.nestMul o) := length_nest rfl rfl
theorem Length.nestFma (o : NestOps) : Length.Statement (.nestFma o) := length_nest rfl rfl
theorem Length.nestMin (o : NestOps) : Length.Statement (.nestMin o) := length_nest rfl rfl
theorem Length.nestMax (o : NestOps) : Length.Statement (.nestMax o) := length_nest rfl rfl
theorem Length.nestAbs (o : NestOps) : Length.Statement (.nestAbs o) := length_nest rfl rfl
theorem Length.nestNeg (o : NestOps) : Length.Statement (.nestNeg o) := length_nest rfl rfl
theorem Length.nestScale (o : NestOps) : Length.Statement (.nestScale o) := length_nest rfl rfl
theorem Length.nestRelu (o : NestOps) : Length.Statement (.nestRelu o) := length_nest rfl rfl
theorem Length.nestExp2 (o : NestOps) : Length.Statement (.nestExp2 o) := length_nest rfl rfl
theorem Length.nestTanh (o : NestOps) : Length.Statement (.nestTanh o) := length_nest rfl rfl
theorem Length.nestRcp (o : NestOps) : Length.Statement (.nestRcp o) := length_nest rfl rfl
theorem Length.nestRsq (o : NestOps) : Length.Statement (.nestRsq o) := length_nest rfl rfl
theorem Length.nestSum (o : NestOps) : Length.Statement (.nestSum o) := length_nest rfl rfl
theorem Length.nestSumsq (o : NestOps) : Length.Statement (.nestSumsq o) := length_nest rfl rfl
theorem Length.nestRmax (o : NestOps) : Length.Statement (.nestRmax o) := length_nest rfl rfl
theorem Length.nestRmin (o : NestOps) : Length.Statement (.nestRmin o) := length_nest rfl rfl
theorem Length.nestDot (o : NestOps) : Length.Statement (.nestDot o) := length_nest rfl rfl
theorem Length.nestArgmax (o : NestOps) : Length.Statement (.nestArgmax o) := length_nest rfl rfl
theorem Length.nestScan (o : NestOps) : Length.Statement (.nestScan o) := length_nest rfl rfl
theorem Length.instructionLineFill (uid : Nat) (va : Dword) : Length.Statement (.instructionLineFill uid va) := length_event rfl
theorem Length.longLatencyArrival (uid k : Nat) : Length.Statement (.longLatencyArrival uid k) := length_event rfl
theorem Length.napExpiry (uid : Nat) : Length.Statement (.napExpiry uid) := length_event rfl
theorem Length.watchdogExpiry (uid : Nat) : Length.Statement (.watchdogExpiry uid) := length_event rfl
theorem Length.handlerTimeLimit (uid : Nat) : Length.Statement (.handlerTimeLimit uid) := length_event rfl
theorem Length.pageRequestResponse (k : Nat) (ok : Bool) : Length.Statement (.pageRequestResponse k ok) := length_event rfl
theorem Length.releaseConfirm (k : Nat) : Length.Statement (.releaseConfirm k) := length_event rfl
theorem Length.handoverRecord (k : Nat) : Length.Statement (.handoverRecord k) := length_event rfl
theorem Length.hostRead (src : HostSource) : Length.Statement (.hostRead src) := length_event rfl
theorem Length.hostWrite (pa : Nat) (bytes : List Byte) : Length.Statement (.hostWrite pa bytes) := length_event rfl
theorem Length.atsInvalidationRequest (pasid : BitVec 20) (base len : Nat) : Length.Statement (.atsInvalidationRequest pasid base len) := length_event rfl
theorem Length.streamInstructionComplete (core : Nat) : Length.Statement (.streamInstructionComplete core) := length_event rfl
theorem Length.copyCommandStart (core : Nat) : Length.Statement (.copyCommandStart core) := length_event rfl
theorem Length.copyCommandComplete (core k : Nat) : Length.Statement (.copyCommandComplete core k) := length_event rfl
theorem Length.matrixCommandExecute (core : Nat) : Length.Statement (.matrixCommandExecute core) := length_event rfl
theorem Length.gangPlacement (die : Nat) (place : List Place) : Length.Statement (.gangPlacement die place) := length_event rfl
theorem Length.gangEnd (gang : Nat) : Length.Statement (.gangEnd gang) := length_event rfl
theorem Length.batchTimerSeal (k : Nat) : Length.Statement (.batchTimerSeal k) := length_event rfl
theorem Length.dealChunk (card : Nat) : Length.Statement (.dealChunk card) := length_event rfl
theorem Length.cancelGraceExpiry (region : Nat) : Length.Statement (.cancelGraceExpiry region) := length_event rfl
theorem Length.jokebryPreemptRequest (vif : Nat) : Length.Statement (.jokebryPreemptRequest vif) := length_event rfl
theorem Length.preemptionTrap (uid : Nat) : Length.Statement (.preemptionTrap uid) := length_event rfl
theorem Length.lightSave (gang : Nat) : Length.Statement (.lightSave gang) := length_event rfl
theorem Length.preemptionGraceExpiry (gang : Nat) : Length.Statement (.preemptionGraceExpiry gang) := length_event rfl
theorem Length.savedGangResume (gang : Nat) (place : List Place) : Length.Statement (.savedGangResume gang place) := length_event rfl
theorem Length.parcelArrival (p : ParcelImage) : Length.Statement (.parcelArrival p) := length_event rfl
theorem Length.deliveryConfirmed (num : Nat) : Length.Statement (.deliveryConfirmed num) := length_event rfl
theorem Length.deliveryFailed (num : Nat) (status : Word) : Length.Statement (.deliveryFailed num status) := length_event rfl
theorem Length.remoteOperationArrival (op : RemoteOp) : Length.Statement (.remoteOperationArrival op) := length_event rfl
theorem Length.rmaCompletion (k : Nat) (status : Word) (data : List Byte) : Length.Statement (.rmaCompletion k status data) := length_event rfl
theorem Length.collectiveRoundComplete (k : Nat) (status : Word) (sends : List (List Byte)) : Length.Statement (.collectiveRoundComplete k status sends) := length_event rfl
theorem Length.collectiveTimeout (k : Nat) : Length.Statement (.collectiveTimeout k) := length_event rfl
theorem Length.flitReceive (port : Nat) (crcOk : Bool) : Length.Statement (.flitReceive port crcOk) := length_event rfl
theorem Length.linkIdleTimeout (port : Nat) : Length.Statement (.linkIdleTimeout port) := length_event rfl
theorem Length.linkStateUpdate (u : LinkUpdate) : Length.Statement (.linkStateUpdate u) := length_event rfl
theorem Length.drainRoundEnd (k : Nat) : Length.Statement (.drainRoundEnd k) := length_event rfl
theorem Length.linkStateEvent (k : Nat) : Length.Statement (.linkStateEvent k) := length_event rfl
theorem Length.linkRetrain (port : Nat) (ok : Bool) : Length.Statement (.linkRetrain port ok) := length_event rfl
theorem Length.triggerTick (core : Nat) : Length.Statement (.triggerTick core) := length_event rfl
theorem Length.waitUntilReached (uid : Nat) : Length.Statement (.waitUntilReached uid) := length_event rfl
theorem Length.waitValTimeout (uid : Nat) : Length.Statement (.waitValTimeout uid) := length_event rfl
theorem Length.doorbellRing (vif : Nat) (bell : BitVec 5) : Length.Statement (.doorbellRing vif bell) := length_event rfl
theorem Length.sysIdleTimeLimit (uid : Nat) : Length.Statement (.sysIdleTimeLimit uid) := length_event rfl
theorem Length.auditReplayComplete (die : Nat) (replay : Replay) : Length.Statement (.auditReplayComplete die replay) := length_event rfl
theorem Length.scrubPass (die : Nat) : Length.Statement (.scrubPass die) := length_event rfl
theorem Length.thermalCritical : Length.Statement (.thermalCritical) := length_event rfl
theorem Length.envelopeWrite (reg : EnvReg) (value : Nat) : Length.Statement (.envelopeWrite reg value) := length_event rfl
theorem Length.firmwareUpdate (die : Nat) (verified : Bool) (version : Word) : Length.Statement (.firmwareUpdate die verified version) := length_event rfl
theorem Length.dieBoot (die : Nat) (verified : Bool) (version : Word) : Length.Statement (.dieBoot die verified version) := length_event rfl
theorem Length.attestationRequest (die : Nat) (nonce : List Byte) : Length.Statement (.attestationRequest die nonce) := length_event rfl
theorem Length.rootRcbCreation (vif : Nat) (image : List Byte) : Length.Statement (.rootRcbCreation vif image) := length_event rfl
theorem Length.jokebryRegisterWrite (vif : Nat) (reg : Nat) (value : Nat) : Length.Statement (.jokebryRegisterWrite vif reg value) := length_event rfl
theorem Length.storePerforms (k : Nat) : Length.Statement (.storePerforms k) := length_event rfl
theorem Length.cxlCacheSnoop (pa : Nat) (invalidate : Bool) : Length.Statement (.cxlCacheSnoop pa invalidate) := length_event rfl
theorem Length.softError (at_ : Struck) (correctable : Bool) : Length.Statement (.softError at_ correctable) := length_event rfl
theorem Length.powerRemoval : Length.Statement (.powerRemoval) := length_event rfl
theorem Length.hostAttachment (die : Nat) (mbase : Dword) (heap save : Nat) : Length.Statement (.hostAttachment die mbase heap save) := length_event rfl
theorem Length.cxlPortDown (die : Nat) : Length.Statement (.cxlPortDown die) := length_event rfl

end Sys2Proof.Laws
end
end

