-- ==== Sys2Proof/Tests/Slice0.lean ====
section
/-! SUPPORT. The model's own tests: ill-formed instructions that `wf` refuses, words written out from the spec's encodings, single steps, and for each
obligation with hypotheses a state and operands that meet them. -/
noncomputable section
set_option Elab.async false
namespace Sys2Proof.Tests

open Sys2Proof Sys2Proof.Machine

/-! ### A small module: one die, one core of class A, one system region, one gang, one group of one thread -/

/-- A line of S32 `NOP` in which every syllable but the last is marked as a target, with the parities of R35. -/
def nopLine : BitVec 512 := BitVec.ofNat 512 (0x80007FFF * 2 ^ 480)
/-- The line that holds address 0x1000 in the instruction cache, and one page of 1 GiB that maps addresses to themselves. -/
def demoCore : Core :=
  { Core.unbooted 0 with cls := some .a, icache := [(64, nopLine)], tlb := [{ asid := 1, va := 0, log := 30, pa := 0, w := true, u := true, x := true, db := true }] }
def demoThread : Thread :=
  { Thread.vacant with uid := 1, gang := 1, budget := 256, pc := 0x1000, asid := 1, ptel := bareLayout, run := .ready, trapf := 0x2000, privSize := 256 }
def demo : State :=
  { State.reset with
    me := demoThread, gangs := [bareGang 1 1], groups := [{ bareGroup 1 with width := 1 }], regions := [{ bareRegion 1 0x10000 with handler := 0x1000 }],
    dies := [{ Die.unbooted 0 with enabled := true }], cores := [demoCore],
    pads := [{ gang := 1, core := 0, size := 1024, dynBase := 512, dynPtr := 512, bytes := [] }], attached := [0], fresh := 10 }
/-- The demo with words in registers. -/
def demoWith (l : List (Reg × Word)) : State := demo.upd (fun t => l.foldl (fun t x => t.wr x.1 x.2) t)
/-- The demo in a region that is no system region. -/
def demoUser : State := { demo with regions := [{ bareRegion 1 0x10000 with handler := 0x1000, sys := false }] }

/-- The demo with a second thread in its group, that has not arrived anywhere. -/
def demoTwo : State :=
  { demo with
    others := [{ demoThread with uid := 2, member := 1, lane := 1 }],
    groups := [{ bareGroup 1 with width := 2, started := 3 }] }

/-- What an execution answers, as a check of its next state. -/
def nextHas (x : Out) (p : State → Bool) : Bool := match x with | .next t => p t | _ => false
/-- The result of an access that found its place. -/
def found {ε : Type} (x : Except ε (Spot × State)) (p : Spot → Bool) : Bool := match x with | .ok (q, _) => p q | .error _ => false

def P (d a b c : Reg) : LOps := Claims.plain d a b c
def S (d a b : BitVec 6) : SOps := { g := ⟨0, false⟩, fa := false, fb := false, d := d, a := a, b := b }
def ctl (sub : BitVec 4) (sel : BitVec 8) : CtlMod := { sub := sub, sel := sel }
def int (ty : IType) : IntMod := IntMod.s ty
def fp (ty : Fmt) : FpMod := FpMod.s ty
def mem (sp : Space) (size : BitVec 3) : MemMod := { space := sp, size := size, evict := 0, scope := .th, ord := .rlx }
def syn (sub : BitVec 4) (sp : Space) (ty : DType) (scope : Scope) (ord : Ord) : SyncMod := { sub := sub, space := sp, ty := ty, scope := scope, ord := ord }
def eng (sub : BitVec 2) (ty : Fmt) : EngMod := { sub := sub, scope := .th, ty := ty, gs := none }

/-- An access of the demo's thread, and a release that is held. -/
def pending (kind : OpKind) (sp : OpSpace) (segs : List (Nat × Nat)) (data : List (Option Byte)) (scope : Scope) (tag : Option Nat) : MemOp :=
  { id := 3, uid := 1, core := 0, part := 0, pc := 0x1000, psn := 0, kind := kind, space := sp, segs := segs, data := data, scope := scope, ord := .rlx, evict := 0, tag := tag }
def holdBy (o : MemOp) : Hold := { op := o, old := [], marks := [], interval := 0, early := false, since := 0 }

/-! ### Ill-formed instructions, one for each check of R60 -/

theorem test_wf_accepts : Instr.wf (.add (P 3 1 2 0) (int .i32)) = true := by decide +kernel
theorem test_wf_form_l64 : Instr.wf (.bra (P 0 0 0 0) (ctl 0 0)) = false := by decide +kernel
theorem test_wf_form_w96 : Instr.wf (.ret { P 0 0 0 0 with lit := some 1 } (ctl 0 0)) = false := by decide +kernel
theorem test_wf_unused_field : Instr.wf (.add (P 3 1 2 9) (int .i32)) = false := by decide +kernel
theorem test_wf_literal_and_register : Instr.wf (.add { P 3 1 2 0 with lit := some 5 } (int .i32)) = false := by decide +kernel
theorem test_wf_fe_of_unused : Instr.wf (.abs { P 3 1 0 0 with fb := true } (int .i32)) = false := by decide +kernel
theorem test_wf_odd_destination_pair : Instr.wf (.add (P 3 6 8 0) (int .i64)) = false := by decide +kernel
theorem test_wf_odd_source_pair : Instr.wf (.add (P 4 7 8 0) (int .i64)) = false := by decide +kernel
theorem test_wf_low_field : Instr.wf (.plog (P 8 0 0 0) (ctl 0 0)) = false := by decide +kernel
theorem test_wf_optional_pair : Instr.wf (.lea { P 4 0 6 0 with fa := true } (int .i32)) = false := by decide +kernel
theorem test_wf_modifier_type : Instr.wf (.abs (P 3 1 0 0) (int .n32)) = false := by decide +kernel
theorem test_wf_modifier_saturation : Instr.wf (.rem (P 3 1 2 0) { int .i32 with sat := true }) = false := by decide +kernel
theorem test_wf_modifier_sub : Instr.wf (.plog (P 1 0 0 0) (ctl 4 0)) = false := by decide +kernel
theorem test_wf_carry_p0 : Instr.wf (.addc (P 3 1 2 0) (int .n32)) = false := by decide +kernel
theorem test_wf_special_register : Instr.wf (.sread (P 3 0 0 0) (ctl 0 0x14)) = false := by decide +kernel
theorem test_wf_read_only_register : Instr.wf (.swrite (P 0 3 0 0) (ctl 0 0x00)) = false := by decide +kernel
theorem test_wf_brdec_counter : Instr.wf (.brdec { P 3 4 0 0 with lit := some 0 } (ctl 0 0)) = false := by decide +kernel
theorem test_wf_float_type : Instr.wf (.fpAdd (P 3 1 2 0) (fp .i32)) = false := by decide +kernel
theorem test_wf_size : Instr.wf (.ld (P 4 6 0 0) (mem .glb 7)) = false := by decide +kernel
theorem test_wf_load_order : Instr.wf (.ld (P 4 6 0 0) { mem .glb 2 with ord := .rel }) = false := by decide +kernel
theorem test_wf_scale_field : Instr.wf (.mma (P 0 1 0 5) (eng 0 .f64)) = false := by decide +kernel
theorem test_wf_short_form : Instr.wf (.addI32S32 { g := ⟨0, false⟩, fa := false, fb := false, d := 3, a := 1, b := 2 }) = true := by decide +kernel

/-- A loop nest of one level: 64 elements of F32 from g4.d to g2.d, four elements apart. -/
def nest1 : NestOps :=
  { g := ⟨0, false⟩, ty := .f32, rnd := .rn, db := 1, ab := 2, bb := 0, gs := none, nlev := 1, ext := 63,
    str := BitVec.ofNat 150 (4 + 4 * 2 ^ 50), ssh := 0 }
theorem test_wf_nest : Instr.wf (.nestCopy nest1) = true := by decide +kernel
theorem test_wf_nest_type : Instr.wf (.nestRelu { nest1 with ty := .i32 }) = false := by decide +kernel
theorem test_wf_nest_unused_base : Instr.wf (.nestCopy { nest1 with bb := 3 }) = false := by decide +kernel
theorem test_wf_nest_levels : Instr.wf (.nestCopy { nest1 with nlev := 6 }) = false := by decide +kernel
theorem test_wf_nest_extent : Instr.wf (.nestCopy { nest1 with ext := 63 + 2 ^ 10 }) = false := by decide +kernel
theorem test_wf_nest_stride : Instr.wf (.nestCopy { nest1 with str := BitVec.ofNat 150 (4 * 2 ^ 100) }) = false := by decide +kernel
theorem test_wf_nest_shift : Instr.wf (.nestCopy { nest1 with ssh := 16 }) = false := by decide +kernel

/-! ### Decoding: words written out field by field from R42, R43, R45 to R53, R55 and R57, the most significant field first -/

/-- S32 `?!p1 SHR.N32 g5, g6, g7` with FB set: FB FA PN P B A D OP6 LEN. -/
theorem test_decode_shr_s32 : decodeTableWord 32 0b1_0_1_001_000111_000110_000101_010111_00 =
    some (.shrN32S32 { g := ⟨1, true⟩, fa := false, fb := true, d := 5, a := 6, b := 7 }) := by decide +kernel
/-- S32 `TWAIT t9`: the tile in A. -/
theorem test_decode_twait_s32 : decodeTableWord 32 0b0_0_0_000_000000_001001_000000_001100_00 =
    some (.twaitS32 { g := ⟨0, false⟩, fa := false, fb := false, d := 0, a := 9, b := 0 }) := by decide +kernel
/-- L64 `SREAD g2.d, sr.time`: MOD15 (SUB, reserved, SEL8) FC FB FA PN P C B A D OP8 LEN. -/
theorem test_decode_sread : decodeTableWord 64 0b0000_000_00001100_0_0_0_0_000_00000000_00000000_00000000_00000010_00001110_01 =
    some (.sread (P 2 0 0 0) (ctl 0 12)) := by decide +kernel
/-- W96 `NAP 100`: LIT32 and MOD15. -/
theorem test_decode_nap : decodeTableWord 96 0b00000000000000000000000001100100_0000_000_00000000_0_0_0_0_000_00000000_00000000_00000000_00000000_00010010_10 =
    some (.nap { P 0 0 0 0 with lit := some 100 } (ctl 0 0)) := by decide +kernel
/-- L64 `CMP.LE.N64 p3, g4.d, g6.d`: D holds COND 3 and PD 3 (R52); MOD15 (SUB, reserved, CP, ISAT, ITYPE). -/
theorem test_decode_cmp : decodeTableWord 64 0b0000_000_000_00_111_0_0_0_0_000_00000000_00000110_00000100_00_011_011_00111010_01 =
    some (.cmp (P 0b011011 4 6 0) (int .n64)) := by decide +kernel
/-- L64 `FMA.F64.RZ.FTZ g2.d, g4.d, g6.d, g8.d`: MOD15 (SUB, FTZ, SAT, RND, TYPE5). -/
theorem test_decode_fma : decodeTableWord 64 0b0000_1_00_001_00000_0_0_0_0_000_00001000_00000110_00000100_00000010_01000011_01 =
    some (.fma (P 2 4 6 8) { sub := 0, ftz := true, sat := .none, rnd := .rz, ty := .f64 }) := by decide +kernel
/-- L64 `SHFL.UP.F32 g1, g2, all, g3`: SUB 1, FC set. -/
theorem test_decode_shfl : decodeTableWord 64 0b0001_0_00_000_00001_1_0_0_0_000_00000011_00000000_00000010_00000001_01100000_01 =
    some (.shfl { P 1 2 0 3 with fc := true } { fp .f32 with sub := 1 }) := by decide +kernel
/-- N256 `NEST.SUM.F32` of 8 elements of 4 bytes from g4.d into g2.d, slot gs3: reserved, SSH, strides of B, A and D (five levels each, outermost first),
EXT (five levels), NLEV, PN, P, GS, BB, AB, DB, RND, TYPE5, OP6, LEN. -/
theorem test_decode_nest_sum : decodeTableWord 256
    0b0_000000_00000000000000000000000000000000000000000000000000_00000000000000000000000000000000000000000000000100_00000000000000000000000000000000000000000000000000_00000000000000000000000000000000000000000000000111_001_0_000_00011_0000000_0000010_0000001_000_00001_010010_11 =
    some (.nestSum { g := ⟨0, false⟩, ty := .f32, rnd := .rn, db := 1, ab := 2, bb := 0, gs := some 3, nlev := 1, ext := 7, str := BitVec.ofNat 150 (4 * 2 ^ 50), ssh := 0 }) := by
  decide +kernel
/-- W96 `ST.32 [scr g4 − 8], g9` with EVICT 2: MOD15 (reserved, SPACE, SIZE, EVICT, SCOPE, ORD). -/
theorem test_decode_st : decodeTableWord 96
    0b11111111111111111111111111111000_00_01_010_010_000_00_0_0_0_0_000_00001001_00000000_00000100_00000000_01110010_10 =
    some (.st { P 0 4 0 9 with lit := some 0xFFFFFFF8 } { space := .scr, size := 2, evict := 2, scope := .th, ord := .rlx }) := by decide +kernel
/-- L64 `FENCE.REL.QUAD`: MOD15 (SUB, reserved, SPACE, DTYPE, SCOPE, ORD). -/
theorem test_decode_fence : decodeTableWord 64 0b0000_0_00_000_011_10_0_0_0_0_000_00000000_00000000_00000000_00000000_10000101_01 =
    some (.fence (P 0 0 0 0) (syn 0 .glb .n32 .quad .rel)) := by decide +kernel
/-- L64 `CHK.READ.PSN g6.d`: SUB 2. -/
theorem test_decode_chk_read : decodeTableWord 64 0b0010_000_00000000_0_0_0_0_000_00000000_00000000_00000000_00000110_10010001_01 =
    some (.chkRead (P 6 0 0 0) (ctl 2 0)) := by decide +kernel
/-- L64 `MMA.ACC acc5, t17, sl1` with scale t3 and slot gs2: C holds the present bit and the tile; MOD15 (SUB2, SCOPE, TYPE5, GS). -/
theorem test_decode_mma : decodeTableWord 64 0b01_000_00000_00010_0_0_0_0_000_01000011_00000001_00010001_00000101_10100000_01 =
    some (.mma (P 5 17 1 0x43) { sub := 1, scope := .th, ty := .f64, gs := some 2 }) := by decide +kernel
/-- L64 `TCOPY.DEV t4, [g6.d], g8`. -/
theorem test_decode_tcopy : decodeTableWord 64 0b00_101_00000_11111_0_0_0_0_000_00000000_00001000_00000110_00000100_10110000_01 =
    some (.tcopy (P 4 6 8 0) { sub := 0, scope := .dev, ty := .f64, gs := none }) := by decide +kernel
/-- W96 `EMIT.TRY p2, g3, [g4.d], 7, g5`: the node in LIT32, the predicate in SEL8. -/
theorem test_decode_emit_try : decodeTableWord 96
    0b00000000000000000000000000000111_0000_000_00000010_0_0_0_0_000_00000101_00000000_00000100_00000011_11000001_10 =
    some (.emitTry { P 3 4 0 5 with lit := some 7 } (ctl 0 2)) := by decide +kernel
/-- L64 `ACCEPT.BACK g2.d, g4.d`: SUB 2 of OP8 0xD6. -/
theorem test_decode_accept_back : decodeTableWord 64 0b0010_0_00_000_000_00_0_0_0_0_000_00000000_00000000_00000100_00000010_11010110_01 =
    some (.acceptBack (P 2 4 0 0) (syn 2 .glb .n32 .th .rlx)) := by decide +kernel
/-- L64 `RMA.WRI [g4.d]` at `.FAB`, release. -/
theorem test_decode_rma_wri : decodeTableWord 64 0b0000_0_00_000_111_10_0_0_0_0_000_00000000_00000000_00000100_00000000_11011011_01 =
    some (.rmaWri (P 0 4 0 0) (syn 0 .glb .n32 .fab .rel)) := by decide +kernel
/-- L64 `TRIG.AT [g4.d], g6.d`: OP8 0xE3. -/
theorem test_decode_trig_at : decodeTableWord 64 0b0000_0_00_000_000_00_0_0_0_0_000_00000110_00000000_00000100_00000000_11100011_01 =
    some (.trigAt (P 0 4 0 6) (syn 0 .glb .n32 .th .rlx)) := by decide +kernel
/-- L64 `INV.RANGE.DIE g1, g2.d, g4.d, g6`: SEL8 holds the scope code 4. -/
theorem test_decode_inv_range : decodeTableWord 64 0b0000_000_00000100_0_0_0_0_000_00000110_00000100_00000010_00000001_11110100_01 =
    some (.invRange (P 1 2 4 6) (ctl 0 4)) := by decide +kernel
/-- R55, R57: unassigned codes decode to nothing: OP8 0x16 and S32 OP6 0x2D. -/
theorem test_decode_unassigned_l64 : decodeTableWord 64 0b0000_000_00000000_0_0_0_0_000_00000000_00000000_00000000_00000000_00010110_01 = none := by decide +kernel
theorem test_decode_unassigned_s32 : decodeTableWord 32 0b0_0_0_000_000000_000000_000000_101101_00 = none := by decide +kernel
/-- R50: a reserved bit of the modifier. -/
theorem test_decode_reserved : decodeTableWord 64 0b0000_001_00000000_0_0_0_0_000_00000000_00000000_00000000_00000000_00000101_01 = none := by decide +kernel

/-! ### Witnesses: encoding, steps, the checks of R61, registers -/

/-- The demo with another line at 0x1000, its thread standing in it. -/
def demoLine (l : BitVec 512) (pc : Dword := 0x1000) : State :=
  { demo with cores := [{ demoCore with icache := [(64, l)] }], me := { demoThread with pc := pc } }
/-- A line with one long word at syllable `k` and NOPs elsewhere. -/
def lineOf (k w : Nat) : BitVec 512 :=
  let n := w * 2 ^ (32 * k) + 0x7FFF * 2 ^ 480
  BitVec.ofNat 512 (n + (if oddOnes 256 n then 2 ^ 510 else 0) + (if oddOnes 254 (n / 2 ^ 256) then 2 ^ 511 else 0))

theorem test_witness_round_trip : Instr.isEvent (.atomCas { P 8 4 12 16 with lit := some 0xFFFFFFFF } (syn 0 .glb .n128 .fab .ar)) = false ∧
    Instr.wf (.atomCas { P 8 4 12 16 with lit := some 0xFFFFFFFF } (syn 0 .glb .n128 .fab .ar)) = true := by decide +kernel
theorem test_witness_decode_encode : decode (0b0_0_0_000_000010_000001_000011_010000_00) =
    .ok (.addI32S32 { g := ⟨0, false⟩, fa := false, fb := false, d := 3, a := 1, b := 2 }) := by decide +kernel

/-- The state in which the thread issues whose turn comes next. -/
def turnOf (s : State) : State := match s.pick with | some (y, t) => (y.rotateTo t.uid).enterBundle | none => s
def turnB (s : State) : Bool :=
  s.powered && s.agenda.isEmpty && s.overdue.isEmpty && decide (s.turns < turnLimit) && s.pick.isSome && (turnOf s).me.run == .ready && !(turnOf s).me.stepping &&
  (turnOf s).me.entering == none && !(turnOf s).me.starting && ((turnOf s).me.handler.isSome || (turnOf s).me.held.isEmpty)
theorem turnComes_of {s : State} (h : turnB s = true) : Claims.turnComes s (turnOf s) := by
  simp only [turnB, Bool.and_eq_true, decide_eq_true_eq, beq_iff_eq, Bool.not_eq_true', Bool.or_eq_true, List.isEmpty_iff] at h
  obtain ⟨⟨⟨⟨⟨⟨⟨⟨⟨hp, ha⟩, ho⟩, ht⟩, hk⟩, hr⟩, hs⟩, he⟩, hst⟩, hh⟩ := h
  obtain ⟨⟨y, t⟩, hy⟩ := Option.isSome_iff_exists.1 hk
  exact ⟨hp, ha, fun f hf => (List.not_mem_nil (ho ▸ hf)).elim, ht, ⟨y, t, hy, by simp only [turnOf, hy]⟩, hr, hs, he, hst, hh⟩
theorem test_witness_turn_nop : Claims.turnComes (demoLine nopLine) (turnOf (demoLine nopLine)) := turnComes_of (by decide +kernel)
theorem test_witness_turn_length : Claims.turnComes (demoLine (lineOf 14 1) 0x1038) (turnOf (demoLine (lineOf 14 1) 0x1038)) := turnComes_of (by decide +kernel)
theorem test_witness_turn_undecodable : Claims.turnComes (demoLine (lineOf 0 0x59)) (turnOf (demoLine (lineOf 0 0x59))) := turnComes_of (by decide +kernel)
theorem test_witness_step_runs : ((turnOf (demoLine nopLine)).fetch 0x1000).1 = .line nopLine ∧
    (turnOf (demoLine nopLine)).me.pc = 0x1000 ∧
    decode (nopLine.toNat / 2 ^ (32 * 0) % 2 ^ (32 * lenSyllables (syllable nopLine 0).toNat)) = .ok (.nopS32 { g := ⟨0, false⟩, fa := false, fb := false, d := 0, a := 0, b := 0 }) := by
  decide +kernel
/-- An L64 word at the last syllable crosses the end of the line; OP8 0x16 decodes to nothing. -/
theorem test_witness_step_length : ((turnOf (demoLine (lineOf 14 1) 0x1038)).fetch 0x1038).1 = .line (lineOf 14 1) ∧
    15 < 14 + lenSyllables (syllable (lineOf 14 1) 14).toNat := by decide +kernel
theorem test_witness_step_undecodable : ((turnOf (demoLine (lineOf 0 0x59))).fetch 0x1000).1 = .line (lineOf 0 0x59) ∧
    0 + lenSyllables (syllable (lineOf 0 0x59) 0).toNat ≤ 15 ∧
    (match decode ((lineOf 0 0x59).toNat / 2 ^ (32 * 0) % 2 ^ (32 * 2)) with | .error _ => true | .ok _ => false) = true := by decide +kernel
theorem test_witness_step_event : ({ demo with agenda := [.event (.scrubPass 0), .tick 1] } : State).powered = true ∧ Instr.isEvent (.scrubPass 0) = true := by
  decide +kernel
theorem test_witness_power_loss : ({ demo with powered := false } : State).powered = false ∧ ({ demo with powered := false } : State).agenda = [] := by
  decide +kernel
theorem test_witness_canonical : demo.memoriesWf := by unfold State.memoriesWf; decide +kernel
theorem test_witness_canonical_step : nextHas (step demo) (fun t => t.me.pc == 0x1004) = true := by decide +kernel

theorem test_witness_illegal : Claims.encodedOk { demo with me := { demoThread with budget := 8 } } (.add (P 8 1 2 0) (int .i32)) = false := by decide +kernel
theorem test_witness_privilege : Claims.encodedOk demoUser (.invAsid (P 1 2 0 0) (ctl 0 2)) = true ∧ demoUser.hasUnit (.invAsid (P 1 2 0 0) (ctl 0 2)) = true ∧
    Instr.isSys (.invAsid (P 1 2 0 0) (ctl 0 2)) = true ∧ demoUser.isSys demoUser.me = false := by decide +kernel
theorem test_witness_guard : Claims.encodedOk demo (.add { P 3 1 2 0 with g := ⟨1, false⟩ } (int .i32)) = true ∧
    demo.hasUnit (.add { P 3 1 2 0 with g := ⟨1, false⟩ } (int .i32)) = true ∧ demo.me.passes ⟨1, false⟩ = false := by decide +kernel
theorem test_witness_next_start : (0x1038#64).toNat % 4 = 0 ∧ (0x1038#64).toNat % 64 / 4 + 1 ≤ 15 ∧ (0x1038#64).toNat + 64 < 2 ^ 64 := by decide +kernel

/-- The demo with g2 empty and nothing pending, and with g2 awaiting a value. -/
def demoEmpty : State := demo.upd (·.drain 2)
def demoPending : State := demo.produce 2 1 none
theorem test_witness_empty_source : Claims.reaches demoEmpty (.add (P 3 1 2 0) (int .i32)) = true ∧
    (Claims.srcRegs demoEmpty (.add (P 3 1 2 0) (int .i32))).find? (fun x => !demoEmpty.me.full x.1 && !demoEmpty.me.pending x.1) = some (2, false) := by decide +kernel
theorem test_witness_blocking_source : Claims.reaches demoPending (.add (P 3 1 2 0) (int .i32)) = true ∧
    (∀ x ∈ Claims.srcRegs demoPending (.add (P 3 1 2 0) (int .i32)), demoPending.me.full x.1 = true ∨ demoPending.me.pending x.1 = true) ∧
    (∃ x ∈ Claims.srcRegs demoPending (.add (P 3 1 2 0) (int .i32)), x.2 = false ∧ demoPending.me.full x.1 = false) ∧
    (demoPending.regFault (Instr.sources (some (demoPending.bank demoPending.me)) (.add (P 3 1 2 0) (int .i32)))).isNone = true := by decide +kernel
theorem test_witness_trapping_source : Claims.reaches demoPending (.add { P 3 1 2 0 with fb := true } (int .i32)) = true ∧
    (∀ x ∈ Claims.srcRegs demoPending (.add { P 3 1 2 0 with fb := true } (int .i32)), demoPending.me.full x.1 = true ∨ demoPending.me.pending x.1 = true) ∧
    (∀ x ∈ Claims.srcRegs demoPending (.add { P 3 1 2 0 with fb := true } (int .i32)), x.2 = false → demoPending.me.full x.1 = true) ∧
    (Claims.srcRegs demoPending (.add { P 3 1 2 0 with fb := true } (int .i32))).find? (fun x => x.2 && !demoPending.me.full x.1) = some (2, true) := by decide +kernel
theorem test_witness_registers : (255 : Reg) ≠ 0 ∧ demoThread.pending 255 = false ∧ (254 : Reg).toNat % 2 = 0 ∧ demoThread.pending 254 = false ∧ (7 : BitVec 3) ≠ 0 := by
  decide +kernel
theorem test_witness_producer : demoThread.prods = [] ∧ ({ tag := 1, d := 240, n := 16, val := none } : Prod).dead = [] ∧ (240 : Reg) ≠ 0 ∧ (240 : Reg).toNat + 16 ≤ 256 ∧
    (List.replicate 16 (0 : Word)).length = 16 ∧ ({ tag := 1, d := 0, n := 2, val := none } : Prod).covers 1 = true ∧ (0 : Reg).toNat + 2 ≤ 256 := by decide +kernel

/-- R35 to R40, R59: from reset with the word of a short `NOP` in place, the next step runs it (assumption 6). -/
theorem test_first_step : (match step (State.reset.withFetchWord 32 0) with | .next t => t.me.pc == barePc + 4 | _ => false) = true := by decide +kernel

/-! ### Witnesses: control instructions, transfers, traps -/

/-- Slot gs3 of the demo holds false. -/
def demoSlot : State := demo.setSlot 3 (some false)
/-- g2.d holds a valid layout descriptor. -/
def demoLayout : State := demo.wr2 2 bareLayout

theorem test_witness_control : ∀ x ∈ [
    (demo, .nop { P 0 0 0 0 with lit := some 7 } (ctl 0 0)), (demo, .plog (P 7 1 2 0) (ctl 0 0)), (demo, .plog (P 1 0 0 0) (ctl 1 0)), (demo, .plog (P 0 1 2 0) (ctl 2 0)),
    (demo, .plog (P 1 1 1 0) (ctl 3 0)), (demo, .pmovRd (P 255 0 0 0) (ctl 0 0)), (demo, .pmovWr (P 0 1 2 0) (ctl 1 0)), (demo, .pmovWr { P 0 1 0 0 with lit := some 0xFF } (ctl 1 0)),
    (demo, .guardSet (P 15 1 0 0) (ctl 0 0)), (demoSlot, .guardSet (P 3 1 0 0) (ctl 0 0)), (demo, .guardClr (P 0 0 0 0) (ctl 0 0)), (demo, .sread (P 1 0 0 0) (ctl 0 0)),
    (demo, .sread (P 254 0 0 0) (ctl 0 0x0C)), (demo, .sread (P 1 0 0 0) (ctl 0 0x83)), (demo, .swrite (P 0 1 0 0) (ctl 0 0x0E)), (demo, .swrite (P 0 1 0 0) (ctl 0 0x0F)),
    (demo, .swrite (P 0 1 0 0) (ctl 0 0x10)), (demo, .swrite (P 0 2 0 0) (ctl 0 0x12)), (demo, .swrite (P 0 1 0 0) (ctl 0 0x80)), (demoLayout, .swrite (P 0 2 0 0) (ctl 0 0x81)),
    (demo, .swrite (P 0 1 0 0) (ctl 0 0x82)), (demo, .swrite (P 0 1 0 0) (ctl 0 0x83)), (demo, .feSet (P 255 0 0 0) (ctl 0 0)), (demo, .feSet (P 254 0 0 0) (ctl 3 0)),
    (demoPending, .feSet (P 2 0 0 0) (ctl 2 0)), (demo, .feTest (P 7 254 0 0) (ctl 1 0)), (demo, .ipref { P 0 0 0 0 with lit := some 64 } (ctl 3 0)), (demo, .nap (P 0 0 1 0) (ctl 0 0)),
    (demo, .nopS32 (S 0 0 0)), (demo, .plogAndS32 (S 1 2 3)), (demo, .plogOrS32 (S 1 2 3)), (demo, .plogXorS32 (S 1 2 3)), (demo, .plogAndnS32 (S 1 2 3)),
    (demo, .guardSetS32 (S 15 1 0)), (demo, .guardClrS32 (S 1 0 0))],
    x.1.issues x.2 = true ∧ (Claims.controlEffect x.1 x.2.long).isSome = true := by decide +kernel
theorem test_witness_nap : demo.issues (.nap { P 0 0 0 0 with lit := some 0x20000 } (ctl 0 0)) = true ∧ ((some (0x20000 : Word)).getD 0).toNat ≠ 0 := by decide +kernel
theorem test_witness_yield : demo.issues (.yieldS32 (S 0 0 0)) = true ∧ demo.issues (.yield (P 0 0 0 0) (ctl 0 0)) = true ∧ demo.uncancelled = true := by decide +kernel
theorem test_witness_exit : demo.issues (.exit (P 0 0 0 0) (ctl 0 0)) = true ∧ demo.issues (.exitS32 (S 0 0 0)) = true ∧ (∀ t ∈ demo.others, t.arrival = none) ∧
    demo.copies = [] ∧ demo.streams = [] ∧ demo.matrix = [] ∧ demo.shadows = [] ∧ demo.binds = [] := by decide +kernel
theorem test_witness_exit_of_two : demoTwo.issues (.exitS32 (S 0 0 0)) = true ∧ (∀ t ∈ demoTwo.others, t.arrival = none) ∧
    ∃ t ∈ demoTwo.others, t.gkey = demoTwo.me.gkey ∧ t.run ≠ .exited := by decide +kernel

/-- g2.d holds 0x1010, g4 holds 2, g5 holds 1; the private stack holds the address 0x1020 at 8. -/
def demoJump : State :=
  { demoWith [(2, 0x1010), (4, 2), (5, 1)] with me := { (demoWith [(2, 0x1010), (4, 2), (5, 1)]).me with stk := 8, priv := writeBytes [] 8 (natBytes 8 0x1020) } }
/-- Where an instruction goes satisfies `p`. -/
def goesTo (s : State) (i : Instr) (p : State → Dword → Bool → Bool) : Bool := match Claims.transfer s i.long with | some (v, a, g) => p v a g | none => false
theorem test_witness_transfers : ∀ x ∈ [
    (Instr.bra { P 0 0 0 0 with lit := some 0x38 } (ctl 0 0), (0x1038 : Dword), true), (.jmp (P 0 2 0 0) (ctl 0 0), 0x1010, true), (.call { P 0 0 0 0 with lit := some 4 } (ctl 0 0), 0x1004, true),
    (.calli (P 0 2 0 0) (ctl 0 0), 0x1010, true), (.ret (P 0 0 0 0) (ctl 0 0), 0x1020, false), (.retS32 (S 0 0 0), 0x1020, false),
    (.brdec { P 4 4 0 0 with lit := some 8 } (ctl 0 0), 0x1008, true)],
    demoJump.issues x.1 = true ∧ goesTo demoJump x.1 (fun v a g => a == x.2.1 && g == x.2.2 && (v.checkTarget a g).1 == .ok && (Claims.transferred demoJump x.1 a (v.checkTarget a g).2).isSome) = true := by
  decide +kernel
theorem test_witness_brdec_falls : demoJump.issues (.brdec { P 5 5 0 0 with lit := some 8 } (ctl 0 0)) = true ∧ demoJump.me.rd 5 = 1 := by decide +kernel
theorem test_witness_guard_conflict : demoSlot.issues (.guardSet (P 3 0 0 0) (ctl 0 0)) = true ∧ demoSlot.slot (slotOf 3) = some false ∧ false ≠ demoSlot.me.pred 0 := by decide +kernel
theorem test_witness_bad_layout : demo.issues (.swrite (P 0 2 0 0) (ctl 0 0x81)) = true ∧ SReg.ofCode 0x81 = some .ptel ∧ ptValid (demo.me.rd2 2) = false := by decide +kernel
theorem test_witness_fe_pending : demoPending.issues (.feSet (P 2 0 0 0) (ctl 1 0)) = true ∧ demoPending.me.pending 2 = true := by decide +kernel
/-- Syllable 15 of a line is no target. -/
theorem test_witness_bad_target : demoJump.issues (.bra { P 0 0 0 0 with lit := some 0x3C } (ctl 0 0)) = true ∧
    goesTo demoJump (.bra { P 0 0 0 0 with lit := some 0x3C } (ctl 0 0)) (fun v a g => a == 0x103C && g && (v.checkTarget a g).1 == .bad) = true := by decide +kernel
theorem test_witness_pop_bounds : ({ demo with me := { demoThread with stk := 0xFFFFFFF8 } } : State).issues (.ret (P 0 0 0 0) (ctl 0 0)) = true ∧
    demoThread.privSize < (0xFFFFFFF8 : Word).toNat + 8 := by decide +kernel
theorem test_witness_push_bounds : demo.issues (.call { P 0 0 0 0 with lit := some 4 } (ctl 0 0)) = true ∧
    Claims.transfer demo (.call { P 0 0 0 0 with lit := some 4 } (ctl 0 0)) = some (demo, 0x1004, true) ∧ (demo.checkTarget 0x1004 true).1 = .ok ∧ (demo.checkTarget 0x1004 true).2.me.stk.toNat < 8 := by
  refine ⟨by decide +kernel, rfl, by decide +kernel, by decide +kernel⟩

theorem pair_of {α β : Type} {p : α × β} {x : α} (h : p.1 = x) : p = (x, p.2) := by cases p; cases h; rfl
/-- A thread of the demo may enter its handler. -/
theorem test_witness_canEnter : Claims.canEnter demo ((demo.translate demo.me.trapf .write).2.checkTarget demo.handlerEntry true).2 0x2000 := by
  have h1 : (demo.translate demo.me.trapf .write).1 = .ok 0x2000 := by decide +kernel
  have h2 : ((demo.translate demo.me.trapf .write).2.checkTarget demo.handlerEntry true).1 = .ok := by decide +kernel
  exact ⟨by decide +kernel, by decide +kernel, by decide +kernel, by decide +kernel, (demo.translate demo.me.trapf .write).2, pair_of h1, by decide +kernel, pair_of h2⟩
/-- The demo in its handler, entered by a trap of cause `c`, with a frame whose saved PC is 0x1010. -/
def demoHandler (c : Nat) : State :=
  { demo with me := { demoThread with handler := some { cause := c, since := 0 } }, mem := writeBytes [] 0x2000 (natBytes 33 (0x1010 + c * 2 ^ 256)) }
theorem test_witness_trap_in_handler : (demoHandler 6).me.handler.isSome = true ∧ ((demoHandler 6).regionOf (demoHandler 6).me).isSome = true := by decide +kernel
theorem test_witness_trap : demo.issues (.trap { P 0 0 0 0 with lit := some 0xFFFFFFFF } (ctl 0 0)) = true ∧ demo.issues (.dbgBrk (P 0 0 0 0) (ctl 0 0)) = true ∧
    demo.issues (.dbgBrkS32 (S 0 0 0)) = true ∧ ((demo.regionOf demo.me).map (·.dbg)) = some [] := by decide +kernel
theorem test_witness_trap_ret_outside : demo.issues (.trapRet (P 0 0 0 0) (ctl 0 0)) = true ∧ demo.me.handler = none := by decide +kernel
/-- The thread's own reading of its frame in the demo's handler: the resume address, the predicates and the cause. -/
def frameRead (s : State) : List Byte × State := match s.locate .glb 0 s.me.trapf 64 false .read true with | .ok (_, t) => t.ownRead [(0x2000, 8), (0x202A, 1), (0x2020, 1)] | .error t => ([], t)
/-- The frame is in its place, and no other thread's release holds it back (or one does). -/
def frameFound (s : State) (h : Bool) : Bool := match s.locate .glb 0 s.me.trapf 64 false .read true with
  | .ok (p, t) => p.segs == [(0x2000, 64)] && t.heldBack (t.newOp (.load false) .glb p.segs [] .th .rlx 0 none) == h
  | .error _ => false
theorem test_witness_trap_ret : ∀ c ∈ [6, 23], (demoHandler c).issues (.trapRet (P 0 0 0 0) (ctl 0 0)) = true ∧ (demoHandler c).me.handler.isSome = true ∧
    frameFound (demoHandler c) false = true ∧ ((frameRead (demoHandler c)).1.getD 9 0).toNat = c ∧
    ((frameRead (demoHandler c)).2.checkTarget (BitVec.ofNat 64 (bytesNat ((frameRead (demoHandler c)).1.take 8))) false).1 = .ok := by decide +kernel
/-- Another thread's release holds the frame's line. -/
theorem test_witness_trap_ret_held : let s : State := { demoHandler 6 with holds := [holdBy { pending (.store false) .glb [(0x2000, 8)] [] .dev none with uid := 2 }] }
    s.issues (.trapRet (P 0 0 0 0) (ctl 0 0)) = true ∧ frameFound s true = true := by decide +kernel
/-- The frame's saved PC names syllable 15 of a line, which is no instruction start. -/
theorem test_witness_trap_ret_bad : let s : State := { demoHandler 6 with mem := writeBytes [] 0x2000 (natBytes 8 0x103C) }
    s.issues (.trapRet (P 0 0 0 0) (ctl 0 0)) = true ∧ frameFound s false = true ∧ (frameRead s).1.getD 9 0 ≠ 23 ∧
    ((frameRead s).2.checkTarget (BitVec.ofNat 64 (bytesNat ((frameRead s).1.take 8))) false).1 = .bad := by decide +kernel

/-! ### Witnesses: integers, floating point, conversions -/

def lit (o : LOps) (w : Word) : LOps := { o with lit := some w }
theorem test_witness_integer_arithmetic : ∀ i ∈ [
    Instr.add (P 255 1 2 0) (int .i32), .sub (lit (P 3 1 0 0) 0x80000000) (int .n16), .mul (P 2 4 6 0) { int .i64 with sat := true }, .mad (P 2 4 6 8) (int .n64), .min (P 3 1 2 0) (int .i8),
    .max (P 3 1 2 0) (int .n8), .abs (P 3 1 0 0) { int .i16 with sat := true }, .neg (P 0 1 0 0) (int .n32), .mulh (P 2 4 6 0) (int .n64), .div (P 3 1 2 0) { int .i32 with sat := true },
    .rem (P 3 1 2 0) (int .i32), .addI32S32 (S 63 1 2), .subI32S32 (S 3 1 2), .mulI32S32 (S 3 1 2), .minI32S32 (S 3 1 2), .maxI32S32 (S 3 1 2), .minN32S32 (S 3 1 2), .maxN32S32 (S 3 1 2)],
    demo.issues i = true ∧ (Claims.arith demo i.long).isSome = true := by decide +kernel
theorem test_witness_integer_bits : ∀ i ∈ [
    Instr.and (P 3 1 2 0) (int .n8), .or (lit (P 2 4 0 0) 0xFFFFFFFF) (int .i64), .xor (P 3 1 2 0) (int .i32), .andn (P 3 1 2 0) (int .n16), .shl (lit (P 3 1 0 0) 32) (int .n32),
    .shr (P 3 1 2 0) (int .i8), .sar (P 2 4 6 0) (int .i64), .rot (lit (P 3 1 0 0) 255) (int .n16), .bfx (P 3 1 2 0) (int .i32), .bfi (P 2 4 6 8) (int .n64), .brev (P 2 4 0 0) (int .n64),
    .andN32S32 (S 3 1 2), .orN32S32 (S 3 1 2), .xorN32S32 (S 3 1 2), .shlN32S32 (S 3 1 2), .shrN32S32 (S 3 1 2), .sarI32S32 (S 3 1 2)],
    demo.issues i = true ∧ (Claims.resultBit demo i.long).isSome = true := by decide +kernel
theorem test_witness_carry_compare_move : ∀ i ∈ [
    Instr.addc (P 3 1 2 0) { int .n32 with cp := 7 }, .subb (P 2 4 6 0) { int .n64 with cp := 1 }, .popc (P 3 4 0 0) (int .n64), .clz (P 3 1 0 0) (int .n32), .cmp (P 0x2F 1 2 0) (int .i8),
    .sel (P 3 1 2 7) (int .i32), .mov (lit (P 2 0 0 0) 0xFFFFFFFF) (int .i64), .lea (P 2 0 5 0) { int .i32 with sub := 6 }, .lea (lit (P 2 4 5 0) 0xFFFFFFF0) (int .n32),
    .cmpI32S32 (S 0x2F 1 2), .cmpN32S32 (S 0 1 2), .movN32S32 (S 3 0 2)],
    demo.issues i = true ∧ (Claims.moveEffect demo i.long).isSome = true := by decide +kernel
theorem test_witness_frame : ∀ i ∈ [Instr.add (P 255 1 2 0) (int .i32), .cmp (P 0x2F 1 2 0) (int .i8), .lea (P 2 0 5 0) (int .i32), .movN32S32 (S 3 0 2)],
    demo.issues i = true ∧ Claims.integer i.long = true := by decide +kernel

theorem test_witness_numbers : Claims.rat (.fin true 3 (-1)) = some (-3 / 2) ∧ Claims.rat (.fin false 0 5) = some 0 := by
  constructor <;> norm_num [Claims.rat]
theorem test_witness_rounding : (63 : Nat) < 64 ∧ Fmt.q7 ∈ Claims.fixedFmts ∧ 255 < 2 ^ (Claims.codeBits .q7).1 ∧ (Fmt.q7.value noBank 255).isNan = false ∧
    Fmt.f64 ∈ Claims.fixedFmts ∧ 2 ^ 63 < 2 ^ (Claims.codeBits .f64).1 ∧ (Fmt.f64.value noBank (2 ^ 63)).isNan = false := by decide +kernel

/-- g4 holds 1.0 in F32, g5 holds 3.0, and every trap is enabled; `logm` sets the logged mode. -/
def demoFloat (fcr : Word) : State := (demoWith [(4, 0x3F800000), (5, 0x40400000)]).upd (fun t => { t with fcr := fcr })
theorem test_witness_float : ∀ i ∈ [
    Instr.fpAdd (P 3 4 5 0) (fp .f32), .fpSub (P 2 6 8 0) (fp .f64), .fpMul (lit (P 3 4 0 0) 0x3F800000) (fp .bf16), .fma (P 3 4 5 6) (fp .f16), .fms (P 3 4 5 6) (fp .f32), .fnma (P 3 4 5 6) (fp .f32),
    .fnms (P 3 4 5 6) (fp .f32), .fpDiv (P 3 4 5 0) { fp .f32 with sat := .sati }, .sqrt (P 3 4 0 0) (fp .f32), .fpMin (P 3 4 5 0) (fp .f32), .fpMax (P 2 6 8 0) (fp .f64), .fpCmp (P 0x3F 4 5 0) (fp .f32),
    .fclass (P 3 4 0 0) (fp .f16), .rint (P 3 4 0 0) { fp .f32 with rnd := .rm }, .scale (P 3 4 0 0) (fp .f32), .getexp (P 3 4 0 0) (fp .f32), .padd (P 3 4 5 0) (fp .bf16), .pmul (P 3 4 5 0) { fp .f16 with sub := 1 },
    .pfma (P 3 4 5 6) (fp .f16), .pmax (P 3 4 5 0) (fp .bf16), .pdot (P 3 4 5 6) (fp .i8), .pdot (P 3 4 5 6) { fp .b1 with sub := 15, ftz := true }, .pdot (P 3 4 5 6) (fp .e4m3),
    .addF32S32 (S 3 4 5), .subF32S32 (S 3 4 5), .mulF32S32 (S 3 4 5), .minF32S32 (S 3 4 5), .maxF32S32 (S 3 4 5), .cmpF32S32 (S 0x3F 4 5), .addF64S32 (S 2 4 6), .subF64S32 (S 2 4 6), .mulF64S32 (S 2 4 6)],
    (demoFloat 0).issues i = true ∧ (match Claims.float (demoFloat 0) i.long with | some x => (demoFloat 0).quiet x.1 | none => false) = true := by decide +kernel
/-- 1.0 / 0 raises DZ: with its trap enabled it traps, and in the logged mode it makes a record. -/
theorem test_witness_float_traps : (demoFloat 0x3F0).issues (.fpDiv (P 3 4 0 0) (fp .f32)) = true ∧
    (match Claims.float (demoFloat 0x3F0) (.fpDiv (P 3 4 0 0) (fp .f32)) with | some x => (demoFloat 0x3F0).quiet x.1 | none => true) = false ∧
    (demoFloat 0x3F0).me.fcr.getLsbD 22 = false := by decide +kernel
theorem test_witness_float_logs : (demoFloat 0x4003F0).issues (.fpDiv (P 3 4 0 0) (fp .f32)) = true ∧
    (match Claims.float (demoFloat 0x4003F0) (.fpDiv (P 3 4 0 0) (fp .f32)) with | some x => (demoFloat 0x4003F0).quiet x.1 | none => true) = false ∧
    (demoFloat 0x4003F0).me.fcr.getLsbD 22 = true := by decide +kernel
theorem test_witness_sign : ∀ i ∈ [Instr.fpAbs (P 3 4 0 0) (fp .bf16), .fpNeg (P 2 4 0 0) (fp .f64), .cpysgn (lit (P 3 4 0 0) 0x80000000) (fp .f32)], demo.issues i = true := by decide +kernel
theorem test_witness_conversions : ∀ i ∈ [
    Instr.cvt (P 3 4 0 5) (fp .f32), .cvt (P 2 4 0 1) (fp .f64), .cvti (P 2 4 0 3) (fp .f32), .cvtf (P 3 4 0 7) (fp .bf16), .pcvt (P 3 4 5 0) (fp .e4m3), .pcvt (P 4 3 5 0) { fp .e4m3 with sub := 8 },
    .rcp (P 3 4 0 0) (fp .f32), .rsq (P 3 4 0 0) (fp .bf16), .exp2 (P 3 4 0 0) (fp .f32), .log2 (P 3 4 0 0) (fp .f32), .sin (P 3 4 0 0) (fp .f32), .cos (P 3 4 0 0) (fp .f16), .tanh (P 3 4 0 0) (fp .f32),
    .rcpF32S32 (S 3 4 0), .rsqF32S32 (S 3 4 0), .exp2F32S32 (S 3 4 0), .log2F32S32 (S 3 4 0)],
    (demoFloat 0).issues i = true ∧ (Claims.queued (demoFloat 0) i.long).isSome = true := by decide +kernel
/-- The conversion of a signalling NaN raises IV: it is quiet with the other traps enabled, traps with its own, and makes a record in the logged mode. -/
def demoNan (fcr : Word) : State := (demoWith [(4, 0x7F800001)]).upd (fun t => { t with fcr := fcr })
theorem test_witness_conversion_quiet : (demoNan 0x20).issues (.cvti (P 2 4 0 3) (fp .f32)) = true ∧
    (match Claims.queued (demoNan 0x20) (.cvti (P 2 4 0 3) (fp .f32)) with | some r => (demoNan 0x20).quiet r.2.2 | none => false) = true ∧
    (demoNan 0x20).me.fcr.getLsbD 22 = false ∧ ((demoNan 0x20).me.fcr >>> 4) &&& 63 ≠ 0 := by decide +kernel
theorem test_witness_conversion_trap : (demoNan 0x3F0).issues (.cvti (P 2 4 0 3) (fp .f32)) = true ∧
    (match Claims.queued (demoNan 0x3F0) (.cvti (P 2 4 0 3) (fp .f32)) with | some r => (demoNan 0x3F0).quiet r.2.2 | none => true) = false ∧
    (demoNan 0x3F0).me.fcr.getLsbD 22 = false ∧ ((demoNan 0x3F0).me.fcr >>> 4) &&& 63 ≠ 0 := by decide +kernel
theorem test_witness_conversion_log : (demoNan 0x4003F0).issues (.cvti (P 2 4 0 3) (fp .f32)) = true ∧
    (match Claims.queued (demoNan 0x4003F0) (.cvti (P 2 4 0 3) (fp .f32)) with | some r => (demoNan 0x4003F0).quiet r.2.2 | none => true) = false ∧
    (demoNan 0x4003F0).me.fcr.getLsbD 22 = true ∧ ((demoNan 0x4003F0).me.fcr >>> 4) &&& 63 ≠ 0 := by decide +kernel

/-! ### Witnesses: collectives -/

theorem test_witness_collectives : ∀ i ∈ [
    Instr.conv { P 0 0 0 0 with lit := some 1 } (ctl 0 0), .conv (P 0 2 0 0) (ctl 0 0), .convS32 (S 0 2 0), .barGrp (P 0 0 0 0) (ctl 0 0), .barGrpS32 (S 0 0 0),
    .brv { P 0 7 0 0 with lit := some 0x3C } (ctl 0 0), .brv { P 0 0 2 0 with lit := some 8 } (ctl 1 0), .brv { P 0 0 0 0 with lit := some 8 } (ctl 2 0), .shfl (P 3 4 0 5) (fp .i32), .shfl (P 4 6 0 5) { fp .f64 with sub := 3 },
    .bcast (P 3 4 0 0) (fp .f32), .bcast (P 3 4 0 5) (fp .i32), .vote (P 7 7 0 0) (fp .f64), .vote (P 1 0 2 0) { fp .f64 with sub := 1 }, .vote (P 254 0 0 0) { fp .f64 with sub := 2 },
    .vote (P 255 0 0 0) { fp .f64 with sub := 3 }, .matchAny (P 254 4 0 0) (fp .i32), .matchAny (P 6 4 0 0) (fp .f64), .laneRed (P 3 4 0 0) (fp .f32), .laneRed (P 3 4 0 0) { fp .i32 with sub := 5 }, .laneScan (P 3 4 0 0) (fp .i32), .laneScan (P 4 6 0 0) { fp .f64 with sub := 9 }],
    (demoWith [(2, 1)]).issues i = true ∧ (demoWith [(2, 1)]).uncancelled = true ∧ (match Claims.meeting (demoWith [(2, 1)]) i.syllables i.long with
      | some c => (demoWith [(2, 1)]).gathered c.kind c.mask c.exitOk c.data [(1, 0, c.data)] | none => false) = true := by decide +kernel
theorem test_witness_collective_threads : (demo.threads.map (·.uid)).Nodup := by decide +kernel
/-- A mask of two members, the second of which has yet to arrive: the first waits. -/
theorem test_witness_collective_waits : ∀ i ∈ [Instr.conv { P 0 0 0 0 with lit := some 3 } (ctl 0 0), .shfl { P 3 4 0 5 with lit := some 3 } (fp .i32)],
    demoTwo.issues i = true ∧ demoTwo.uncancelled = true ∧ (match Claims.meeting demoTwo i.syllables i.long, demoTwo.group? demoTwo.me with
      | some c, some g =>
        let mask := if g.width ≤ 32 then c.mask &&& 0x7FFFFFFFFFFFFFFF else c.mask
        mask.getLsbD demoTwo.me.member && mask &&& ~~~ g.started == 0 && decide (mask.toNat < 2 ^ g.width) && demoTwo.others.all (fun t => t.arrival == none) &&
        demoTwo.others.all (fun t => !(t.sameGroup demoTwo.me && mask.getLsbD t.member) || (t.run != .exited && t.ord == demoTwo.me.ord)) &&
        demoTwo.others.any (fun t => t.uid != demoTwo.me.uid && t.sameGroup demoTwo.me && mask.getLsbD t.member && t.member != demoTwo.me.member && decide (t.member < 64))
      | _, _ => false) = true := by decide +kernel
/-- The second member is ahead. -/
theorem test_witness_collective_ahead : (demoTwo.others.map (fun t => { t with ord := 1 })).any (fun t => t.uid != demoTwo.me.uid && t.sameGroup demoTwo.me &&
    (3 : BitVec 64).getLsbD t.member && t.run != .exited && decide (1 ≤ (t.ord - demoTwo.me.ord).toNat ∧ (t.ord - demoTwo.me.ord).toNat ≤ 32768) && (t.arrival == none)) = true := by decide +kernel
/-- Masks that no collective may have: without the member itself, with a member that did not start, and past the width. -/
theorem test_witness_collective_masks : demo.issues (.conv { P 0 0 0 0 with lit := some 2 } (ctl 0 0)) = true ∧ (2 : BitVec 64).getLsbD demo.me.member = false ∧
    demo.issues (.conv { P 0 0 0 0 with lit := some 0x80000001 } (ctl 0 0)) = true ∧ (0x80000001 : BitVec 64) &&& ~~~ 1 ≠ 0 := by decide +kernel

/-- The demo's group in a chain of two: first with an open second, and second with a full inbound buffer. -/
def demoFirst : State := { demo with groups := demo.groups ++ [{ bareGroup 1 with gid := 1, width := 1 }], others := [{ demoThread with uid := 2, gid := 1 }] }
def demoSecond : State := { demoFirst with me := { demoThread with gid := 1 }, others := [{ demoThread with uid := 2 }], groups := [{ bareGroup 1 with width := 1 }, { bareGroup 1 with gid := 1, width := 1, edgeUp := some 5 }] }
theorem test_witness_chain : ∀ x ∈ [(demo, (0 : BitVec 4), true, false), (demo, 1, true, false), (demoFirst, 0, true, true), (demoSecond, 0, false, false), (demoSecond, 1, true, true)],
    x.1.issues (.laneChain (P 3 4 0 5) { fp .i32 with sub := x.2.1 }) = true ∧ x.1.uncancelled = true ∧ (match x.1.group? x.1.me with
      | some g =>
        (if g.width ≤ 32 then Claims.laneMask x.1 (P 3 4 0 5) &&& 0x7FFFFFFFFFFFFFFF else Claims.laneMask x.1 (P 3 4 0 5)) == g.started &&
        (x.1.participants .chain g.started false [Claims.laneVal x.1 { fp .i32 with sub := x.2.1 } 4]).isSome &&
        Claims.chainStart x.1 g (x.2.1 = 0) == x.2.2.1 && (x.2.2.1 || (Claims.buffer (x.2.1 = 0) g).isSome) && (Claims.chainDest x.1 g (x.2.1 = 0)).isSome == x.2.2.2 &&
        ((Claims.chainDest x.1 g (x.2.1 = 0)).bind (Claims.buffer (x.2.1 = 0))).isNone
      | none => false) = true := by decide +kernel

/-! ### Witnesses: memory, atomics, barriers -/

/-- Places to access: g2.d holds 0x10000, g4 holds 16, g6 holds an address outside the scratchpad and the private space. -/
def demoMem : State := demoWith [(2, 0x10000), (4, 16), (6, 0x400)]
def o4 (d a b c : Reg) : LOps := P d a b c
theorem test_witness_loads : ∀ x ∈ [
    (Instr.ld (P 16 2 0 0) (mem .glb 6), true), (.ld (P 9 4 0 0) (mem .scr 2), true), (.ld (P 8 4 0 0) (mem .prv 3), false), (.ldSignExtend (P 9 2 0 0) (mem .glb 0), true),
    (.ldSignExtend (P 9 4 0 0) (mem .prv 1), false), (.ldu { P 9 2 0 0 with lit := some 0xFFFFFFFF } (mem .glb 2), true), (.ldu { P 9 4 0 0 with lit := some 1 } (mem .prv 1), false)],
    demoMem.issues x.1 = true ∧ (match Claims.load x.1 with
      | some (o, m, _, al) => found (demoMem.locate m.space (demoMem.me.rd2 o.a) (Claims.effective demoMem m.space o) (2 ^ m.size.toNat) al .read true)
          (fun q => (match q.space with | .prv _ => false | _ => true) == x.2)
      | none => false) = true := by decide +kernel
theorem test_witness_stores : ∀ x ∈ [
    (Instr.st (P 0 2 0 16) (mem .glb 6), true), (.st { P 0 4 0 9 with lit := some 4 } (mem .scr 2), true), (.st (P 0 4 0 8) (mem .prv 3), false), (.stz (P 0 2 0 0) (mem .glb 6), true),
    (.stz (P 0 4 0 0) (mem .prv 0), false), (.stm (P 0 2 8 16) (mem .glb 6), true), (.stm (P 0 4 10 16) (mem .prv 4), false)],
    demoMem.issues x.1 = true ∧ (match Claims.store demoMem x.1 with
      | some (o, m, _) => found (demoMem.locate m.space (demoMem.me.rd2 o.a) (Claims.effective demoMem m.space o) (2 ^ m.size.toNat) true .write false)
          (fun q => (match q.space with | .prv _ => false | _ => true) == x.2)
      | none => false) = true := by decide +kernel
/-- The demo with a second page, whose upper part has no memory behind it. -/
def demoBad : State :=
  { demoWith [(2, 0x10000), (6, 0x400), (241, 0x40000000), (242, 0x70000000)] with
    cores := [{ demoCore with tlb := demoCore.tlb ++ [{ asid := 1, va := 1, log := 30, pa := 223 * 2 ^ 30, w := true, u := true, x := true, db := true }] }] }
theorem test_witness_accesses_trap : ∀ i ∈ [Instr.ld { P 8 2 0 0 with lit := some 4 } (mem .glb 3), .ld (P 9 6 0 0) (mem .scr 2), .st (P 0 6 0 9) (mem .prv 2), .ldu (P 9 240 0 0) (mem .glb 2), .ldu (P 9 242 0 0) (mem .glb 2)],
    demoBad.issues i = true := by decide +kernel
theorem test_witness_accesses_misaligned : ((0x10000 : Dword) + (4 : Word).signExtend 64).toNat % 8 ≠ 0 ∧ demoBad.me.privSize < 0x400 + 4 := by decide +kernel
theorem test_witness_accesses_bounds : ∃ p, demoBad.pad? demoBad.me.gang demoBad.me.core = some p ∧ p.size < (0x400 : Nat) + 4 :=
  ⟨{ gang := 1, core := 0, size := 1024, dynBase := 512, dynPtr := 512, bytes := [] }, by decide +kernel, by decide⟩
theorem test_witness_accesses_pages : (demoBad.translate 0x4000000000000000 .read).1 = .fault 1 ∧ (demoBad.translate 0x70000000 .read).1 = .ok 0x37F0000000 ∧
    demoBad.physKind 0x37F0000000 = .bad ∧ demoBad.me.rd2 240 = 0x4000000000000000 ∧ demoBad.me.rd2 242 = 0x70000000 := by decide +kernel

/-! ### Witnesses: atomics, links and waits, barrier objects -/

/-- An access of one segment whose place and state satisfy `p`. -/
def at1 (s : State) (sp : Space) (o : LOps) (n : Nat) (acc : Acc) (rd : Bool) (p : OpSpace → Nat → State → Bool) : Bool :=
  match s.locate sp (s.me.rd2 o.a) (Claims.effective s sp o) n true acc rd with
  | .ok (⟨q, [(a, k)], _⟩, t) => k == n && p q a t
  | _ => false
theorem test_witness_atomics : ∀ i ∈ [
    Instr.atom (P 8 2 0 10) (syn 7 .glb .i64 .dev .ar), .atomFloat (P 9 4 0 8) (syn 2 .scr .f32 .core .rlx), .atomCas (P 8 2 12 16) (syn 0 .glb .n128 .die .acq),
    .red (P 0 2 0 8) (syn 1 .glb .n32 .th .rel), .redFloat (P 0 2 0 8) (syn 0 .glb .bf16x2 .quad .rlx)],
    demoMem.issues i = true ∧ (match Claims.atomic demoMem i with
      | some (o, m, _, _) => at1 demoMem m.space o m.ty.bytes .write true (fun _ _ _ => true) | none => false) = true := by decide +kernel
theorem test_witness_fences : ∀ m ∈ [syn 0 .glb .n32 .th .rel, syn 0 .glb .n32 .quad .acq, syn 0 .glb .n32 .fab .ar], demoMem.issues (.fence (P 0 0 0 0) m) = true := by decide +kernel

/-- The demo with a standing reservation on the line of 0x10000, and with one on another line. -/
def demoLink (line : Nat) : State := demoMem.upd (fun t => { t with resv := some { glb := true, line := line, size := 4, live := true } })
theorem test_witness_link : demoMem.issues (.ldLink (P 8 2 0 0) (syn 0 .glb .n32 .dev .acq)) = true ∧
    at1 demoMem .glb (P 8 2 0 0) 4 .read true (fun _ a _ => a == 0x10000) = true := by decide +kernel
/-- A link that is still pending: `ST.COND` waits for it, and its performing makes the reservation stand. -/
def linkOp : MemOp := pending (.rmw (.link .n32)) .glb [(0x10000, 4)] [] .dev none
theorem test_witness_link_pending : let s : State := { demoLink 1024 with ops := [linkOp] }
    s.issues (.stCond (P 7 2 0 8) (syn 0 .glb .n32 .dev .rel)) = true ∧
    at1 s .glb (P 7 2 0 8) 4 .write false (fun _ _ t => t.ops.any (fun y => y.uid == t.me.uid && y.isLink)) = true ∧ linkOp.uid = s.me.uid ∧ s.lateError linkOp = false ∧
    (s.me.resv.map (·.line)) = some (0x10000 / 64) ∧ s.ops.all (fun y => y.id == linkOp.id) = true := by decide +kernel
theorem test_witness_conditional : (demoLink 1024).issues (.stCond (P 7 2 0 8) (syn 0 .glb .n32 .dev .rel)) = true ∧
    at1 (demoLink 1024) .glb (P 7 2 0 8) 4 .write false (fun q a t => t.ops.isEmpty && t.me.resv == some { glb := q == .glb, line := a / 64, size := 4, live := true } &&
      (t.admits (Claims.atPoint t (.rmw (.int 0 .n32 0)) q [(a, 4)] .dev .rel)).isSome) = true := by decide +kernel
theorem test_witness_conditional_lost : (demoLink 1025).issues (.stCond (P 7 2 0 8) (syn 0 .glb .n32 .dev .rel)) = true ∧
    at1 (demoLink 1025) .glb (P 7 2 0 8) 4 .write false (fun _ a t => t.ops.isEmpty && (t.me.resv.map (·.line)) != some (a / 64)) = true := by decide +kernel
/-- `WAIT.VAL` of a word that holds 0 for 0 and for another value. -/
theorem test_witness_value : ∀ x ∈ [((0 : Reg), true), (4, false)], demoMem.issues (.waitVal (P 7 2 0 x.1) (syn 0 .glb .n32 .dev .acq)) = true ∧
    at1 demoMem .glb (P 7 2 0 x.1) 4 .read true (fun q a t => match (t.upd (fun y => { y with resv := none })).admits (Claims.atPoint t (.rmw (.link .n32)) q [(a, 4)] .dev .acq) with
      | some u => Claims.waits 0 false 32 ((u.toPoint q u.me.core a 4 u.myCause).pointRead q a 4) (Claims.typed (u.toPoint q u.me.core a 4 u.myCause) .n32 x.1) == x.2
      | none => false) = true := by decide +kernel

/-- The demo with a barrier object at 0x10000: phase 3, two arrivals due of two, scope 3; g8 holds 2, g9 holds 3. -/
def demoBar : State :=
  { demoWith [(2, 0x10000), (8, 2), (9, 3)] with
    mem := writeBytes [] 0x10000 (natBytes 16 (Claims.object 3 2 2 3)), me := { (demoWith [(2, 0x10000), (8, 2), (9, 3)]).me with syncs := [(0x1000, 2)] } }
def bar : SyncMod := syn 0 .glb .n32 .th .rlx
theorem test_witness_arrivals : ∀ x ∈ [(3, 2, 2, 3, 1, false), (3, 2, 2, 3, 2, false), (2 ^ 32 - 1, 1, 65535, 5, 1, true)],
    Claims.goodObject (Claims.object x.1 x.2.1 x.2.2.1 x.2.2.2.1) x.1 x.2.1 x.2.2.1 x.2.2.2.1 ∧ 1 ≤ x.2.2.2.2.1 ∧ x.2.2.2.2.1 ≤ x.2.1 ∧ (x.2.2.2.2.2 = true → x.2.2.2.2.1 = 1 ∧ 2 ≤ x.2.2.1) := by
  unfold Claims.goodObject; decide +kernel
theorem test_witness_barrier_init : demoBar.issues (.barInit (P 0 2 0 8) (syn 0 .glb .n32 .quad .rel)) = true ∧
    at1 demoBar .glb (P 0 2 0 8) 16 .write true (fun q a t => match t.admits (Claims.atPoint t (.rmw (.cas .n128 0 0)) q [(a, 16)] .quad .rel) with
      | some u => decide (1 ≤ (u.me.rd 8).toNat ∧ (u.me.rd 8).toNat ≤ 65535) | none => false) = true := by decide +kernel
theorem test_witness_barrier_object : Claims.goodObject (Claims.object 3 2 2 3) 3 2 2 3 ∧ at1 demoBar .glb (P 0 2 0 0) 16 .write true (fun q a t =>
    (t.toPoint q t.me.core a 16 t.myCause).pointRead q a 16 == Claims.object 3 2 2 3 &&
    (t.admits (Claims.atPoint t (.rmw (.cas .n128 0 0)) q [(a, 16)] (scopeOf 3) .rel)).isSome) = true := by unfold Claims.goodObject; decide +kernel
theorem test_witness_barrier_read : at1 demoBar .glb (P 0 2 0 0) 16 .read true (fun q a t =>
    (t.toPoint q t.me.core a 16 t.myCause).pointRead q a 16 == Claims.object 3 2 2 3 &&
    [Ord.acq, .rlx].all (fun x => ((t.toPoint q t.me.core a 16 t.myCause).admits (Claims.atPoint t (.rmw (.link .n128)) q [(a, 16)] (scopeOf 3) x)).isSome)) = true := by decide +kernel
theorem test_witness_barriers : demoBar.uncancelled = true ∧ demoBar.me.syncs.find? (fun y => y.1 == demoBar.me.pc) = some (demoBar.me.pc, 2) ∧
    ∀ i ∈ [Instr.barArrive (P 7 2 0 0) bar, .barArrive (P 7 2 0 8) bar, .barDrop (P 0 2 0 0) bar, .barTest (P 7 2 0 8) bar, .barTest (P 7 2 0 9) bar, .barWait (P 0 2 0 8) bar,
      .barWait (P 0 2 0 9) bar, .barSync (P 0 2 0 0) bar], demoBar.issues i = true := by decide +kernel
/-- A `BAR.SYNC` whose token is the present phase. -/
theorem test_witness_barrier_sync : (demoBar.upd (fun t => { t with syncs := [(0x1000, 3)] })).issues (.barSync (P 0 2 0 0) bar) = true ∧
    (demoBar.upd (fun t => { t with syncs := [(0x1000, 3)] })).me.syncs.find? (fun y => y.1 == 0x1000) = some (0x1000, BitVec.ofNat 32 3) := by decide +kernel

/-! ### Witnesses: caches, scratch, checking -/

/-- The demo with a dirty byte of the line of 0x10000 in its L1, and with no cached translation but a page of 4 KiB at 0x3000. -/
def demoDirty : State :=
  { demoMem with cores := [{ demoCore with l1 := [{ line := 1024, data := 0xFF, valid := 1, dirty := 1, parts := 1, rel := false }] }] }
def demoProbe : State :=
  { demoWith [(2, 0x3000), (5, 0x80000000)] with cores := [{ demoCore with tlb := [] }], mem := writeBytes [] 0x10018 (natBytes 8 0x5007) }
theorem test_witness_caches : ∀ i ∈ [
    Instr.pref (P 0 2 0 0) (mem .glb 0), .prefCnt (P 8 2 0 0) (mem .glb 0), .cctl (P 0 2 0 0) (mem .glb 0), .cctl (P 1 2 0 0) (mem .glb 0), .cctl (P 4 2 0 0) (mem .glb 0),
    .cdisc (P 0 2 0 0) (mem .glb 0), .cctl (P 2 0 0 0) (mem .glb 0), .cctl (P 3 0 0 0) (mem .glb 0), .cctl (P 5 0 0 0) (mem .glb 0)],
    demoDirty.issues i = true := by decide +kernel
theorem test_witness_cache_line : (demoDirty.translate 0x10000 .read).1 = .ok 0x10000 ∧ (demoDirty.translate 0x10000 .read).2.physKind 0x10000 ≠ .bad ∧
    Claims.storing (demoDirty.translate 0x10000 .read).2 1024 = false ∧ Claims.anyAcquire demoDirty = false ∧ Claims.anyAcquire (demoDirty.translate 0x10000 .read).2 = false ∧
    ((demoDirty.translate 0x10000 .read).2.l1? 0 1024).map (·.rel) = some false ∧ Claims.anyStore demoDirty = false := by decide +kernel
theorem test_witness_cache_lines : ∀ c ∈ demoDirty.cores, (c.l1.map (·.line)).Nodup := by decide +kernel
theorem test_witness_cache_memory : demoDirty.memoriesWf := by unfold State.memoriesWf; decide +kernel
theorem test_witness_scratch : ∀ x ∈ [(Instr.salloc { P 9 0 0 0 with lit := some 65 } (mem .scr 0), true), (.salloc { P 9 0 0 0 with lit := some 513 } (mem .scr 0), false),
    (.sfree { P 0 0 0 0 with lit := some 512 } (mem .scr 0), true), (.sfree { P 0 0 0 0 with lit := some 1024 } (mem .scr 0), false)], demo.issues x.1 = true := by decide +kernel
theorem test_witness_probe : ∀ x ∈ [((2 : Reg), false), (4, true)], demoProbe.issues (.probe (P 9 x.1 0 0) (mem .glb 0)) = true ∧
    demoProbe.cached 0 1 (demoProbe.me.rd2 x.1) .read = none ∧ (match (walk demoProbe.mem demoProbe.tableEntry (demoProbe.ptroot demoProbe.me) demoProbe.me.ptel (demoProbe.me.rd2 x.1)).1 with
      | .leaf _ => !x.2 | .noncanonical => x.2 | _ => false) = true := by decide +kernel

/-- The same line held by another thread's release: a cache instruction waits for it; and table walks that a hold and a word in error end. -/
def demoHeldLine : State := { demoDirty with holds := [holdBy { pending (.store false) .glb [(0x10000, 4)] [] .dev none with uid := 2 }] }
theorem test_witness_cache_held : (demoHeldLine.translate 0x10000 .read).1 = .ok 0x10000 ∧ (demoHeldLine.translate 0x10000 .read).2.lineHeld 1024 = true ∧
    (demoDirty.translate 0x10000 .read).2.lineHeld 1024 = false ∧ demoDirty.lineHeld 1024 = false ∧ Claims.storing (demoHeldLine.translate 0x10000 .read).2 1024 = false ∧
    demoHeldLine.issues (.cctl (P 1 2 0 0) (mem .glb 0)) = true ∧ demoHeldLine.issues (.cdisc (P 0 2 0 0) (mem .glb 0)) = true := by decide +kernel
theorem test_witness_probe_ends : ∀ x ∈ [({ demoProbe with holds := [holdBy { pending (.store false) .glb [(0x10018, 8)] [] .dev none with uid := 2 }] }, WalkEnd.held), ({ demoProbe with badWords := [0x10018 / 8] }, .mchk 2)],
    x.1.issues (.probe (P 9 2 0 0) (mem .glb 0)) = true ∧ x.1.cached 0 1 (x.1.me.rd2 2) .read = none ∧ (walk x.1.mem x.1.tableEntry (x.1.ptroot x.1.me) x.1.me.ptel (x.1.me.rd2 2)).1 = x.2 := by decide +kernel
theorem test_witness_probe_cached : demoMem.issues (.probe (P 9 2 0 0) (mem .glb 0)) = true ∧ (demoMem.cached 0 1 (demoMem.me.rd2 2) .read).isSome = true := by decide +kernel

/-- g4 names the Batten of core 0, g5 a Purlin unit at L2 slice 1, g6 one at HBM controller 2, g7 a die that is not there. -/
def demoUnits : State := demoWith [(4, 0x30000), (5, 0x1001), (6, 0x2002), (7, 0x4000)]
theorem test_witness_inject : ∀ i ∈ [
    Instr.chkInjectEarly { P 0 4 0 0 with lit := some 1 } (ctl 0 3), .chkInjectHash { P 0 5 0 0 with lit := some 1 } (ctl 1 0), .chkInjectSkip { P 0 6 0 0 with lit := some 1 } (ctl 2 0),
    .chkInjectDup { P 0 5 0 0 with lit := some 1 } (ctl 3 0), .chkInjectEarly { P 0 7 0 0 with lit := some 1 } (ctl 0 3), .chkInjectHash { P 0 4 0 0 with lit := some 1 } (ctl 1 0),
    .chkInjectDup { P 0 6 0 0 with lit := some 1 } (ctl 3 0), .chkClear (P 0 4 0 0) (ctl 0 0), .chkClear (P 0 5 0 0) (ctl 0 0), .chkClear (P 0 0 0 0) (ctl 1 0),
    .chkSample (P 8 4 0 0) (ctl 0 6), .chkSample (P 8 6 0 0) (ctl 0 2)], demoUnits.issues i = true := by decide +kernel
theorem test_witness_units : Claims.unitPresent demoUnits 0x30000 ∧ Claims.unitPresent demoUnits 0x1001 ∧ Claims.unitPresent demoUnits 0x2002 ∧ ¬ Claims.unitPresent demoUnits 0x4000 := by
  have h : demoUnits.die? 0 = some { Die.unbooted 0 with enabled := true } := by decide +kernel
  have hc : demoUnits.core? 0 = some demoCore := by decide +kernel
  have h1 : demoUnits.die? 1 = none := by decide +kernel
  refine ⟨⟨⟨_, h, rfl⟩, .inl ⟨rfl, by decide, _, hc, rfl⟩⟩, ⟨⟨_, h, rfl⟩, .inr (.inl ⟨rfl, by decide⟩)⟩, ⟨⟨_, h, rfl⟩, .inr (.inr ⟨rfl, by decide⟩)⟩, fun x => ?_⟩
  obtain ⟨⟨d, hd, -⟩, -⟩ := x
  exact Option.some_ne_none d (hd.symm.trans h1)
theorem test_witness_chk : demoMem.issues (.chkRead (P 8 2 0 0) (ctl 0 0)) = true ∧ demoMem.issues (.chkRead (P 8 0 0 0) (ctl 1 0)) = true ∧ demoMem.issues (.chkRead (P 8 0 0 0) (ctl 2 0)) = true ∧
    demoMem.issues (.chkSync (P 0 0 0 0) (ctl 0 0)) = true ∧ at1 demoMem .glb (P 8 2 0 0) 1 .read false (fun q a _ => q == .glb && a == 0x10000) = true := by decide +kernel
theorem test_witness_chk_sync : demoMem.ops = [] ∧ demoMem.holds = [] ∧ demoMem.me.wrote = [] ∧ demoMem.me.held = [] ∧ demoMem.me.handler = none ∧
    (demoMem.upd (fun t => { t with held := [{ cause := 21, pc := 0 }] })).issues (.chkSync (P 0 0 0 0) (ctl 0 0)) = true := by decide +kernel

/-! ### Witnesses: tiles and the copy engine -/

def tile (id rows cols : Nat) (f : Fmt) (st : TState) : Tile := { core := 0, id := id, gang := 1, base := 0, rows := rows, cols := cols, fmt := f, desc := 0, st := st, chk := none }
def someSlates : List Slate := [Slate.fresh 0 0, { Slate.fresh 0 1 with claim := some 1, pins := [6], want := some { tile := 6, idx := none, scale := none, fmt := .e4m3, desc := 0, k := 48, n := 16, sp := 0 } }]
/-- Tiles of the demo's gang (1 to 4, 6), of another (5); the slate pins tile 6. g2.d holds 0x10000, g4 holds 16. -/
def demoTiles : State :=
  { demoMem with slates := someSlates, tiles := [tile 1 16 4 .f32 .empty, tile 2 16 4 .f32 .ready, tile 3 4 4 .f64 .empty, tile 4 4 16 .f32 .empty, { tile 5 4 4 .f32 .ready with gang := 7 }, tile 6 48 16 .e4m3 .ready] }
theorem owns_of {s : State} {id : Nat} {t : Tile} (h : s.tile? s.me.core id = some t) (hg : t.gang = s.me.gang) (hf : ((s.tileFault id).isNone && !s.me.lostTile id && !s.tileStruck s.me.core id) = true) : Claims.owns s id t := by
  simp only [Bool.and_eq_true, Bool.not_eq_true', Option.isNone_iff_eq_none] at hf
  exact ⟨h, hg, hf.1.1, hf.1.2, hf.2⟩
def looseB (s : State) (id : Nat) (t : Tile) : Bool :=
  decide ((t.st = .empty ∨ t.st = .ready) ∧ s.tileRead s.me.core id = false ∧ ∀ x ∈ s.slates, x.core = s.me.core → x.claim.isSome = true → id ∉ x.pins)
theorem loose_of {s : State} {id : Nat} {t : Tile} (h : looseB s id t = true) : Claims.loose s id t := by
  unfold looseB at h; have h2 := of_decide_eq_true h; exact h2
theorem test_witness_tiles_owned : Claims.owns demoTiles 1 (tile 1 16 4 .f32 .empty) ∧ Claims.owns demoTiles 2 (tile 2 16 4 .f32 .ready) ∧ Claims.owns demoTiles 3 (tile 3 4 4 .f64 .empty) ∧
    Claims.owns demoTiles 4 (tile 4 4 16 .f32 .empty) ∧ Claims.owns demoTiles 6 (tile 6 48 16 .e4m3 .ready) :=
  ⟨owns_of (by decide +kernel) rfl (by decide +kernel), owns_of (by decide +kernel) rfl (by decide +kernel), owns_of (by decide +kernel) rfl (by decide +kernel),
   owns_of (by decide +kernel) rfl (by decide +kernel), owns_of (by decide +kernel) rfl (by decide +kernel)⟩
theorem test_witness_tiles_loose : Claims.loose demoTiles 1 (tile 1 16 4 .f32 .empty) ∧ Claims.loose demoTiles 3 (tile 3 4 4 .f64 .empty) ∧ Claims.loose demoTiles 4 (tile 4 4 16 .f32 .empty) ∧ Claims.room demoTiles :=
  ⟨loose_of (by decide +kernel), loose_of (by decide +kernel), loose_of (by decide +kernel), by unfold Claims.room; decide +kernel⟩
theorem test_witness_tiles_pinned : ∃ x ∈ demoTiles.slates, x.core = demoTiles.me.core ∧ x.claim.isSome = true ∧ 6 ∈ x.pins := by decide +kernel
def gs0 : EngMod := { eng 0 .f64 with gs := some 0 }
theorem test_witness_tiles : ∀ i ∈ [
    Instr.tcopy (P 1 2 0 0) (eng 0 .f64), .tcopy { P 1 2 0 0 with lit := some 0x10002 } { eng 0 .f64 with gs := some 3 }, .tcopy (P 1 2 4 0) (eng 0 .f64), .tstore (P 2 2 0 0) (eng 0 .f64), .tstore (P 2 2 0 0) (eng 1 .f64),
    .tfill { P 1 0 0 0 with lit := some 7 } (eng 0 .f64), .tfill (P 3 0 8 0) (eng 0 .f64), .tmov (P 1 2 0 0) (eng 0 .f64), .tmov (P 4 2 0 0) (eng 1 .f64), .tmov (P 3 2 0 0) (eng 0 .f64),
    .tfree (P 1 0 0 0) (eng 0 .f64), .tcancel (P 1 0 0 0) (eng 0 .f64), .tdef { P 9 0 0 0 with lit := some 0xF0003 } (eng 0 .f32), .tdef { P 1 0 0 0 with lit := some 0xF0003 } (eng 0 .f32),
    .twait (P 0 2 0 0) gs0, .twait (P 0 1 0 0) gs0, .twait (P 0 1 0 0) { gs0 with sub := 1 }, .twaitS32 (S 0 2 0), .tstate (P 9 2 0 0) gs0, .tstate (P 9 9 0 0) gs0, .tstateS32 (S 9 2 0),
    .tcopy (P 9 2 0 0) (eng 0 .f64), .tstore (P 5 2 0 0) (eng 0 .f64), .tfree (P 6 0 0 0) (eng 0 .f64), .tcopy (P 6 2 0 0) (eng 0 .f64)], demoTiles.issues i = true := by decide +kernel
/-- A tile that was freed while its thread waited on it. -/
theorem test_witness_tiles_lost : let s := demoTiles.upd (fun t => { t with run := .waiting { kind := .tile, obj := 9, freed := [9] } })
    s.issues (.tcopy (P 9 2 0 0) (eng 0 .f64)) = true ∧ s.me.lostTile 9 = true ∧ s.tileStruck s.me.core 9 = false ∧ demoTiles.me.lostTile 9 = false ∧ demoTiles.tileStruck 0 9 = false := by decide +kernel
theorem test_witness_tiles_origin : Claims.origin demoTiles (P 1 2 0 0) [] ∧ Claims.origin demoTiles { P 1 2 0 0 with lit := some 0x10002 } [2, 1] ∧
    ∃ l, Claims.origin demoTiles (P 1 2 4 0) l := by
  have h : demoTiles.pad? demoTiles.me.gang demoTiles.me.core = some { gang := 1, core := 0, size := 1024, dynBase := 512, dynPtr := 512, bytes := [] } := by decide +kernel
  refine ⟨rfl, rfl, (List.range 9).map (fun j => (BitVec.ofNat 32 (readNat [] ((demoTiles.me.rd 4).toNat + 4 * j) 4)).toInt), ?_⟩
  show ∃ p, demoTiles.pad? demoTiles.me.gang demoTiles.me.core = some p ∧ _
  exact ⟨_, h, by decide +kernel, by decide +kernel, by decide +kernel, by decide +kernel, rfl⟩
theorem test_witness_tiles_operands : (demoTiles.me.rd2 2).toNat % 128 = 0 ∧ (8 : Reg).toNat % 2 = 0 ∧ (8 : Reg).toNat + 2 ≤ demoTiles.me.budget ∧ demoTiles.me.full 8 = true ∧ demoTiles.me.full 9 = true ∧
    (tile 3 4 4 .f64 .empty).width = 64 ∧ (tile 1 16 4 .f32 .empty).width ≠ 64 ∧ demoTiles.me.run = .ready ∧ demoTiles.streams = [] ∧ demoTiles.matrix = [] := by decide +kernel
theorem test_witness_tiles_waits : ∀ x ∈ demoTiles.threads, ∀ w, x.run = .waiting w → w.kind ≠ .tile := by
  have h : demoTiles.threads = [demoTiles.me] := rfl
  intro x hx w hw
  rw [h] at hx
  simp only [List.mem_singleton] at hx
  subst hx
  cases (show Run.ready = .waiting w from hw)
theorem test_witness_tile_shape : Claims.shaped 0xF0003 16 4 ∧ Claims.rowPitch 32 4 = 16 ∧ (0 : Nat) + 16 * 16 ≤ 1024 ∧ demoTiles.tile? 0 9 = none := by
  unfold Claims.shaped; decide +kernel

/-! ### Witnesses: stream instructions -/

/-- g2.d and g4.d hold addresses, g6.d a scratch operand, g8.d a tile operand (tile 1), g10.d an address with the F32 mark, g12.d a reserved space. -/
def demoNest : State :=
  { demoTiles with me := (demoWith [(2, 0x10000), (4, 0x10100), (7, 0x40000000), (9, 0x80000001), (10, 0x10200), (11, 0x2000000), (13, 0xC0000000)]).me }
/-- Three levels' worth of nothing: one level of four elements, side by side, with the operands that the operation uses. -/
def nestOf (d a b : BitVec 7) (sd sa sb : Nat) : NestOps :=
  { nest1 with db := d, ab := a, bb := b, ext := 3, str := BitVec.ofNat 150 (sd + sa * 2 ^ 50 + sb * 2 ^ 100) }
def nestDA : NestOps := nestOf 1 2 0 1 1 0
def nestDAB : NestOps := nestOf 1 2 5 1 1 1
def nestA : NestOps := nestOf 8 2 0 0 1 0
def nests : List Instr :=
  [.nestCopy nestDA, .nestFill (nestOf 1 0 2 1 0 0), .nestCvt (nestOf 1 5 0 1 1 0), .nestAdd (nestOf 1 2 2 1 1 1), .nestSub (nestOf 1 2 2 1 1 1), .nestMul (nestOf 1 2 2 1 1 1), .nestFma { nestOf 1 2 2 1 1 1 with rnd := .rs },
   .nestMin (nestOf 1 2 2 1 1 1), .nestMax (nestOf 1 2 2 1 1 1), .nestAbs nestDA, .nestNeg nestDA, .nestScale (nestOf 1 2 8 1 1 0), .nestRelu nestDA, .nestExp2 nestDA, .nestTanh nestDA, .nestRcp nestDA,
   .nestRsq nestDA, .nestSum nestA, .nestSumsq nestA, .nestRmax nestA, .nestRmin nestA, .nestDot (nestOf 8 2 2 0 1 1), .nestArgmax nestA, .nestScan nestDA]
theorem nestOperand_global {s : State} {op : Nat} {o : NestOps} {k : Nat}
    (h : (if op = 3 ∧ k = 1 then (Fmt.ofCode (BitVec.ofNat 5 ((Claims.nestWord s o k).toNat / 2 ^ 57 % 32))).nestCvt (some (s.bank s.me)) = true
      else (Claims.nestWord s o k).toNat / 2 ^ 57 % 32 = 0) ∧ Claims.nestSp (Claims.nestWord s o k) = 0) : Claims.nestOperand s op o k := by
  obtain ⟨h1, h2⟩ := h
  refine ⟨?_, .inl h2⟩
  by_cases hc : op = 3 ∧ k = 1
  · simpa only [if_pos hc] using h1
  · simpa only [if_neg hc] using h1
theorem test_witness_stream : (∀ i ∈ nests, demoNest.issues i = true ∧ (match Claims.nestCode i with
      | some (op, o) => (Claims.nestMem op).all (fun k => (if op = 3 ∧ k = 1 then (Fmt.ofCode (BitVec.ofNat 5 ((Claims.nestWord demoNest o k).toNat / 2 ^ 57 % 32))).nestCvt (some (demoNest.bank demoNest.me))
          else (Claims.nestWord demoNest o k).toNat / 2 ^ 57 % 32 == 0) && Claims.nestSp (Claims.nestWord demoNest o k) == 0)
      | none => false) = true) ∧ ((demoNest.streamsOf demoNest.me.core).filter (fun x => x.st.live)).length < 32 := by decide +kernel
/-- From the scratchpad into a tile. -/
theorem test_witness_stream_places : demoNest.issues (.nestCopy (nestOf 4 3 0 1 1 0)) = true ∧ Claims.nestOperand demoNest 1 (nestOf 4 3 0 1 1 0) 0 ∧ Claims.nestOperand demoNest 1 (nestOf 4 3 0 1 1 0) 1 := by
  have hn : (nestOf 4 3 0 1 1 0).nlev.toNat = 1 := rfl
  have he : (nestOf 4 3 0 1 1 0).extent 0 = 4 := by decide
  have h0 : (nestOf 4 3 0 1 1 0).stride 0 0 = 1 := by decide
  have h1 : (nestOf 4 3 0 1 1 0).stride 1 0 = 1 := by decide
  refine ⟨by decide +kernel, ⟨by decide +kernel, .inr (.inr ⟨by decide +kernel, by decide +kernel, tile 1 16 4 .f32 .empty, owns_of (by decide +kernel) rfl (by decide +kernel), ?_,
    loose_of (by decide +kernel), by decide⟩)⟩, ⟨by decide +kernel, .inr (.inl ⟨by decide +kernel, by decide +kernel, { gang := 1, core := 0, size := 1024, dynBase := 512, dynPtr := 512, bytes := [] },
    by decide +kernel, ?_⟩)⟩⟩
  · intro x hx
    have hw : (Claims.nestWord demoNest (nestOf 4 3 0 1 1 0) 0).toNat % 2 ^ 32 = 0 := by decide +kernel
    have hs : Fmt.bits (demoNest.bank demoNest.me) .f32 / 8 = 4 := by decide +kernel
    have hp : (tile 1 16 4 .f32 .empty).rows * Claims.rowPitch (tile 1 16 4 .f32 .empty).width (tile 1 16 4 .f32 .empty).cols = 256 := by decide
    have hb : (tile 1 16 4 .f32 .empty).base = 0 := rfl
    rw [hn] at hx
    have := hx 0 (by omega)
    rw [he] at this
    simp only [if_neg (show ¬ (1 = 3 ∧ 0 = 1) by decide), show (nestOf 4 3 0 1 1 0).ty = .f32 from rfl, hs, hn, hw, hp, hb, List.range_succ, List.range_zero, List.nil_append, List.map_cons, List.map_nil, List.sum_cons,
      List.sum_nil, h0]
    omega
  · intro x hx
    have hw : (Claims.nestWord demoNest (nestOf 4 3 0 1 1 0) 1).toNat % 2 ^ 32 = 0 := by decide +kernel
    have hs : Fmt.bits (demoNest.bank demoNest.me) .f32 / 8 = 4 := by decide +kernel
    rw [hn] at hx
    have := hx 0 (by omega)
    rw [he] at this
    simp only [if_neg (show ¬ (1 = 3 ∧ True) by decide), show (nestOf 4 3 0 1 1 0).ty = .f32 from rfl, hs, hn, hw, List.range_succ, List.range_zero, List.nil_append, List.map_cons, List.map_nil, List.sum_cons, List.sum_nil, h1]
    omega
theorem test_witness_stream_space : demoNest.issues (.nestCopy (nestOf 6 2 0 1 1 0)) = true ∧ Claims.nestSp (Claims.nestWord demoNest (nestOf 6 2 0 1 1 0) 0) = 3 := by decide +kernel
def nestCmd (st : CmdSt) : StreamCmd :=
  { id := 4, core := 0, uid := 1, pc := 0, op := 1, o := nestDA, dw := 0, aw := 0, bw := 0, fcr := 0, tag := none, tile := none, prior := .empty, srcs := [], done := 0, acc := [], flags := 0, st := st }
theorem test_witness_stream_sync : ∀ st ∈ [CmdSt.dead, .queued, .faulted { cause := 16, faddr := 0, code := 3, elem := 0 }],
    ({ demoNest with streams := [nestCmd st] } : State).issues (.ssync (P 0 0 0 0) (fp .f64)) = true ∧ ({ demoNest with streams := [nestCmd st] } : State).issues (.ssyncS32 (S 0 0 0)) = true ∧
    (nestCmd st).uid = demoNest.me.uid := by decide +kernel

/-! ### Witnesses: matrix instructions -/

/-- The demo's gang holds slate 1; its group has bound handle 2; 32-bit results, 16 rows of A, a scale tile, F64 tiles, an index tile. -/
def demoMat : State :=
  { demoTiles with
    tiles := [tile 10 16 48 .f16 .ready, tile 11 16 1 .e8m0 .ready, tile 12 48 16 .e4m3 .ready, tile 13 12 16 .e4m3 .ready, tile 14 12 16 .n8 .ready, tile 15 16 16 .f32 .empty,
      tile 16 16 16 .f32 .ready, tile 17 4 5 .f64 .empty, tile 18 4 3 .f64 .ready, tile 19 3 5 .f64 .ready, tile 20 1 16 .e8m0 .ready],
    binds := [{ id := 2, core := 0, g := { gang := 1, role := 0, gid := 0 }, h := 2, acc := 3, leaving := false }],
    accs := [{ core := 0, id := 3, val := [], chk := [], mag := [], g := 0, of := { gang := 1, role := 0, gid := 0 }, handle := 2 }] }
theorem assembled_of {s : State} {data : List Dword} {ps : Parts} (g : Group) (h : s.group? s.me = some g) (hw : g.started.toNat + 1 = 2 ^ g.width) (ho : s.others = [])
    (hi : s.instance_ g.started = []) (hp : s.participants .matrix g.started false data = some ps) (hd : ps.all (fun p => p.2.2.headD 0 == data.headD 0) = true) : Claims.assembled s data ps := by
  refine ⟨g, h, hw, ?_, ?_, hp, ?_⟩
  · rw [ho]; intro t ht; cases ht
  · rw [hi]; intro t ht; cases ht
  · intro p hp; exact eq_of_beq (List.all_eq_true.1 hd p hp)
theorem test_witness_assembled : ∀ d ∈ [([0] : List Dword), [16], [0, 16]], Claims.assembled demoMat d [(1, 0, d)] := by
  intro d hd
  simp only [List.mem_cons, List.not_mem_nil, or_false] at hd
  rcases hd with rfl | rfl | rfl <;>
    exact assembled_of { bareGroup 1 with width := 1 } (by decide +kernel) (by decide +kernel) rfl (by decide +kernel) (by decide +kernel) (by decide +kernel)
theorem stands_of {s : State} {l : List (Nat × Bool)} (h : l.all (fun x => match s.tile? s.me.core x.1 with
      | some t => decide (t.gang = s.me.gang) && ((s.tileFault x.1).isNone && !s.me.lostTile x.1 && !s.tileStruck s.me.core x.1) && (if x.2 then looseB s x.1 t else decide (t.st = .ready))
      | none => false) = true) : Claims.tilesStand s l := by
  intro x hx
  have := List.all_eq_true.1 h x hx
  cases ht : s.tile? s.me.core x.1 with
  | none => rw [ht] at this; cases this
  | some t =>
    rw [ht] at this
    rw [Bool.and_eq_true, Bool.and_eq_true, decide_eq_true_eq] at this
    refine ⟨t, owns_of ht this.1.1 this.1.2, ?_⟩
    cases hb : x.2
    · simpa [hb] using this.2
    · simpa [hb] using loose_of (by simpa [hb] using this.2)
theorem scale_none {s : State} {r : Reg} {a b : Nat} (h : Claims.scaleOf r = none) : Claims.scaleFits s r a b := by
  intro id hi; rw [h] at hi; cases hi
def fullSlate : SlateDesc := { tile := 6, idx := none, scale := none, fmt := .e4m3, desc := 0, k := 48, n := 16, sp := 0 }
theorem product_demo (d c : Reg) (m : EngMod) (reads : Bool) (hm : m = eng 0 .f64 ∨ m = eng 1 .f64) (hc : Claims.scaleFits demoMat c 16 1) (hr : reads = true → d = 2) :
    Claims.product demoMat (P d 10 1 c) m reads fullSlate := by
  have hb : (demoMat.bound? demoMat.me.gkey 2).isSome = true := by decide +kernel
  refine ⟨⟨_, (by decide +kernel : demoMat.slate? demoMat.me.core 1 = some { Slate.fresh 0 1 with claim := some 1, pins := [6], want := some fullSlate }), rfl, rfl, rfl⟩, ?_, ?_, ?_, ?_, ?_, hc⟩
  · intro h; rw [show (P d 10 1 c).d = d from rfl, hr h]; exact hb
  · rcases hm with rfl | rfl
    · exact ⟨16, 8, (by decide +kernel : aWidth (Claims.inFormat demoMat (eng 0 .f64) (Claims.tileAt demoMat 10)).1 0 = some 16), by decide +kernel, by decide⟩
    · exact ⟨16, 8, (by decide +kernel : aWidth (Claims.inFormat demoMat (eng 1 .f64) (Claims.tileAt demoMat 10)).1 0 = some 16), by decide +kernel, by decide⟩
  · rcases hm with rfl | rfl
    · exact (by decide +kernel : Claims.fits (Claims.inFormat demoMat (eng 0 .f64) (Claims.tileAt demoMat 10)) (Claims.tileAt demoMat 10) = true)
    · exact (by decide +kernel : Claims.fits (Claims.inFormat demoMat (eng 1 .f64) (Claims.tileAt demoMat 10)) (Claims.tileAt demoMat 10) = true)
  · show (Claims.tileAt demoMat 10).rows = 16; decide +kernel
  · show (Claims.tileAt demoMat 10).cols = 48; decide +kernel
theorem test_witness_mma : Claims.product demoMat (P 3 10 1 0) (eng 0 .f64) false fullSlate ∧ Claims.bindable demoMat 3 ∧ Claims.tilesStand demoMat [(10, false)] ∧
    Claims.product demoMat (P 2 10 1 75) (eng 1 .f64) true fullSlate ∧ Claims.tilesStand demoMat [(10, false), (11, false)] := by
  refine ⟨product_demo 3 0 _ false (.inl rfl) (scale_none (by decide)) (by decide), .inr (by decide +kernel), stands_of (by decide +kernel), product_demo 2 75 _ true (.inr rfl) ?_ (by decide), stands_of (by decide +kernel)⟩
  intro id hi t ht
  have h : Claims.scaleOf 75 = some 11 := by decide
  rw [h] at hi; cases hi
  have h2 : demoMat.tile? demoMat.me.core 11 = some (tile 11 16 1 .e8m0 .ready) := by decide +kernel
  rw [h2] at ht; cases ht
  exact ⟨rfl, rfl, rfl⟩
theorem test_witness_matrix : demoMat.uncancelled = true ∧ (demoMat.matrixOf demoMat.me.core).length < 32 ∧ ∀ i ∈ [
    Instr.mma (P 3 10 1 0) (eng 0 .f64), .mma (P 2 10 1 75) { eng 1 .f64 with gs := some 3 }, .mmaJ (P 2 10 1 0) (eng 1 .f64), .mmaF64 (P 17 18 19 0) (eng 0 .f64), .slateLd (P 0 12 0 0) (eng 0 .f64),
    .slateLd (P 0 12 0 84) (eng 0 .f64), .slateSp (P 0 13 14 0) (eng 0 .f64), .slateRel (P 1 0 0 0) (eng 0 .f64), .epi (P 15 2 4 0) (eng 0 .f64), .accWr (P 3 16 0 0) (eng 0 .f64), .accZero (P 3 0 0 0) (eng 0 .f64),
    .accZeroFree (P 2 0 0 0) (eng 1 .f64), .accRd (P 9 2 4 0) (eng 0 .f64), .accRd (P 9 3 0 0) (eng 2 .f64), .mstat (P 8 0 0 0) (eng 0 .f64), .mstatNow (P 8 0 0 0) (eng 1 .f64)],
    demoMat.issues i = true ∧ demoMat.hasUnit i = true := by decide +kernel
theorem test_witness_matrix_tiles : Claims.tilesStand demoMat [(17, true), (18, false), (19, false)] ∧ Claims.tilesStand demoMat [(12, false)] ∧ Claims.tilesStand demoMat [(13, false), (14, false)] ∧
    Claims.tilesStand demoMat [(15, true)] ∧ Claims.tilesStand demoMat [(16, false)] :=
  ⟨stands_of (by decide +kernel), stands_of (by decide +kernel), stands_of (by decide +kernel), stands_of (by decide +kernel), stands_of (by decide +kernel)⟩
theorem test_witness_matrix_conditions : (∀ n, Claims.matNeed demoMat (.mmaF64 (P 17 18 19 0) (eng 0 .f64)) = some n → n.ok) ∧
    (∀ n, Claims.matNeed demoMat (.slateLd (P 0 12 0 0) (eng 0 .f64)) = some n → n.ok) ∧ (∀ n, Claims.matNeed demoMat (.slateSp (P 0 13 14 0) (eng 0 .f64)) = some n → n.ok) ∧
    (∀ n, Claims.matNeed demoMat (.epi (P 15 2 4 0) (eng 0 .f64)) = some n → n.ok) ∧ (∀ n, Claims.matNeed demoMat (.accWr (P 3 16 0 0) (eng 0 .f64)) = some n → n.ok) ∧
    (∀ n, Claims.matNeed demoMat (.accZero (P 3 0 0 0) (eng 0 .f64)) = some n → n.ok) ∧ (∀ n, Claims.matNeed demoMat (.slateRel (P 1 0 0 0) (eng 0 .f64)) = some n → n.ok) := by
  have hc : Claims.claimable demoMat 0 := ⟨Slate.fresh 0 0, by decide +kernel, .inl rfl⟩
  have hbind : Claims.bindable demoMat 3 := .inr (by decide +kernel)
  refine ⟨?_, ?_, ?_, ?_, ?_, ?_, ?_⟩ <;> intro n hn <;> cases hn
  · exact (by decide +kernel : let d := Claims.tileAt demoMat 17; let a := Claims.tileAt demoMat 18; let b := Claims.tileAt demoMat 19
      d.fmt = .f64 ∧ a.fmt = .f64 ∧ b.fmt = .f64 ∧ d.rows = a.rows ∧ d.cols = b.cols ∧ a.cols = b.rows ∧ d.rows ≤ 64 ∧ d.cols ≤ 64 ∧ a.cols ≤ 1024)
  · exact ⟨⟨8, by decide +kernel, by decide +kernel, by decide +kernel⟩, by decide +kernel, by decide +kernel, scale_none (by decide), hc⟩
  · exact ⟨⟨8, by decide +kernel, by decide +kernel, by decide +kernel⟩, by decide +kernel, by decide +kernel, by decide +kernel, by decide +kernel, by decide +kernel, scale_none (by decide), hc⟩
  · exact ⟨by decide +kernel, ⟨{ gang := 1, core := 0, size := 1024, dynBase := 512, dynPtr := 512, bytes := [] }, by decide +kernel, by decide +kernel⟩, by decide +kernel, by decide +kernel, by decide +kernel, by decide +kernel, by decide +kernel⟩
  · exact ⟨by decide +kernel, by decide +kernel, by decide +kernel, hbind⟩
  · exact hbind
  · exact ⟨⟨{ Slate.fresh 0 1 with claim := some 1, pins := [6], want := some fullSlate }, by decide +kernel, rfl⟩, by decide +kernel, by decide +kernel⟩
/-- Four groups on the cores of a quad, for the joint product. -/
def demoQuad : State := { demoMat with groups := (List.range 4).map (fun q => { bareGroup 1 with width := 1, gid := q, core := q }) }
theorem test_witness_quad : Claims.quad demoQuad ∧ demoQuad.issues (.mmaJ (P 2 10 1 0) (eng 1 .f64)) = true ∧ Claims.assembled demoQuad [0] [(1, 0, [0])] ∧ Claims.tilesStand demoQuad [(10, false)] := by
  refine ⟨⟨0, ?_⟩, by decide +kernel, assembled_of { bareGroup 1 with width := 1 } (by decide +kernel) (by decide +kernel) rfl (by decide +kernel) (by decide +kernel) (by decide +kernel), stands_of (by decide +kernel)⟩
  intro q hq
  refine ⟨{ bareGroup 1 with width := 1, gid := q, core := q }, ?_, by show q = 4 * 0 + q; omega⟩
  match q, hq with
  | 0, _ | 1, _ | 2, _ | 3, _ => decide +kernel
/-- A core of class C has no matrix unit; a slate of the gang is not claimed; a command is queued. -/
theorem test_witness_matrix_none : ({ demo with cores := [{ demoCore with cls := some .c }] } : State).hasMatrix 0 = false ∧ needsUnit (.mma (P 3 10 1 0) (eng 0 .f64)) = true ∧
    demoMat.issues (.mma (P 3 10 0 0) (eng 0 .f64)) = true ∧ demoMat.slate? 0 0 = some (Slate.fresh 0 0) ∧ (Slate.fresh 0 0).claim ≠ some demoMat.me.gang ∧
    (demoMat.bound? demoMat.me.gkey 2).isSome = true ∧ demoMat.bound? demoMat.me.gkey 3 = none := by decide +kernel
def accCmd : MatCmd :=
  { id := 4, core := 0, g := { gang := 1, role := 0, gid := 0 }, uid := 1, pc := 0, gs := none, op := .accZero, h := 2, slate := 2, out := none, t1 := 64, t2 := 64, scale := none, fmt := .f32, off := 0, desc := none, prior := .empty,
    turn := 0, trig := none, done := 0 }
def demoBusy : State := { demoMat with matrix := [accCmd] }
theorem test_witness_matrix_busy : (∃ c ∈ demoBusy.matrix, c.g = demoBusy.me.gkey) ∧ demoBusy.issues (.mstat (P 8 0 0 0) (eng 0 .f64)) = true ∧ (∃ c ∈ demoBusy.matrix, c.g = demoBusy.me.gkey ∧ c.h = 2 ∧ c.id < 10) ∧
    (demoMat.group? demoMat.me).map (·.qturn) = some 0 ∧ (∀ c ∈ demoMat.matrix, c.g ≠ demoMat.me.gkey) ∧ (∀ x ∈ demoMat.shadows, x.g ≠ demoMat.me.gkey) ∧
    demoMat.boundAt? demoMat.me.gkey 2 10 = some { id := 2, core := 0, g := { gang := 1, role := 0, gid := 0 }, h := 2, acc := 3, leaving := false } ∧ (demoMat.acc? 0 3).isSome = true := by decide +kernel
def demoReset : State := { demoMat with cores := [demoCore, { demoCore with id := 1, cls := some .c }, { demoCore with id := 2, cls := none }], me := (demoWith [(4, 1), (5, 2), (6, 256)]).me }
theorem test_witness_mreset : ∀ r ∈ [(0 : Reg), 4, 5, 6], demoReset.issues (.mreset (P 9 r 0 0) (eng 0 .f64)) = true ∧ demoReset.hasMatrix 0 = true ∧
    (∃ c, c ∈ demoReset.core? 1 ∧ c.cls = some .c) ∧ (∀ c ∈ demoReset.core? 2, c.cls = none) ∧ 256 ≤ (demoReset.me.rd 6).toNat := by decide +kernel

/-! ### Witnesses: regions, stage graphs, launches -/

def node1 : Node :=
  { lb := 0x20100, blk := launchBlockOf 0x20100 0 [], rsz := 32, maxd := 8, pad := false, en := true, replay := false, thr := 4, timer := 0, classes := 15, qlog2 := 4, qbase := 0x110000,
    nrec := 0, ngang := 0, ntimer := 0 }
/-- Region 1 has a node and a pool; 2, 3 and 6 are its children, 4 and 7 theirs, and 5 is another root. A job card of one record stands at 0x20000, its launch block at 0x20100, and a card that names no block at 0x20040. -/
def demoGraph : State :=
  { demoWith [(2, 0x10000), (4, 16), (5, 64), (6, 0x10004), (8, 0x20000), (10, 0x20040), (12, 0x30000), (14, 0x30040)] with
    regions := [{ bareRegion 1 0x10000 with handler := 0x1000, nodes := [node1], pool := 0x100000, poolb := 0x100000 }, { bareRegion 2 0 with parent := 1, state := .halted }, { bareRegion 3 0 with parent := 1 },
      { bareRegion 4 0 with parent := 3, state := .quiescing }, bareRegion 5 0, { bareRegion 6 0 with parent := 1, state := .dead }, { bareRegion 7 0 with parent := 6 }],
    mem := writeBytes (writeBytes (writeBytes [] 0x20000 (natBytes 64 (0x20100 + 2 ^ 128 + 5 * 2 ^ 165))) 0x20040 (natBytes 64 0x20200)) 0x20100 (natBytes 256 (2 ^ 64 + 15 * 2 ^ 512)) }
def at_ (d a : Reg) (n : Word) : LOps := { P d a 0 0 with lit := some n }
theorem test_witness_region_control : ∀ i ∈ [
    Instr.cancel (at_ 9 0 5) (ctl 0 0), .cancel (at_ 9 0 4) (ctl 0 0), .quiesce (at_ 9 0 2) (ctl 0 0), .quiesce (P 9 0 0 0) (ctl 0 0), .resume (at_ 9 0 6) (ctl 0 0), .nodeCtlOff (at_ 9 0 0) (ctl 0 0),
    .nodeCtlOn (at_ 9 0 0) (ctl 1 0), .nodeCtlFlush (at_ 9 0 0) (ctl 2 0), .nodeCtlOn (at_ 9 0 1) (ctl 1 0), .regionFree (at_ 9 0 5) (ctl 0 0), .regionFree (P 9 0 0 0) (ctl 0 0), .regionFree (at_ 9 0 3) (ctl 0 0),
    .regionFree (at_ 9 0 6) (ctl 0 0), .regionFree (at_ 9 0 2) (ctl 0 0), .qstat (at_ 20 0 0) (ctl 0 0), .qstat (at_ 20 0 3) (ctl 0 7), .qstat (at_ 20 0 5) (ctl 0 8)], demoGraph.issues i = true := by decide +kernel
theorem test_witness_regions : ∀ x ∈ [(1, true), (2, true), (3, true), (4, true), (5, false), (6, true)], (demoGraph.region? x.1).isSome = true ∧ demoGraph.reaches (demoGraph.regionNum demoGraph.me) x.1 = x.2 := by decide +kernel
theorem test_witness_region_kinds : (∀ y ∈ demoGraph.regions, y.parent ≠ 2) ∧ (∀ y ∈ demoGraph.regions, y.parent ≠ 4) ∧ (∃ y ∈ demoGraph.regions, y.parent = 6) ∧ (demoGraph.region? 2).map (·.state) = some .halted ∧
    (demoGraph.region? 3).map (·.state) = some .active ∧ (demoGraph.region? 6).map (·.state) = some .dead ∧ demoGraph.regionNum demoGraph.me = 1 ∧ Claims.nodeAt demoGraph 0 = some node1 ∧ Claims.nodeAt demoGraph 1 = none ∧
    demoGraph.batches = [] := by decide +kernel
def emit (n : Word) (a c : Reg) : LOps := { P 0 a 0 c with lit := some n }
theorem test_witness_emit : demoGraph.uncancelled = true ∧ ∀ i ∈ [Instr.emit (emit 0 2 4) (ctl 0 0), .emit (emit 1 2 4) (ctl 0 0), .emit (emit 0 2 5) (ctl 0 0), .emit (emit 0 6 4) (ctl 0 0), .emitTry { emit 0 2 0 with d := 9 } (ctl 0 7),
    .emitTry { emit 1 2 4 with d := 9 } (ctl 0 7)], demoGraph.issues i = true := by decide +kernel
theorem test_witness_emit_operands : (node1.rsz < (demoGraph.me.rd 5).toNat) ∧ (demoGraph.me.rd 4).toNat ≤ node1.rsz ∧ (demoGraph.me.rd2 2).toNat % 16 = 0 ∧ (demoGraph.me.rd2 6).toNat % 16 ≠ 0 ∧
    found (demoGraph.locate .glb 0 (demoGraph.me.rd2 2) 16 false .read true) (fun q => q.space == .glb) = true := by decide +kernel
/-- The demo's region in each state in which its node refuses a record. -/
theorem test_witness_emit_refused : ∀ x ∈ [(RState.cancelling, true, 8, 0x100000, 3), (.active, false, 8, 0x100000, 4), (.active, true, 0, 0x100000, 2), (.active, true, 8, 0, 1), (.active, true, 8, 0x100000, 0)],
    Claims.reason { demoGraph with regions := [{ bareRegion 1 0x10000 with state := x.1, nodes := [{ node1 with en := x.2.1, maxd := x.2.2.1 }], pool := 0x100000, poolb := x.2.2.2.1 }] }
      { bareRegion 1 0x10000 with state := x.1, nodes := [{ node1 with en := x.2.1, maxd := x.2.2.1 }], pool := 0x100000, poolb := x.2.2.2.1 } 0 1 { node1 with en := x.2.1, maxd := x.2.2.1 } = x.2.2.2.2 ∧
    Claims.emitDepth demoGraph = 1 := by decide +kernel
theorem test_witness_emit_slot : (match demoGraph.slotFor 1 0 1 node1 with
      | some (slot, some b) => (match demoGraph.locate .glb 0 (BitVec.ofNat 64 slot) 32 false .write false with
        | .ok (⟨.glb, dst, 0⟩, u) => dst == [(slot, 32)] && (u.admits { Claims.atPoint u (.store false) .glb dst .dev .rel with id := u.fresh + 1, tag := some b.id }).isSome && u.batches == []
        | _ => false)
      | _ => false) = true ∧ demoGraph.memoriesWf := by
  refine ⟨by decide +kernel, ?_⟩; unfold State.memoriesWf; decide +kernel
/-- A card and a launch block as `LAUNCH.JOB` reads them, in region `r`. -/
def card (s : State) (a : Dword) (p : Nat → LaunchBlock → Nat → State → Bool) : Bool :=
  match s.readRuns a 1 [] with
  | .ok (bs, t) => (match t.readLb (BitVec.ofNat 64 (bytesNat bs % 2 ^ 64)) with | .ok (lb, nt, u) => p (bytesNat bs) lb nt u | .error _ => false)
  | .error _ => false
theorem test_witness_launch : demoGraph.busy = false ∧ ∀ i ∈ [Instr.launchJob (at_ 9 2 5) (ctl 0 0), .launchJob (at_ 9 6 0) (ctl 0 0), .launchJob (at_ 9 8 0) (ctl 0 0), .launchJob (at_ 9 10 0) (ctl 0 0), .launchJob (at_ 9 8 2) (ctl 0 0)],
    demoGraph.issues i = true := by decide +kernel
theorem test_witness_launch_card : card demoGraph 0x20000 (fun c lb nt u => decide (1 ≤ c / 2 ^ 128 % 2 ^ 32 ∧ 2 ≤ c / 2 ^ 165 % 8 ∧ c / 2 ^ 64 % 2 ^ 64 % 16 = 0 ∧ c / 2 ^ 192 % 2 ^ 64 % 8 = 0) && lb.valid nt 15 (c.testBit 164) && u.cards == [] &&
      (u.admits { Claims.atPoint u .fence .glb [] .dev .rel with id := u.fresh + 1 }).isSome) = true ∧
    card demoGraph 0x20040 (fun c _ _ _ => !decide (1 ≤ c / 2 ^ 128 % 2 ^ 32)) = true ∧ (demoGraph.region? 1).map (fun x => (x.state, x.classes)) = some (.active, 15) := by decide +kernel
/-- `LAUNCH.JOB` by a region whose queue is full. -/
def demoCards : State := { demoGraph with cards := List.replicate 64 { id := 1, region := 1, uid := 1, lb := launchBlockOf 0 0 [], args := 0, n := 1, stride := 16, pad := false, dscope := 5, done := 0, dealt := 0, chunks := 0, live := 0 } }
theorem test_witness_launch_full : card demoCards 0x20000 (fun _ _ _ u => decide (64 ≤ (u.cards.filter (fun y => y.region = 1)).length)) = true ∧ demoCards.issues (.launchJob (at_ 9 8 0) (ctl 0 0)) = true := by decide +kernel
/-- R323: the card of one record that the host launches is accepted, and one without records is answered with 4. -/
theorem test_host_launch : ∀ x ∈ [(0x20000, [1], [(0 : Byte), 0, 0, 0]), (0x20040, [], [4, 0, 0, 0])],
    (match execJokebryRegisterWrite 0 5 x.1 { demoGraph with cards := [], vifs := [{ Vif.fresh 0 with root := some 1 }] } with
    | .next t => (t.cards.map (·.n), t.answer)
    | _ => ([], [])) = x.2 := by decide +kernel
/-- An image of zeros, which takes everything from its parent. -/
def image (s : State) (p : State → List (Node × Nat) → Region → Bool) : Bool :=
  match s.readRuns (s.me.rd2 12) 4 [] with
  | .ok (bs, t) => (match t.readNodes (BitVec.ofNat 64 (bytesNat bs / 2 ^ 832 % 2 ^ 64)) (bytesNat bs / 2 ^ 816 % 2 ^ 16) [] with
    | .ok (nodes, u) => !(bytesNat bs).testBit 87 && (match u.regionOf u.me with
      | some x => p u nodes (inherit_ (Sys2Proof.Machine.regionOf u.freeNum x.num x.vif (s.me.rd2 12) (bytesNat bs) (nodes.map (·.1)) []) x)
      | none => false)
    | .error _ => false)
  | .error _ => false
theorem test_witness_region_new : demoGraph.issues (.regionNew (P 20 12 0 0) (ctl 0 0)) = true ∧ demoGraph.issues (.regionNew (P 20 14 0 0) (ctl 0 0)) = true ∧ (demoGraph.me.rd2 12).toNat % 256 = 0 ∧ (demoGraph.me.rd2 14).toNat % 256 ≠ 0 ∧
    image demoGraph (fun u nodes r => match u.regionOf u.me with | some p => (match u.checkRegion p r nodes none with | .ok _ => true | .error _ => false) | none => false) = true := by decide +kernel
theorem test_witness_region_legal : image demoGraph (fun u nodes r => match u.regionOf u.me with
    | some p => p.state == .active && imageOk r && nodes.isEmpty && !r.sys && ptValid r.ptel && u.budgetOk r && decide (u.regions.length < 4096) && (u.carve r).isSome
    | none => false) = true := by decide +kernel
theorem test_witness_region_new_refused : let s : State := { demoGraph with regions := [{ bareRegion 1 0x10000 with state := .quiescing }] }
    s.issues (.regionNew (P 20 12 0 0) (ctl 0 0)) = true ∧
    image s (fun u nodes r => match u.regionOf u.me with | some p => (match u.checkRegion p r nodes none with | .ok _ => false | .error c => c == 2) | none => false) = true := by decide +kernel
theorem test_witness_region_checks : (bareRegion 1 0).state = .active ∧ imageOk { bareRegion 2 0 with ovr := 1, cores := 0 } = false ∧ ptValid { bareRegion 2 0 with ptel := 0 }.ptel = false := by decide +kernel

/-! ### Witnesses: parcels, remote memory, rounds, time -/

def parcel (n : Nat) (st : PState) (region : Nat) : Parcel :=
  { num := n, gen := 7, st := st, lsz := 16, region := region, base := 0x400000 + 0x10000 * n, map := if n = 1 then [8, 10] else [], schip := 1, dchip := 0, dwin := 0, key := 0, sealing := none, charge := 1, dropped := false }
def window (n region : Nat) (arr : List Nat) (count : Nat) : Window :=
  { num := n, region := region, base := 0x10000, size := 4096, key := 0, rights := 15, nq := 0x12000, nqlog2 := 4, asid := 1, frames := [0x10000], qframes := [0x12000], broken := false, arrivals := arr, head := 0, count := count }
/-- Parcels in each state (1 `OPEN` with two marked words, 2 `SEALED`, 3 `IN_TRANSIT`, 4 `ARRIVED`, 5 `RETURNED`, 6 of a child region), windows with and without arrivals and notifications, a route to module 2;
g20.d to g28.d hold handles of 1 to 5, g30.d to g34.d destinations, g36.d to g42.d refused handles. -/
def demoPar : State :=
  { demoGraph with
    me := (demoWith [(2, 0x20), (4, 16), (5, 1), (6, 2), (7, 99), (8, 0x20000), (10, 0x20010), (12, 0x40000), (14, 0x40040), (16, 0x40080), (18, 0x123), (20, 0x1000007), (21, 0x10000), (22, 0x2000007), (23, 0x10000), (24, 0x3000007), (25, 0x10000),
      (26, 0x4000007), (27, 0x10000), (28, 0x5000007), (29, 0x10000), (30, 9), (31, 0x20030), (32, 9), (33, 0x50000), (34, 9), (35, 1), (36, 0x1000007), (37, 0x20000), (38, 0x50000007), (39, 0x10000), (40, 0x1000008), (41, 0x10000),
      (42, 0x6000007), (43, 0x10000), (44, 0x1000000), (45, 0x40000000)]).me
    parcels := [parcel 1 .opened 1, parcel 2 .sealed 1, parcel 3 .inTransit 1, parcel 4 .arrived 1, parcel 5 .returned 1, parcel 6 .opened 2], heap := 0x400000, heapSize := 0x400000, routes := [2],
    windows := [window 0 1 [] 0, window 1 1 [4] 2, window 2 5 [] 0],
    mem := writeBytes (writeBytes (writeBytes (writeBytes [] 0x410040 (natBytes 8 (2 ^ 63 + 128))) 0x410050 (natBytes 8 (2 ^ 63 + 8))) 0x40000 (natBytes 64 (0x10000 + 4096 * 2 ^ 64)))
      0x40040 (natBytes 64 (0x10000 + 4096 * 2 ^ 64 + 5 * 2 ^ 128)) }
def par (sub : BitVec 4) : SyncMod := syn sub .glb .n32 .th .rlx
theorem test_witness_parcels : ∀ i ∈ [
    Instr.pclNew (P 60 4 0 0) (par 0), .pclNew (P 60 0 0 0) (par 0), .pclFree (P 0 20 0 0) (par 0), .pclFree (P 0 24 0 0) (par 0), .pclFree (P 0 36 0 0) (par 0), .seal (P 0 20 0 0) (par 0), .seal (P 0 22 0 0) (par 0),
    .seal (P 0 26 0 0) (par 0), .post (P 60 22 0 30) (par 0), .post (P 60 22 0 32) (par 0), .post (P 60 22 0 34) (par 0), .post (P 60 20 0 30) (par 0), .postNb (P 0 22 0 30) (par 1), .postNb (P 0 38 0 30) (par 1), .accept (P 60 0 0 0) (par 0),
    .accept (P 60 5 0 0) (par 0), .acceptTry (P 60 0 0 0) (par 1), .acceptTry (P 60 7 0 0) (par 1), .acceptTry (P 60 6 0 0) (par 1), .acceptBack (P 60 28 0 0) (par 2), .acceptBack (P 60 22 0 0) (par 2), .pclStat (P 60 20 0 0) (par 0),
    .pclStat (P 60 36 0 0) (par 1), .pclStat (P 60 38 0 0) (par 2)], demoPar.issues i = true := by decide +kernel
theorem test_witness_parcel_new : demoPar.newParcel 1 16 = some (7, 0x400000, 1) ∧ demoPar.newParcel 1 0 = none := by decide +kernel
theorem test_witness_parcel_memory : demoPar.memoriesWf := by unfold State.memoriesWf; decide +kernel
theorem test_witness_handles : ∀ x ∈ [((20 : Reg), (none : Option Nat)), (22, none), (24, none), (26, none), (28, none), (36, some 1), (38, some 2), (40, some 3), (42, some 4)], Claims.handleFault demoPar (demoPar.me.rd2 x.1) = x.2 := by decide +kernel
theorem test_witness_parcel_states : ∀ x ∈ [((20 : Reg), PState.opened), (22, .sealed), (24, .inTransit), (26, .arrived), (28, .returned)], (Claims.theParcel demoPar (demoPar.me.rd2 x.1)).st = x.2 ∧
    (Claims.theParcel demoPar (demoPar.me.rd2 x.1)).sealing = none ∧ demoPar.ops = [] := by decide +kernel
theorem test_witness_destinations : ∀ x ∈ [((30 : Reg), true, true), (32, true, false), (34, false, false)], (demoPar.me.rd2 x.1).toNat / 2 ^ 32 % 16 = 0 ↔ x.2.1 = true := by decide +kernel
theorem test_witness_routes : demoPar.routes.contains ((demoPar.me.rd2 30).toNat / 2 ^ 48) = true ∧ demoPar.routes.contains ((demoPar.me.rd2 32).toNat / 2 ^ 48) = false ∧ demoPar.posts = [] := by decide +kernel
theorem test_witness_windows : ∀ x ∈ [((0 : Reg), some (window 0 1 [] 0), true), (5, some (window 1 1 [4] 2), true), (6, some (window 2 5 [] 0), false), (7, none, false)], Claims.windowIn demoPar x.1 = x.2.1 ∧
    ∀ w ∈ x.2.1, demoPar.reaches w.region (demoPar.regionNum demoPar.me) = x.2.2 := by decide +kernel
/-- An unbound `POST` that has its outcome, and a `SEAL` whose release has been confirmed. -/
def demoPosted : State := { demoPar with posts := [{ uid := 1, num := 3, status := some 0 }], parcels := [{ parcel 2 .sealed 1 with sealing := some (1, some 99) }] }
theorem test_witness_outcome : demoPosted.issues (.post (P 60 22 0 30) (par 0)) = true ∧ demoPosted.posts.find? (fun y => y.uid = demoPosted.me.uid) = some { uid := 1, num := 3, status := some 0 } ∧
    demoPosted.issues (.seal (P 0 22 0 0) (par 0)) = true ∧ (Claims.theParcel demoPosted (demoPosted.me.rd2 22)).sealing = some (demoPosted.me.uid, some 99) ∧ demoPosted.ops = [] ∧ demoPosted.holds = [] := by decide +kernel

def ref (d a b c : Reg) (off : Word) : LOps := { P d a b c with lit := some off }
theorem test_witness_references : ∀ x ∈ [(Instr.stPref (ref 0 20 0 18 64) (mem .par 3), true), (.stPref (ref 0 20 0 44 64) (mem .par 3), false), (.ldPref (ref 60 20 0 0 64) (mem .par 3), true), (.ldPref (ref 60 20 0 0 72) (mem .par 3), true),
    (.ldPref (ref 60 20 0 0 80) (mem .par 3), true)], demoPar.issues x.1 = true ∧ ((demoPar.me.rd2 18).toNat < 2 ^ 48 ∧ 2 ^ 48 ≤ (demoPar.me.rd2 44).toNat) := by decide +kernel
/-- A marked word whose offset lies in the body, one that is not marked, and one whose offset does not. -/
theorem test_witness_reference_words : ∀ x ∈ [((64 : Dword), true, 2 ^ 63 + 128), (72, false, 0), (80, true, 2 ^ 63 + 8)],
    found (demoPar.locate .par (demoPar.me.rd2 20) x.1 8 true .write false) (fun q => q.space == .glb) = true ∧
    (match demoPar.locate .par (demoPar.me.rd2 20) x.1 8 true .read true with
    | .ok (⟨.glb, [(pa, 8)], 0⟩, t) =>
      let o : MemOp := { Claims.atPoint t (.load false) .glb [(pa, 8)] .th .rlx with id := t.fresh }
      t.ops.isEmpty && (match t.admits o with
      | some u => bytesNat (u.readSeg o pa 8).1 == x.2.2 && (Claims.theParcel t (demoPar.me.rd2 20)).map.contains ((pa - (Claims.theParcel t (demoPar.me.rd2 20)).base) / 8) == x.2.1
      | none => false)
    | _ => false) = true := by decide +kernel

def rma (sub : BitVec 4) (ty : DType) (ord : Ord) : SyncMod := syn sub .glb ty .fab ord
theorem test_witness_remote : ∀ i ∈ [
    Instr.rmaWr (P 0 8 0 0) (rma 0 .n32 .rlx), .rmaWri (P 0 8 0 0) (rma 0 .n32 .rel), .rmaRd (P 60 8 0 0) (rma 0 .n128 .rlx), .rmaRdBlk (P 0 8 0 0) (rma 1 .n32 .rlx), .rmaAtom (P 60 8 0 4) (rma 7 .i64 .acq), .rmaAtom (P 60 8 0 4) (rma 2 .f32 .rel),
    .rmaWr (P 0 10 0 0) (rma 0 .n32 .rlx)], demoPar.issues i = true ∧ (Claims.remote demoPar i).isSome = true := by decide +kernel
theorem test_witness_remote_block : demoPar.busy = false ∧ (demoPar.me.rd2 8).toNat % 32 = 0 ∧ (demoPar.me.rd2 10).toNat % 32 ≠ 0 ∧
    (match demoPar.locate .glb 0 (demoPar.me.rd2 8) 32 true .write true with | .ok (⟨.glb, [(pa, k)], 0⟩, t) => pa == 0x20000 && k == 32 && !t.lineHeld (pa / 64) | _ => false) = true := by decide +kernel
def reg (d a : Reg) : LOps := P d a 0 0
def bareSync : SyncMod := syn 0 .glb .n32 .th .rlx
/-- A good descriptor, one of a region out of reach, and a bad one. -/
theorem test_witness_register : ∀ x ∈ [((12 : Reg), true, 1), (14, true, 5), (16, false, 1)], demoPar.issues (.rmaReg (reg 60 x.1) bareSync) = true ∧ (match demoPar.readRuns (demoPar.me.rd2 x.1) 1 [] with
    | .ok (bs, t) =>
      let n := bytesNat bs
      let size := Claims.blockField n 127 64
      let num := if Claims.blockField n 159 128 = 0 then t.regionNum t.me else Claims.blockField n 159 128
      decide ((Claims.blockField n 263 260 = 0 ∨ (4 ≤ Claims.blockField n 263 260 ∧ Claims.blockField n 255 192 % 64 = 0)) ∧ size % 4096 = 0 ∧ 4096 ≤ size ∧ size ≤ 64 * 2 ^ 30 ∧ Claims.blockField n 63 0 % 4096 = 0) == x.2.1 &&
      num == x.2.2 && decide (t.windows.length < 4096) && (num != 1 || (match t.region? num with
        | some r => (match t.pinPages r .read (BitVec.ofNat 64 (Claims.blockField n 63 0)) (size / 4096) [] with | (.ok _, _) => true | _ => !x.2.1)
        | none => false))
    | .error _ => false) = true := by decide +kernel
theorem test_witness_register_full : ({ demoPar with windows := List.replicate 4096 (window 0 1 [] 0) } : State).issues (.rmaReg (reg 60 12) bareSync) = true ∧ (List.replicate 4096 (window 0 1 [] 0)).length = 4096 := by decide +kernel
theorem test_witness_notes : ∀ i ∈ [
    Instr.rmaReg (reg 60 10) bareSync, .rmaDereg (reg 60 7) bareSync, .rmaDereg (reg 60 5) bareSync, .noteWait (reg 60 0) (rma 0 .n32 .acq), .noteWait (reg 60 5) (rma 0 .n32 .acq), .noteTry (reg 60 0) (rma 0 .n32 .acq), .noteTry (reg 60 6) (rma 0 .n32 .acq),
    .noteTry (reg 60 7) (rma 0 .n32 .acq)], demoPar.issues i = true := by decide +kernel
theorem test_witness_note_windows : (window 0 1 [] 0).region = demoPar.regionNum demoPar.me ∧ (window 2 5 [] 0).region ≠ demoPar.regionNum demoPar.me ∧ 0 < (window 1 1 [4] 2).count ∧ demoPar.sees (window 1 1 [4] 2) = true ∧
    demoPar.lineHeld ((window 1 1 [4] 2).entryAt 0 / 64) = false ∧ demoPar.inError ((window 1 1 [4] 2).entryAt 0) 8 = false ∧
    ({ demoPar with regions := demoPar.regions.map (fun r => if r.num = 5 then { r with vif := 3 } else r) } : State).sees (window 2 5 [] 0) = false := by decide +kernel

/-- The demo with three dies, and a tick that has come and one that has not (g16.d, g18.d). -/
def demoTime : State :=
  { demoPar with time := 100, cores := [{ demoCore with walkTlb := demoCore.tlb }], dies := [{ Die.unbooted 0 with enabled := true }, { Die.unbooted 1 with enabled := true }, { Die.unbooted 2 with enabled := false }, { Die.unbooted 3 with enabled := true }],
                 regions := [{ bareRegion 1 0x10000 with handler := 0x1000, vdt := [0, 1, 3] }],
                 me := (demoWith [(4, 1), (5, 2), (6, 7), (8, 0x20000), (10, 0x20008), (11, 0x80000000), (12, 0x20040), (13, 0x80000000), (16, 100), (18, 101)]).me }
theorem test_witness_rounds : ∀ i ∈ [
    Instr.coll (reg 0 8) bareSync, .coll (reg 0 10) bareSync, .coll (reg 0 12) bareSync, .collWait (reg 60 8) bareSync, .timeRd (reg 60 0) (par 0), .trigAt (P 0 8 0 16) bareSync, .waitUntil (reg 0 16) (par 0), .waitUntil (reg 0 18) (par 0),
    .hops (P 60 0 0 4) (par 0), .hops (P 60 4 0 4) (par 0), .hops (P 60 0 0 5) (par 0), .hops (P 60 0 0 6) (par 0)], demoTime.issues i = true := by decide +kernel
theorem test_witness_round_block : demoTime.busy = false ∧ (demoTime.rangeOf 0 1 .write 0x8000000000020040 64).1 = .fault ∧ (demoTime.rangeOf 0 1 .write 0x20000 64).1 = .ok [(0x20000, 64)] ∧
    (match (demoTime.rangeOf 0 1 .write 0x20000 64).2.readTeam 0 with | .park _ _ | .held _ => false | _ => true) = true ∧
    (match demoTime.locate .glb 0 0x20000 4 true .read false, demoTime.locate .glb 0 0x20000 8 true .write false with
      | .ok (⟨.glb, [(_, 4)], 0⟩, _), .ok (⟨.glb, [(_, 8)], 0⟩, _) => true | _, _ => false) = true := by decide +kernel
theorem test_witness_hops : (demoTime.regionOf demoTime.me).map (·.vdt) = some [0, 1, 3] ∧ (demoTime.me.rd2 16).toNat ≤ demoTime.time ∧ demoTime.time < (demoTime.me.rd2 18).toNat := by decide +kernel

/-! ### Witnesses: system instructions -/

/-- The demo in a handler entered for pre-emption, its gang running or under pre-emption. -/
def demoPre (r : Residence) : State := { demoHandler 31 with gangs := [{ bareGang 1 1 with res := r }] }
theorem test_witness_preempt_done : demo.issues (.preemptDone (P 0 0 0 0) (ctl 0 0)) = true ∧ demo.me.handler = none ∧ ∀ r ∈ [Residence.running, .preempting 0 true], (demoPre r).issues (.preemptDone (P 0 0 0 0) (ctl 0 0)) = true ∧
    (demoPre r).me.handler.map (·.cause) = some 31 ∧ ((demoPre r).checkTarget (demoPre r).handlerEntry true).1 = .ok ∧ ((demoPre r).checkTarget (demoPre r).handlerEntry true).2.ops = [] ∧
    (((demoPre r).checkTarget (demoPre r).handlerEntry true).2.gang? 1).map (·.res) = some r := by decide +kernel
/-- The demo's regions over two dies; die 0 is halted for region 3, and it logs one record; g2.d to g8.d name ranges, g10 and g11 a die and none. -/
def demoSys : State :=
  { demoGraph with
    me := (demoWith [(2, 0x1000), (4, 0x2000), (6, 0x1001), (8, 1), (10, 1), (11, 9), (12, 0x50000), (14, 0x50008), (16, 0x50004), (18, 0x50010), (20, 4), (22, 64)]).me, dies := [{ Die.unbooted 0 with enabled := true }, { Die.unbooted 1 with enabled := true }],
    mem := writeBytes (writeBytes [] 0x50000 (natBytes 8 1)) 0x50008 (natBytes 8 0x101) }
theorem test_witness_saves : ∀ i ∈ [
    Instr.ctxSave (at_ 60 0 50) (ctl 0 0), .ctxSave (P 60 0 0 0) (ctl 0 0), .ctxSaveNow (at_ 60 0 5) (ctl 1 0), .ctxSaveNow (at_ 60 0 2) (ctl 1 0), .ctxLoad (at_ 60 0 5) (ctl 0 0), .ctxLoad (P 60 0 0 0) (ctl 0 0), .ctxLoad (at_ 60 0 2) (ctl 0 0)],
    demoSys.issues i = true := by decide +kernel
theorem test_witness_save_regions : demoSys.region? 50 = none ∧ (demoSys.region? 5).isSome = true ∧ demoSys.reaches 5 1 = false ∧ demoSys.reaches 1 5 = false ∧ demoSys.reaches 1 1 = true ∧ demoSys.reaches 2 1 = false ∧
    demoSys.reaches 1 2 = true ∧ (∀ g ∈ demoSys.gangs, demoSys.reaches 2 g.region = true → g.res = .saved) ∧ demoSys.me.run = .ready := by decide +kernel
/-- The thread waits for its save. -/
theorem test_witness_save_waits : let s := demoSys.upd (fun t => { t with run := .waiting { kind := .system, data := [7] } })
    s.issues (.ctxSave (at_ 60 0 2) (ctl 0 0)) = true ∧ s.me.run = .waiting { kind := .system, data := [7] } := by decide +kernel
theorem test_witness_invalidate : ∀ i ∈ [Instr.invRange (P 60 2 4 8) (ctl 0 5), .invRange (P 60 6 4 8) (ctl 0 2), .invAsid (P 60 8 0 0) (ctl 0 3)], demoSys.issues i = true := by decide +kernel
theorem test_witness_invalidate_range : (demoSys.me.rd2 6).toNat % 4096 ≠ 0 ∧ (demoSys.me.rd2 2).toNat % 4096 = 0 ∧ (demoSys.me.rd2 4).toNat % 4096 = 0 ∧ (demoSys.me.rd2 4).toNat ≠ 0 ∧
    (demoSys.me.rd2 2).toNat + (demoSys.me.rd2 4).toNat ≤ 2 ^ 64 := by decide +kernel
theorem test_witness_settled (m : CtlMod) (asid : Word) (r : Option (Nat × Nat)) : Claims.settled demoSys m asid r := by
  have ho : demoSys.ops = [] := rfl
  have hr : demoSys.remotes = [] := rfl
  have hc : demoSys.colls = [] := rfl
  have hl : demoSys.lates = [] := rfl
  have hd : demoSys.devWrites = [] := rfl
  have hn : ∀ c ∈ demoSys.cores, c.l1 = [] := by decide +kernel
  unfold Claims.settled
  rw [ho, hr, hc, hl, hd]
  simp +contextual [hn]
theorem test_witness_debug : ∀ i ∈ [
    Instr.dbgHalt (at_ 60 0 3) (ctl 0 0), .dbgHalt (at_ 60 11 3) (ctl 0 0), .dbgHalt (at_ 60 0 5) (ctl 0 0), .dbgHaltArm (P 60 0 0 0) (ctl 1 0), .dbgHaltDisarm (P 60 10 0 0) (ctl 2 0), .dbgHaltQry (P 60 0 0 0) (ctl 3 0), .dbgResume (at_ 60 0 3) (ctl 0 0)],
    demoSys.issues i = true ∧ demoSys.reaches 1 3 = true := by decide +kernel
theorem test_witness_debug_die : Claims.dieNamed demoSys (demoSys.me.rd 0) 0 ∧ ∀ d, ¬ Claims.dieNamed demoSys (demoSys.me.rd 11) d := by
  refine ⟨⟨by decide +kernel, by decide +kernel, { Die.unbooted 0 with enabled := true }, by decide +kernel, rfl⟩, ?_⟩
  rintro d ⟨-, h, -⟩
  exact absurd h (by decide +kernel)
/-- Threads at places 1 and 64: halted, halted and parked; the thread itself, at place 0, is not halted. -/
def demoHalt : State :=
  { demoSys with others := [{ demoThread with uid := 2, lane := 4, halted := true }, { demoThread with uid := 3, part := 1, halted := true, run := .parked 9 }] }
theorem test_witness_step_debug : ∀ x ∈ [((0 : Reg), some (1, false, true)), (20, some (2, true, true)), (22, some (3, true, false)), (11, none)], demoHalt.issues (.dbgStep (P 60 x.1 0 0) (ctl 0 0)) = true ∧
    (demoHalt.located (demoHalt.me.rd x.1)).map (fun t => (t.uid, t.halted, t.run == .ready)) = x.2 ∧ demoHalt.me.run = .ready := by decide +kernel
theorem test_witness_step_no_place : ∀ t ∈ demoHalt.threads, t.lane + 64 * t.part + 256 * (t.core % 64) + 2 ^ 14 * t.die ≠ 9 := by decide +kernel
/-- The stepped threads have issued. -/
theorem test_witness_step_done : let s := demoHalt.upd (fun t => { t with run := .waiting { kind := .step, data := [], obj := 2 } })
    s.issues (.dbgStep (P 60 20 0 0) (ctl 0 0)) = true ∧ ∀ t ∈ s.threads, t.gkey = s.gkeyOf 2 → t.stepping = false := by decide +kernel

theorem test_witness_table : ∀ i ∈ [Instr.vdtLd (at_ 60 12 2) (ctl 0 0), .vdtLd (at_ 60 16 2) (ctl 0 0), .vdtLd (at_ 60 12 5) (ctl 0 0), .vdtLd (at_ 60 18 2) (ctl 0 0), .vdtLd (P 60 14 0 0) (ctl 0 0), .vdtLd (P 60 12 0 0) (ctl 0 0)],
    demoSys.issues i = true ∧ demoSys.busy = false := by decide +kernel
/-- Tables with die 0, with die 1, and with none. -/
theorem test_witness_table_words : ∀ x ∈ [((0x50000 : Dword), 1), (0x50008, 0x101), (0x50010, 0)], (match demoSys.readRuns (BitVec.ofNat 64 (x.1.toNat / 64 * 64)) 1 [] with
    | .ok (bs, t) => bytesNat ((bs.drop (x.1.toNat % 64)).take 8) == x.2 && t.gangs.map (fun g => (g.region, g.die)) == [(1, 0)] | .error _ => false) = true := by decide +kernel
theorem test_witness_table_ok : Claims.tableOk demoSys 1 ∧ Claims.tableOk demoSys 0x101 ∧ ¬ Claims.tableOk demoSys 0 := by
  refine ⟨⟨by decide, by decide, by decide, by decide, ?_, ?_, fun v x h1 h2 => by omega⟩, ⟨by decide, by decide, by decide, by decide, ?_, ?_, fun v x h1 h2 => by omega⟩, fun h => absurd h.1 (by decide)⟩
  · intro v h1 h2
    have : v = 1 ∨ v = 2 ∨ v = 3 := by omega
    rcases this with rfl | rfl | rfl <;> decide
  · intro v hv
    have : v = 0 := by omega
    subst this
    exact ⟨{ Die.unbooted 0 with enabled := true }, by decide +kernel, rfl⟩
  · intro v h1 h2
    have : v = 1 ∨ v = 2 ∨ v = 3 := by omega
    rcases this with rfl | rfl | rfl <;> decide
  · intro v hv
    have : v = 0 := by omega
    subst this
    exact ⟨{ Die.unbooted 1 with enabled := true }, by decide +kernel, rfl⟩
theorem test_witness_table_carves : demoSys.newCarves { bareRegion 2 0 with parent := 1 } [0] = some [none, none, none, none] ∧ demoSys.newCarves { bareRegion 5 0 with tdir := 385 } [0] = none := by decide +kernel
def demoLog : State := { demoSys with regions := [{ bareRegion 1 0x10000 with handler := 0x1000, logn := 16, log := [5, 6] }] }
theorem test_witness_reads : ∀ i ∈ [Instr.envRd (P 60 0 0 0) (ctl 0 0), .envRd (P 60 11 0 0) (ctl 0 8), .envRd (P 60 10 0 0) (ctl 0 2), .logRd (P 60 0 0 0) (ctl 0 0), .mchkRd (P 60 0 0 0) (ctl 1 0), .mchkRd (P 60 11 0 0) (ctl 0 0), .sysIdle (P 60 4 0 0) (ctl 0 0)],
    demoLog.issues i = true ∧ demoSys.issues i = true := by decide +kernel
theorem test_witness_log : (demoLog.regionOf demoLog.me).map (fun r => (r.logn, r.log, r.vif)) = some (16, [5, 6], 0) ∧ (demoSys.regionOf demoSys.me).map (fun r => (r.logn, r.log)) = some (0, []) := by decide +kernel
/-- A virtual interface with a doorbell that was rung, and one without. -/
theorem test_witness_bells : demoLog.vifs.find? (fun x => x.id = 0) = some (Vif.fresh 0) ∧ (Vif.fresh 0).bells = 0 ∧
    ({ demoLog with vifs := [{ Vif.fresh 0 with bells := 4 }] } : State).vifs.find? (fun x => x.id = 0) = some { Vif.fresh 0 with bells := 4 } := by decide +kernel

/-! ### Witnesses: accesses that perform, events of threads -/

def demoOps (l : List MemOp) : State := { demo with ops := l, me := { demoThread with prods := [{ tag := 5, d := 8, n := 2 }] } }
/-- A store of a core, one at `.QUAD`, one to the scratchpad, a load, a read-modify-write and a fence, each the only access. -/
theorem test_witness_perform : ∀ o ∈ [
    pending (.store false) .glb [(0x10000, 2)] [some 1, none] .th none, pending (.store false) .glb [(0x1003F, 2)] [some 1, some 2] .quad none, pending (.store false) (.scr 1 0) [(4, 1)] [some 7] .th none,
    pending (.load true) .glb [(0x10000, 8)] [] .dev (some 5), pending (.rmw (.int 1 .n32 5)) .glb [(0x10000, 4)] [] .dev none, pending .fence .glb [] [] .dev none],
    (demoOps [o]).ops[0]? = some o ∧ ((demoOps [o]).admits o).isSome = true := by decide +kernel
theorem test_witness_perform_state : (demoOps []).memoriesWf ∧ (demoOps []).ops[0]? = none ∧ (∃ c, (demoOps []).core? 0 = some c) ∧ ((demoOps []).pad? 1 0).isSome = true ∧ ((demoOps []).thread? 1).isSome = true := by
  refine ⟨?_, rfl, ⟨demoCore, by decide +kernel⟩, by decide +kernel, by decide +kernel⟩; unfold State.memoriesWf; decide +kernel
/-- A store to the thread's private space, and a load of a word with an error. -/
theorem test_witness_perform_private : let o := pending (.store false) (.prv 1) [(8, 1)] [some 7] .th none
    ((demoOps [o]).admits o).isSome = true ∧ ((demoOps [o]).core? 0).map (·.inject) = some none ∧ (demoOps [o]).holds = [] := by decide +kernel
theorem test_witness_perform_error : let o := pending (.load false) .glb [(0x10000, 8)] [] .dev (some 5)
    (({ demoOps [o] with badWords := [0x10000 / 8] } : State).admits o).isSome = true ∧ ({ demoOps [o] with badWords := [0x10000 / 8] } : State).lateError o = true ∧ (demoOps [o]).lateError o = false := by decide +kernel
/-- A relaxed load to a byte that an earlier store of its thread writes may not perform before it. -/
theorem test_witness_perform_waits : let a := pending (.store false) .glb [(0x10000, 1)] [some 1] .dev none; let b := { pending (.load false) .glb [(0x10000, 1)] [] .dev (some 5) with id := 4, ord := .acq }
    (demoOps [a, b]).ops[1]? = some b ∧ (demoOps [{ a with uid := 1, ord := .rel }, { a with id := 4, ord := .rel }]).admits { a with id := 4, ord := .rel } = none := by decide +kernel

/-- The demo in a region with a watchdog, its thread in a wait. -/
def demoWait (w : Wait) : State :=
  { demo with regions := [{ bareRegion 1 0x10000 with handler := 0x1000, wdog := 100 }], me := { demoThread with run := .waiting w } }
theorem test_witness_no_thread : demo.thread? 77 = none ∧ demo.lates = [] := by decide +kernel
theorem test_witness_line_fill : (demo.fetch 0x1000).1 = .line nopLine := by decide +kernel
theorem test_witness_arrival : ((demo.produce 2 1 (some [5])).thread? 1).map (fun t => t.prods.map (·.val)) = some [some [5]] ∧ (demo.produce 2 1 (some [5])).me.prods[0]?.map (·.val) = some (some [5]) ∧
    ((demo.produce 2 1 (some [5])).me.prods.map (·.tag)).Nodup ∧ (demo.produce 2 1 (some [5])).lates = [] := by decide +kernel
theorem test_witness_waits : ∀ w ∈ [({ kind := .nap, limit := some 100 } : Wait), { kind := .yielded }, { kind := .time, obj := 50 }, { kind := .value, data := [7, 3], limit := some 90 }, { kind := .idle, data := [9, 2], limit := some 1000 }],
    ((demoWait w).thread? 1).map (·.run) = some (.waiting w) ∧ (demoWait w).me.run = .waiting w ∧ (demoWait w).clockStopped (demoWait w).me = false := by decide +kernel
theorem test_witness_watchdog : ∀ k ∈ [WaitKind.pool, .accept, .note, .conv, .barGrp, .coll, .chain, .barObj, .tile, .claim], ((demoWait { kind := k, data := [8, 2] }).wdogLimit (demoWait { kind := k, data := [8, 2] }).me).isSome = true ∧
    (demoWait { kind := k, data := [8, 2] }).clockStopped (demoWait { kind := k, data := [8, 2] }).me = false ∧ (demoWait { kind := k, data := [8, 2] }).away 1 = false ∧
    ((demoWait { kind := k, data := [8, 2] }).gang? 1).map (·.wait) = some none := by decide +kernel
def demoSlow : State := { demoHandler 6 with regions := [{ bareRegion 1 0x10000 with handler := 0x1000, wdog := 100 }] }
theorem test_witness_handler_limit : demoSlow.me.handler = some { cause := 6, since := 0 } ∧ (demoSlow.wdogLimit demoSlow.me).isSome = true ∧ demoSlow.anyHalted demoSlow.me = false ∧ demoSlow.me.run = .ready ∧
    (demoSlow.regionOf demoSlow.me).isSome = true := by decide +kernel
/-- Two values of the special function unit: the later one waits for the older. -/
theorem test_witness_arrival_order : let t := (demo.upd (fun t => { t with prods := [{ tag := 1, d := 4, n := 1, val := some [5], sfu := some (0x1000, 1) }, { tag := 2, d := 5, n := 1, val := some [6], sfu := some (0x1004, 2) }] }))
    (t.me.prods[1]?).map (fun p => (p.val, p.sfu.isSome, decide ((t.me.prods.map (·.tag)).Nodup), (t.me.prods.take 1).any (fun q => q.sfu.isSome))) = some (some [6], true, true, true) ∧ t.lates = [] := by decide +kernel
/-- The thread is parked on a page request. -/
def demoParked : State := { demo with pageReqs := [{ id := 6, die := 0, asid := 1, va := 0x123000, write := false, exec := false }], me := { demoThread with run := .parked 6 } }
theorem test_witness_page_request : demo.pageReqs[0]? = none ∧ demoParked.attached ≠ [] ∧ (demoParked.pageReqs[0]?).map (·.id) = some 6 ∧ demoParked.remotes = [] ∧ demoParked.colls = [] ∧ demoParked.me.run = .parked 6 ∧ demoParked.others = [] ∧
    demoParked.me.entering = none ∧ demoParked.me.asks = none ∧ demoParked.me.halted = false ∧ demoParked.away demoParked.me.gang = false ∧
    ((demoParked.pageReqs.filter (fun x => x.die = 0)).map (·.id)).idxOf 6 = 0 := by decide +kernel
/-- The request after a die's first 1,024. -/
theorem test_witness_page_requests : let l := (List.range 1025).map (fun n => ({ id := n, die := 0, asid := 1, va := 0, write := false, exec := false } : PageReq))
    (l[1024]?).map (fun r => (r.id, decide (1024 ≤ ((l.filter (fun x => x.die = r.die)).map (·.id)).idxOf r.id))) = some (1024, true) := by decide +kernel
def handover (n : Nat) (h : Word) : Handover := { line := 1024, interval := n, expect := 1, mode := 1, who := 0, hout := h, hin := 5, uid := some 1, host := false, pc := 0x1000, src := 0, dst := 0, dup := false, from_ := .home, bytes := [] }
/-- A release that waits for a record, one that waits for none, a good record and bad ones. -/
def demoHeld (w : List Wrote) (r : List Handover) : State :=
  { demo with me := { demoThread with wrote := w }, handovers := r, holds := [holdBy (pending (.store false) .glb [(0x10000, 1)] [some 1] .dev none)] }
def demoWrote : State := demoHeld [{ line := 1024, interval := 1, scope := 0, id := 3 }] [handover 1 5]
theorem test_witness_release : (demo.holds[0]? = none ∧ demo.handovers[0]? = none) ∧ Claims.awaits (demoHeld [{ line := 1024, interval := 1, scope := 0, id := 3 }] [handover 1 5]) demoWrote.me 5 ∧ ¬ Claims.awaits (demoHeld [{ line := 1024, interval := 1, scope := 6, id := 3 }] [handover 1 5]) (demoHeld [{ line := 1024, interval := 1, scope := 6, id := 3 }] [handover 1 5]).me 5 ∧ ((demoHeld [] []).holds[0]?).map (fun h => (h.early, h.op.uid)) = some (false, 1) ∧
    (demoHeld [] [handover 1 5]).handovers[0]? = some (handover 1 5) ∧ (handover 1 5).hout = (handover 1 5).hin ∧ (handover 2 5).interval ≠ (handover 2 5).expect ∧ (handover 1 6).hout ≠ (handover 1 6).hin ∧
    ((demoHeld [] [handover 2 5]).thread? 1).isSome = true := by
  unfold Claims.awaits; decide +kernel

/-! ### Witnesses: engines, dispatcher, pre-emption -/

theorem test_witness_stopped_die : demo.dieRuns (64 / 64) = false ∧ demo.dieRuns (0 / 64) = true := by decide +kernel
/-- A stream instruction, a fill and a matrix command at the head of their queues, under a guard slot that is unresolved, false, or none. -/
def demoQueues (b : Option (Option Bool)) : State :=
  let gs : Option (BitVec 4) := b.map (fun _ => 3)
  { demoMat with
    groups := [{ bareGroup 1 with width := 1, guards := (Vector.replicate 16 none).set 3 (b.getD none) }], slates := [], tiles := demoTiles.tiles, ops := [], streams := [{ nestCmd .queued with o := { nestDA with gs := gs } }], matrix := [accCmd],
    copies := [{ id := 7, core := 0, uid := 1, pc := 0, gs := gs, op := .fill 5, tile := 1, addr := 0, origin := [], scope := .th, prior := .empty, started := false, tens := none, done := 0, st := .queued, trig := some { pa := 0x20000, tick := 0 } }] }
theorem test_witness_queue_heads : ∀ x ∈ [((none : Option (Option Bool)), some true), (some none, none), (some (some false), some false)], (demoQueues x.1).streams.map (fun c => (c.st, c.uid, (demoQueues x.1).cmdSlot ((demoQueues x.1).gkeyOf c.uid) c.o.gs)) =
      [(.queued, 1, x.2)] ∧ (demoQueues x.1).away 1 = false ∧ ((demoQueues x.1).copiesOf 0).map (fun c => (c.started, (demoQueues x.1).cmdSlot ((demoQueues x.1).gkeyOf c.uid) c.gs)) = [(false, x.2)] ∧ (demoQueues x.1).time = 0 ∧
    (demoQueues x.1).ops = [] := by decide +kernel
def demoFilling : State := { demoQueues none with copies := (demoQueues none).copies.map (fun c => { c with started := true, trig := none }), tiles := [tile 1 16 4 .f32 .filling] }
theorem test_witness_fill_completes : (((demoFilling.copiesOf 0).filter (·.started))[0]?).map (fun c => (c.op, c.tile, c.st)) = some (.fill 5, 1, .queued) ∧ (demoFilling.tile? 0 1).isSome = true := by decide +kernel
/-- A fill of four words of scratch. -/
def scratchFill : StreamCmd := { nestCmd .queued with op := 2, o := { nestDA with gs := none }, dw := 0x4000000000000000, bw := 7 }
theorem test_witness_scratch_fill : let s : State := { demoNest with streams := [scratchFill] }
    s.dieRuns 0 = true ∧ s.away ((s.gkeyOf scratchFill.uid).gang) = false ∧ s.ops = [] ∧ s.cmdSlot (s.gkeyOf scratchFill.uid) scratchFill.o.gs = some true ∧ s.struck = [] ∧ (s.thread? scratchFill.uid).isSome = true ∧
    (s.pad? 1 0).isSome = true ∧ scratchFill.o.ty.bits (s.bank s.me) = 8 * 4 ∧ wordSp scratchFill.dw = 1 ∧ scratchFill.o.total = 4 ∧
    ∀ n, n < 4 → ((wordOff scratchFill.dw : Int) + scratchFill.o.disp 0 4 n).toNat % 4 = 0 := by decide +kernel
/-- Loads and stores of a tile of one element: the tensor record at 0x20080 describes one F32 element at 0x21000, and the one at 0x20180 has no dimension. -/
def record1 : Nat := 0x21000 + 2 ^ 64 + Fmt.f32.code.toNat * 2 ^ 72 + 2 ^ 128
def elemCmd (op : CopyOp) (addr : Dword) (started : Bool) (tens : Option TRec) : CopyCmd :=
  { id := 7, core := 0, uid := 1, pc := 0, gs := none, op := op, tile := 1, addr := addr, origin := [], scope := .th, prior := .empty, started := started, tens := tens, done := 0, st := .queued, trig := none }
def demoElem (c : CopyCmd) : State :=
  { demoMem with cores := [{ demoCore with walkTlb := demoCore.tlb }], mem := writeBytes [] 0x20080 (natBytes 128 record1), tiles := [tile 1 1 1 .f32 .filling], copies := [c] }
theorem test_witness_copy_start : ∀ x ∈ [(CopyOp.load, (0x20080 : Dword), false, false), (.store false, 0x20080, true, false), (.load, 0x20180, false, true)], let c := elemCmd x.1 x.2.1 false none; let s := demoElem c
    s.dieRuns 0 = true ∧ (s.copiesOf 0).find? (fun y => !y.started) = some c ∧ s.cmdSlot (s.gkeyOf c.uid) c.gs = some true ∧ s.ops = [] ∧ s.tile? 0 1 = some (tile 1 1 1 .f32 .filling) ∧
    (match s.engPlace 0 1 c.addr 128 0 .read with
      | .got pa v => (TRec.check (bytesNat (v.engRead 0 1 0 c.scope.code pa 128).1) 1 1 32 [] x.2.2.1).isSome == x.2.2.2
      | _ => false) = true := by decide +kernel
theorem test_witness_copy_runs : ∀ op ∈ [CopyOp.load, .store true, .fill 5, .move 1 false], let c := elemCmd op 0x20080 true (some (TRec.ofNat record1)); let s := demoElem c
    Claims.copyRuns s c 0 (tile 1 1 1 .f32 .filling) ∧ Claims.whole (tile 1 1 1 .f32 .filling) ∧ Claims.one c (TRec.ofNat record1) (tile 1 1 1 .f32 .filling) ∧ (s.pad? 1 0).isSome = true ∧
    (TRec.ofNat record1).inBounds 1 [] 0 0 = true ∧ (TRec.ofNat record1).inBounds 1 [1] 0 0 = false ∧ (TRec.ofNat record1).bitAddr 1 [] 0 0 = 8 * 0x21000 ∧
    (∀ a ∈ [Acc.read, .write], (match s.engPlace 0 1 0x21000 4 0 a with | .got _ _ => true | _ => false) = true) := by
  unfold Claims.copyRuns Claims.whole Claims.one; decide +kernel
theorem test_witness_copy_memory : (demoElem (elemCmd .load 0x20080 true none)).memoriesWf := by unfold State.memoriesWf; decide +kernel
theorem test_witness_matrix_head : (demoQueues none).lates = [] ∧ (demoQueues none).shadows = [] ∧ (demoQueues none).matrixOf 0 = [accCmd] ∧ (demoQueues none).matWaits accCmd = false ∧ accCmd.gs = none ∧ ((demoQueues none).entryOf accCmd).isSome = true ∧
    (∃ t ∈ (demoQueues none).threads, t.gkey = accCmd.g ∧ t.run ≠ .exited) ∧ ({ demoQueues none with slates := [{ Slate.fresh 0 1 with claim := some 1, got := some fullSlate }] } : State).slateFault { accCmd with op := .mma false, slate := 1, desc := some fullSlate } = none := by decide +kernel
def demoTick : State := { demoQueues none with time := 3, copies := (demoQueues none).copies.map (fun c => { c with trig := some { pa := 0x20000, tick := 9 } }) }
theorem test_witness_held_ticks : (demoTick.heldTicks 0).min? = some 9 ∧ demo.heldTicks 0 = [] := by decide +kernel

/-- A batch of one record that is ready to become a gang, beside the demo's gang. -/
def nodeRun : Node := { node1 with blk := launchBlockOf 0x20100 (2 ^ 64 + 15 * 2 ^ 512) [], timer := 50 }
def batch (st : BatchSt) : Batch := { id := 9, region := 1, node := 0, die := 0, depth := 0, base := 0x100000, size := 128, slots := 1, t0 := 0, timed := false, st := st }
def demoReady (st : BatchSt) : State :=
  { demo with regions := [{ bareRegion 1 0x10000 with handler := 0x1000, nodes := [nodeRun], pool := 0x100000, poolb := 0x100000, cores := 4, slots := 100 }], batches := [batch st], ready := [{ die := 0, region := 1, bin := 0, src := .batch 9 }] }
theorem test_witness_placement : (demoReady .ring).offered { die := 0, region := 1, bin := 0, src := .batch 9 } = true ∧ (demoReady .ring).released { die := 0, region := 1, bin := 0, src := .batch 9 } = true ∧
    (((demoReady .ring).specOf { die := 0, region := 1, bin := 0, src := .batch 9 }).map (fun p => (demoReady .ring).placeOk p [{ core := 0, part := 1, k := 0 }] && p.lb.roles.all (fun r => match r with | some r => decide (8 ≤ r.width ∧ r.width ≤ 64) | none => true))) =
      some true ∧ ((demoReady .ring).die? 0).map (fun d => (d.enabled, d.stopped)) = some (true, false) := by decide +kernel
theorem test_witness_batch_timer : demo.batches[0]? = none ∧ (demoReady .gathering).batches[0]? = some (batch .gathering) ∧ ((demoReady .gathering).node? 1 0).map (fun n => (n.timer, n.en)) = some (50, true) ∧
    ((demoReady .gathering).batches.map (·.id)).Nodup ∧ (batch .ring).st ≠ .gathering := by decide +kernel
/-- A gang whose thread is done for the save, one that is to be saved whole, one whose value is still to come, and a saved one. -/
def demoSave (r : Residence) (run : Run) (p : List Prod) : State := { demo with gangs := [{ bareGang 1 1 with res := r, lb := launchBlockOf 0x20100 (2 ^ 64 + 15 * 2 ^ 512) [] }], me := { demoThread with run := run, prods := p } }
def demoOver : State := { demo with me := { demoThread with run := .exited } }
theorem test_witness_gang_finished : Claims.finished demoOver 1 ∧ ¬ Claims.finished demo 1 ∧ Claims.quiet (demoSave (.preempting 0 true) .ready []) 1 ∧
    ¬ Claims.quiet { demoSave (.preempting 0 true) .ready [] with ops := [pending .fence .glb [] [] .dev none] } 1 := by
  unfold Claims.finished Claims.quiet; decide +kernel
theorem test_witness_gang_end : (∀ c ∈ demoOver.matrix, c.g.gang ≠ 1) ∧ (demoOver.gang? 1).map (fun g => (g.forced, g.origin, g.region)) = some (false, .none, 1) ∧ (demoOver.region? 1).isSome = true := by decide +kernel
def demoDeal : State := { demoGraph with cards := [{ id := 5, region := 1, uid := 1, lb := launchBlockOf 0x20100 (2 ^ 64 + 15 * 2 ^ 512) [], args := 0, n := 100, stride := 16, pad := false, dscope := 5, done := 0, dealt := 8, chunks := 1, live := 1 }] }
theorem test_witness_deal : (demoDeal.cards.find? (fun x => x.id = 5)).map (fun c => (c.n, c.dealt, c.region, decide (1 ≤ c.lb.recWidth))) = some (100, 8, 1, true) ∧ demoDeal.holds = [] ∧ (demoDeal.region? 1).isSome = true := by decide +kernel
def demoCancel : State := { demo with regions := [{ bareRegion 1 0x10000 with handler := 0x1000, state := .cancelling, grace := 4 }], vifs := [{ Vif.fresh 0 with root := some 1 }] }
theorem test_witness_cancel : (demo.region? 1).map (·.state) = some .active ∧ (demoCancel.region? 1).map (·.state) = some .cancelling ∧ demoCancel.attached ≠ [] ∧ (demoCancel.vifs.find? (fun x => x.id = 0)).map (·.root) = some (some 1) := by decide +kernel
theorem test_witness_preemption_trap : (demo.gang? demo.me.gang).map (·.res) = some .running ∧ ({ demo with gangs := [{ bareGang 1 1 with res := .preempting 0 false }] } : State).gang? 1 = some { bareGang 1 1 with res := .preempting 0 false } ∧
    demo.me.warned = false ∧ demo.me.halted = false ∧ demo.me.run = .ready ∧ demo.me.queued = false ∧ demo.me.entering = none ∧ demo.me.starting = false ∧ demo.me.handler = none ∧ (demoHandler 6).me.handler ≠ none ∧ (demoHandler 6).others = [] ∧
    (demoHandler 6).me.queued = false := by decide +kernel
theorem test_witness_light_save : ((demoSave (.preempting 0 false) (.waiting { kind := .preempted }) []).gang? 1).map (fun g => (g.res, g.wait)) = some (.preempting 0 false, none) ∧
    ((demoSave (.preempting 0 true) .ready []).gang? 1).map (·.res) = some (.preempting 0 true) ∧
    ((demoSave (.preempting 0 true) .ready []).gangs.map (·.id)).Nodup := by decide +kernel
theorem test_witness_light_save_done : ∀ x ∈ (demoSave (.preempting 0 false) (.waiting { kind := .preempted }) []).threads, x.gang = 1 → x.run = .exited ∨ ∃ w, x.run = .waiting w ∧ w.kind = .preempted := by
  intro x hx _
  have h : (demoSave (.preempting 0 false) (.waiting { kind := .preempted }) []).threads = [(demoSave (.preempting 0 false) (.waiting { kind := .preempted }) []).me] := rfl
  rw [h, List.mem_singleton] at hx
  subst hx
  exact .inr ⟨_, rfl, rfl⟩
/-- A saved gang at the head of its queue, and one for which no core is left. -/
def demoSaved : State := { demoSave .saved .ready [] with ready := [{ die := 0, region := 1, bin := 0, src := .saved 1 }] }
def demoFull : State := { demoSaved with cores := [] }
theorem test_witness_resume : ((demoSave .saved .ready []).gang? 1).map (fun g => (g.res, g.wait, g.forced)) = some (.saved, none, false) ∧
    (match (demoSave .saved .ready []).gang? 1 with
    | some g => (match (demoSave .saved .ready []).savedSpec g with
      | some p => !p.region.hold && p.die == 0 && demoSaved.resumeOk g p [{ core := 0, part := 0, k := 0 }] && !demoFull.resumeOk g p [] && !demoFull.resumeOk g p (demoFull.resumePlace g p)
      | none => false)
    | none => false) = true := by decide +kernel

/-! ### Witnesses: fabric, host, firmware and environment -/

/-- A parcel that window 1 takes, and one with another key. -/
def imageIn (key : Word) : ParcelImage := { src := 2, win := 1, key := key, lsz := 16, bytes := [(64, 7), (65, 8)], map := [10] }
theorem test_witness_parcel_arrival : (demoPar.window? 1).map (fun w => (w.rights.getLsbD 3, w.key, w.region, decide (w.arrivals.length < 64))) = some (true, 0, 1, true) ∧ (demoPar.newParcel 1 (imageIn 0).lsz).isSome = true ∧
    (imageIn 0).key = 0 ∧ (imageIn 1).key ≠ 0 ∧ ((imageIn 0).bytes.map (·.1)).Nodup := by decide +kernel
theorem test_witness_delivery : (demoPar.parcel 3).st = .inTransit ∧ demoPar.parcelBusy (demoPar.parcel 3) = false ∧ (demoPar.parcel 2).st ≠ .inTransit := by decide +kernel
def remoteIn (key : Word) : RemoteOp := { kind := .wr, win := 1, key := key, off := 16, len := 2, data := [1, 2], imm := 0, src := 2 }
theorem test_witness_remote_arrival : demoPar.remoteCode (remoteIn 1) ≠ 0 ∧ demoPar.remoteCode (remoteIn 0) = 0 ∧ demoPar.holds = [] ∧ (demoPar.window? 1).map (fun w => w.range 16 2) = some [(0x10010, 2)] := by decide +kernel
def remoteOut (chip : Nat) : Remote :=
  { id := 4, uid := 1, core := 0, pc := 0, op := .rd 8, ord := .rlx, status := 0x20010, chip := chip, win := 0, key := 0, off := 0, len := 8, laddr := 0, imm := 0, tag := some 5, st := .queued }
theorem test_witness_completion : ∀ c ∈ [(2, true), (3, false)], (({ demoPar with remotes := [remoteOut c.1] } : State).remotes[0]?).map (fun r => (r.st, r.uid)) = some (.queued, 1) ∧ demoPar.routes.contains c.1 = c.2 ∧ (demoPar.thread? 1).isSome = true ∧
    ({ demoPar with remotes := [remoteOut c.1] } : State).releasing (remoteOut c.1) = false ∧
    ({ demoPar with remotes := [remoteOut c.1], ops := [{ pending .fence .glb [] [] .fab (some 4) with ord := .rel }] } : State).releasing (remoteOut c.1) = true := by
  decide +kernel
/-- A round of two modules that sums one F32 value. -/
def round (bad : Bool) (p : Option Nat) : Coll :=
  { id := 4, uid := 1, core := 0, pc := 0, status := 0x20000, send := 0x21000, recv := 0x22000, count := 1, seq := 0, root := 0, rank := 0, dt := 0, red := 0, op := 0, nmem := 2, limit := some 50, since := 0, frozen := 0, trig := none, bad := bad, parked := p }
def demoRound : State := { demoTime with colls := [round false none] }
theorem test_witness_round_ends : (demoRound.colls[0]?).map (fun c => (c.parked, c.trig.isSome, c.bad, c.limit)) = some (none, false, false, some 50) ∧ (round true none).bad = true ∧ (round false (some 3)).parked.isSome = true ∧
    (demoRound.rangeOf 0 1 .read 0x21000 (round false none).sendBytes).1 = .ok [(0x21000, (round false none).sendBytes)] ∧
    ((demoRound.rangeOf 0 1 .read 0x21000 (round false none).sendBytes).2.rangeOf 0 1 .write 0x22000 (round false none).recvBytes).1 = .ok [(0x22000, (round false none).recvBytes)] ∧
    0x20000 + 4 ≤ 0x22000 ∧ ((round false none).result [natBytes 4 0x3F800000, natBytes 4 0x3F800000]).length = (round false none).recvBytes ∧ demoRound.anyHalted demoRound.me = false := by decide +kernel
theorem test_witness_round_armed : let t : Trigger := { pa := 0x20100, tick := 200 }
    let s : State := { demoTime with colls := [{ round false none with trig := some t }] }
    s.copiesOf 0 = [] ∧ s.matrixOf 0 = [] ∧ s.lates = [] ∧ s.time < t.tick ∧ s.holds = [] := by decide +kernel
theorem test_witness_status : Claims.statusFree demoRound (round false none).status ∧ Claims.statusFree { demoPar with remotes := [remoteOut 2] } (remoteOut 2).status := by
  unfold Claims.statusFree; decide +kernel
theorem test_witness_completion_unaligned : (remoteOut 2).off % max 1 (remoteOut 2).op.width = 0 ∧ ({ remoteOut 2 with off := 4 }).off % max 1 (remoteOut 2).op.width ≠ 0 ∧ demoPar.drains = [] := by decide +kernel
/-- Ports: live, failing, and down; a link of another chip; a dead link that drains in its first and in its last round; and a change that is due. -/
def drain (round : Nat) : Drain := { chip := 2, port := 1, since := 0, round := round, remotes := [4], colls := [], parcels := [(3, 7)] }
def demoPorts : State :=
  { demoPar with ports := [{ port := 0, live := true, seq := 0, fails := 0, heard := 0 }, { port := 1, live := true, seq := 0, fails := 8, heard := 0 }, { port := 2, live := false, seq := 1, fails := 0, heard := 0 }],
                 links := [{ chip := 2, port := 1, live := true, seq := 5 }], drains := [drain 0, drain 2], notices := [{ port := 2, live := false, seq := 1, since := 0 }], remotes := [remoteOut 2] }
theorem test_witness_ports : ∀ x ∈ [(0, true, 0), (1, true, 8), (2, false, 0)], (demoPorts.port? x.1).map (fun p => (p.live, p.fails)) = some x.2 := by decide +kernel
theorem test_witness_links : ((demoPorts.links.find? (fun x => x.chip = 2 ∧ x.port = 1)).map (·.seq)) = some 5 ∧ demoPorts.links.find? (fun x => x.chip = 3 ∧ x.port = 1) = none ∧ (demoPorts.notices[0]?).isSome = true ∧
    demoPorts.notices[1]? = none ∧ ({ demoPorts with vifs := [] } : State).vifs = [] ∧ ({ demoPorts with vifs := [Vif.fresh 0] } : State).vifs = [Vif.fresh 0] := by decide +kernel
theorem test_witness_drains : (demoPorts.drains[0]?).map (·.round) = some 0 ∧ (demoPorts.drains[1]?).map (·.round) = some 2 ∧ demoPorts.drains[2]? = none ∧
    (∀ d ∈ demoPorts.drains, ∀ x ∈ d.parcels, (demoPorts.parcel x.1).gen = x.2 ∧ demoPorts.parcelBusy (demoPorts.parcel x.1) = false) := by decide +kernel

theorem test_witness_host : ({ demo with attached := [] } : State).attached = [] ∧ demo.attached ≠ [] ∧ demo.physKind 0x10000 = .dram 0 ∧ demo.lineHeld (0x10000 / 64) = false ∧ demo.badWords = [] ∧ demo.holds = [] ∧
    demo.physKind (0x10000 + 2 - 1) ≠ .bad ∧ demo.physKind (2 ^ 43) = .host ∧ demo.lineHeld (2 ^ 43 / 64) = false ∧ demo.ops = [] := by decide +kernel
theorem test_witness_host_error : ∃ w ∈ ({ demo with badWords := [0x10008 / 8] } : State).badWords, w / 8 = 0x10000 / 64 := by decide +kernel
theorem test_witness_jokebry : (demoCancel.vifs.find? (fun z => z.id = 0)).map (·.root) = some (some 1) ∧ demoCancel.attached ≠ [] := by decide +kernel
theorem test_witness_attachment : (demo.die? 0).map (·.enabled) = some true ∧ (2 ^ 44 : Dword).toNat % 2 ^ 42 = 0 ∧ (4096 : Dword).toNat % 2 ^ 42 ≠ 0 := by decide +kernel
/-- A die that has not booted, and one that has. -/
theorem test_witness_boot : State.reset.die? 1 = some (Die.unbooted 1) ∧ (Die.unbooted 1).enabled = false ∧ (∀ y ∈ State.reset.dies, y.id = 1 → y.enabled = false) ∧ Claims.joined (1 :: (State.reset.dies.filter (·.enabled)).map (·.id)) := by
  refine ⟨by decide +kernel, rfl, by decide +kernel, ?_⟩; unfold Claims.joined; decide +kernel
theorem test_witness_attestation : (demo.die? 0).map (·.enabled) = some true ∧ (List.replicate 48 (0 : Byte)).length = 48 := by decide +kernel
theorem test_witness_root : (List.replicate 255 (0 : Byte)).length ≠ 256 ∧ (∀ y, demoCancel.vifs.find? (fun z => z.id = 0) = some y → y.root.isSome = true) := by
  refine ⟨by rw [List.length_replicate]; decide, fun y hy => ?_⟩
  have h : demoCancel.vifs.find? (fun z => z.id = 0) = some { Vif.fresh 0 with root := some 1 } := by decide +kernel
  rw [h] at hy; rw [← Option.some.inj hy]; rfl
def audit : Audit := { gang := 1, die := 0, quad := 0, region := 1, fdom := 0, lb := launchBlockOf 0x20100 (2 ^ 64 + 15 * 2 ^ 512) [], classes := 15, batch := [], selected := true, stores := [(64, 1)], records := [], lines := [], seen := [] }
/-- One enabled die whose first quad's core ran the gang; core 4 is in another quad. -/
def demoAudit : State := { demo with audits := [audit], cores := demo.cores ++ [{ demoCore with id := 4 }] }
theorem test_witness_audit : demo.audits.find? (fun a => a.die = 0 ∧ a.selected) = none ∧ demoAudit.audits.find? (fun a => a.die = 0 ∧ a.selected) = some audit ∧
    signature [] [(64, 1)] = signature audit.records audit.stores ∧ signature [] [(64, 2)] ≠ signature audit.records audit.stores := by decide +kernel
theorem test_witness_replays : Claims.replays demoAudit audit 4 ∧ ¬ Claims.replays demoAudit audit 0 := by
  have h4 : demoAudit.core? 4 = some { demoCore with id := 4 } := by decide +kernel
  have hd : ∀ d ∈ demoAudit.dies, d.enabled = true → d.id = 0 := by decide +kernel
  refine ⟨⟨⟨_, .a, h4, rfl, by decide +kernel, by decide +kernel, by decide +kernel⟩, by decide +kernel, ?_, fun _ => by decide +kernel⟩, fun h => ?_⟩
  · rintro ⟨d, hm, he, hn⟩; exact absurd (hd d hm he) hn
  · exact absurd h.2.1 (by decide +kernel)
/-- Arrays that an error can strike: a register pair, a word of the L1, an accumulator, a slate, a tile, a word of scratch, and a line of code. -/
theorem test_witness_struck : (demo.thread? 1).map (fun t => (decide (t.run ≠ .exited), decide (2 * 5 < t.budget))) = some (true, true) ∧ (demoDirty.l1? 0 (1024 * 8 / 8)).isSome = true ∧ (demoMat.acc? 0 3).isSome = true ∧
    (demoMat.slate? 0 1).isSome = true ∧ (demoMat.tile? 0 10).isSome = true ∧ (demo.pad? 1 0).map (fun p => decide (8 * 5 < p.size)) = some true ∧ demo.struck = [] ∧
    (demo.core? 0).map (fun c => c.icache.any (fun l => l.1 = 64)) = some true := by decide +kernel
/-- An image that the service makes a root of, with its table of virtual dies at 0x50000. -/
def rootImage : List Byte := natBytes 256 (2 ^ 128 + 2 ^ 356 + 0x50000 * 2 ^ 384 + 0x10000 * 2 ^ 512 + bareLayout.toNat * 2 ^ 576 + 2 ^ 640)
def demoRoot : State := { demo with regions := [], vifs := [Vif.fresh 0], cores := [{ demoCore with walkTlb := demoCore.tlb }], mem := writeBytes [] 0x50000 (natBytes 8 1) }
theorem test_witness_root_made : (demoRoot.vifs.find? (fun z => z.id = 0)).map (·.root) = some none ∧ rootImage.length = 256 ∧ (demoRoot.dies.find? (·.enabled)).map (·.id) = some 0 ∧
    (let r : Region := { regionOf demoRoot.freeNum 0 0 0 (bytesNat rootImage) [] [] with ovr := 0xFFFF }
    match demoRoot.deviceRuns 0 r (BitVec.ofNat 64 (r.vdtAddr.toNat / 64 * 64)) 1 [] with
    | some (vw, t) => (match t.deviceNodes 0 r r.nodetab (bytesNat rootImage / 2 ^ 816 % 2 ^ 16) [] with
      | some (nodes, u) =>
        let w := bytesNat ((vw.drop (r.vdtAddr.toNat % 64)).take 8)
        let q : Region := { r with nodes := nodes.map (·.1), vdt := vdtOf w }
        u.rootOk q nodes w && (u.carve q).isSome && !u.rootOk { q with classes := 0 } nodes w
      | none => false)
    | none => false) = true := by decide +kernel
theorem test_witness_soft_errors : demo.physKind (2 ^ 41) = .bad ∧ demo.physKind (2 ^ 43) = .host ∧ demo.physKind 0x10000 = .dram 0 ∧ 0x10000 / 8 ∉ demo.badWords ∧ 0x10000 / 8 ∉ demo.weak := by decide +kernel
theorem test_witness_envelope : (∀ r ∈ [((0 : Nat), (4096 : Nat))], ∃ e ∈ demo.envCxl, e.1 ≤ r.1 ∧ r.1 + r.2 ≤ e.1 + e.2) ∧ (∃ r ∈ [(0, 2 ^ 65)], ∀ e ∈ demo.envCxl, ¬ (e.1 ≤ r.1 ∧ r.1 + r.2 ≤ e.1 + e.2)) ∧ Memory.wf demo.mem = true := by decide +kernel


/-! ### Witnesses: further clauses -/

/-- R40, R41: the line of a bundle's first thread comes from a fetch, and a later one of the bundle shares it. -/
theorem test_witness_line_came : let x := turnOf (demoLine nopLine)
    Claims.lineCame x nopLine ((x.fetch x.me.pc).2.fuse nopLine) ∧ (let y := (x.fetch x.me.pc).2.fuse nopLine; Claims.lineCame y nopLine y) := by
  have h1 : (turnOf (demoLine nopLine)).bundleLine = none := by decide +kernel
  have h2 : ((turnOf (demoLine nopLine)).fetch (turnOf (demoLine nopLine)).me.pc).1 = .line nopLine := by decide +kernel
  have h3 : (((turnOf (demoLine nopLine)).fetch (turnOf (demoLine nopLine)).me.pc).2.fuse nopLine).bundleLine = some nopLine := by decide +kernel
  refine ⟨?_, ?_⟩
  · simp only [Claims.lineCame, h1]; exact ⟨_, pair_of h2, rfl⟩
  · simp only [Claims.lineCame, h3, and_self]
/-- An event that lets no time pass, one whose tick comes before anything else, and one for which a ready thread would wait too long. -/
def demoNap (since : Nat) : State := { demo with me := { demoThread with run := .waiting { kind := .nap, limit := some 100 } }, others := if since = 0 then [] else [{ demoThread with uid := 2, since := 0 }], cycle := since }
theorem test_witness_event_time : ∀ x ∈ [(Instr.scrubPass 0, (0 : Nat), (0 : Nat), (0 : Nat)), (.napExpiry 1, 0, 40, 40), (.napExpiry 1, 4000, 40, 38)],
    x.1.isEvent = true ∧ (match exec x.1 (demoNap x.2.1) with | .next t => t.time - (demoNap x.2.1).time == x.2.2.1 && (demoNap x.2.1).tickRoom x.2.2.1 == x.2.2.2 | _ => false) = true := by decide +kernel
theorem test_witness_two_producers : let p : Prod := { tag := 1, d := 4, n := 2, val := none }; let q : Prod := { tag := 2, d := 5, n := 1, val := none }
    demoThread.prods = [] ∧ p.dead = [] ∧ q.dead = [] ∧ p.tag ≠ q.tag ∧ ([7, 8] : List Word).length = p.n ∧ ([9] : List Word).length = q.n ∧ p.covers 5 = true ∧
    (((demoThread.produce p).produce q).prods.map (·.tag)) = [1, 2] := by decide +kernel
theorem test_witness_special_registers : demo.gang? demo.me.gang = some (bareGang 1 1) ∧ demo.group? demo.me = some { bareGroup 1 with width := 1 } ∧ (demo.regionOf demo.me).isSome = true ∧
    ((demo.core? demo.me.core).bind (·.cls)) = some .a := by decide +kernel
theorem test_witness_exit_reports : demo.me.handling = [] ∧ demo.me.contained = [] ∧ demoTwo.me.handling = [] ∧ demoTwo.me.contained = [] := by decide +kernel
theorem test_witness_fe_pending_pair : (demo.produce 3 1 none).issues (.feSet (P 2 0 0 0) (ctl 3 0)) = true ∧ [(2 : Reg), 2 + 1].find? (demo.produce 3 1 none).me.pending = some 3 := by decide +kernel
/-- A stack pointer beyond the private space. -/
theorem test_witness_push_past : let s : State := { demo with me := { demoThread with stk := 0x108 } }
    s.issues (.call { P 0 0 0 0 with lit := some 4 } (ctl 0 0)) = true ∧ (s.checkTarget 0x1004 true).1 = .ok ∧ (s.checkTarget 0x1004 true).2.me.privSize < (s.checkTarget 0x1004 true).2.me.stk.toNat := by decide +kernel
theorem test_witness_trap_ret_record : ((demoHandler 6).me.handler.map (·.record)) = some [] := by decide +kernel
theorem test_witness_quotients : Claims.rat (.fin false 1 0) = some 1 ∧ Claims.rat (.fin false 3 0) = some 3 ∧ Claims.rat (.fin true 2 0) = some (-2) := by
  refine ⟨?_, ?_, ?_⟩ <;> norm_num [Claims.rat]
/-- Operands of `MIN` and `MAX`: a smaller and a larger, zeros of both signs, and NaNs. -/
theorem test_witness_min_max : let v (n : Nat) := Fmt.f32.value noBank n
    (v 0x3F800000).cmp (v 0x40400000) = some .lt ∧ (v 0x40400000).cmp (v 0x3F800000) = some .gt ∧ (v 0).cmp (v 0x80000000) = some .eq ∧ (v 0).sign ≠ (v 0x80000000).sign ∧
    (v 0x7FC00000).isNan = true ∧ (v 0).isNan = false := by decide +kernel
theorem test_witness_function : sfuSpecial .rcp (Fmt.f32.value noBank 0x40400000) = none ∧ (match Fmt.f32.value noBank 0x40400000 with | .fin false m e => decide (m * 2 ^ e.toNat = 3 * 2 ^ (e.toNat - e).toNat) | _ => false) = true ∧
    (FpMod.s .f32).ty = .f32 := by decide +kernel
/-- A chain whose inbound value is yet to come, and one whose own value the next group has not taken. -/
theorem test_witness_chain_waits : let s : State := { demoSecond with groups := [{ bareGroup 1 with width := 1 }, { bareGroup 1 with gid := 1, width := 1 }] }
    let r : State := { demoFirst with groups := [{ bareGroup 1 with width := 1 }, { bareGroup 1 with gid := 1, width := 1, edgeUp := some 5 }] }
    (∀ x ∈ [s, r], x.issues (.laneChain (P 3 4 0 5) (fp .i32)) = true ∧ x.uncancelled = true ∧ (match x.group? x.me with
      | some g => (x.participants .chain g.started false [Claims.laneVal x (fp .i32) 4]).isSome | none => false) = true) ∧
    (s.group? s.me).map (fun g => (Claims.chainStart s g true, Claims.buffer true g, Claims.openGroup s (g.gid - 1))) = some (false, none, true) ∧
    (r.group? r.me).map (fun g => ((Claims.chainDest r g true).bind (Claims.buffer true)).isSome) = some true := by decide +kernel
/-- A wait on a misaligned object, and accesses that cross into a page without a translation, or without memory. -/
def demoCross : State :=
  { demoWith [(240, 0x7FFFFFFF), (242, 0x3FFFFFFE), (2, 0x10004)] with
    cores := [{ demoCore with tlb := demoCore.tlb ++ [{ asid := 1, va := 1, log := 30, pa := 224 * 2 ^ 30, w := true, u := true, x := true, db := true }] }] }
theorem test_witness_accesses_cross : demoCross.uncancelled = true ∧ (∀ i ∈ [Instr.barWait (P 0 2 0 8) bar, .barSync (P 0 2 0 0) bar, .ldu (P 9 240 0 0) (mem .glb 2), .ldu (P 9 242 0 0) (mem .glb 2)], demoCross.issues i = true ∧ (Claims.access i).isSome = true) ∧
    (demoCross.me.rd2 2).toNat % 16 ≠ 0 ∧ (demoCross.translate 0x7FFFFFFF .read).1 = .ok (224 * 2 ^ 30 + 0x3FFFFFFF) ∧ 4096 < 0xFFF + 4 ∧ ((demoCross.translate 0x7FFFFFFF .read).2.translate 0x80000000 .read).1 = .fault 1 ∧
    (demoCross.translate 0x3FFFFFFE .read).1 = .ok 0x3FFFFFFE ∧ ((demoCross.translate 0x3FFFFFFE .read).2.translate 0x40000000 .read).1 = .ok (224 * 2 ^ 30) ∧ demoCross.physKind (224 * 2 ^ 30) = .bad := by decide +kernel
/-- The check of R335 that an access meets first, by its place in their order. -/
def parcelCheck (s : State) (o : LOps) (n : Nat) : Nat :=
  let h := s.me.rd2 o.a
  let p := s.parcel (h.toNat / 2 ^ 24 % 2 ^ 24)
  let off := Claims.parcelOffset s o
  if h.toNat / 2 ^ 48 ≠ s.chip.toNat then 1 else if p.st = .free ∨ p.num = 0 then 2 else if p.gen ≠ h.toNat % 2 ^ 24 then 3 else if s.reaches p.region (s.regionNum s.me) = false then 4
  else if p.st ≠ .opened ∧ p.st ≠ .sealed then 5 else if ((2 ^ p.lsz : Nat) : Int) < off + n then 6 else if off < 64 ∨ ((2 ^ p.lsz - 2 ^ p.lsz / 64 : Nat) : Int) < off + n then 7
  else if p.st = .sealed then 8 else 9
theorem test_witness_parcel_checks : ∀ x ∈ [((36 : Reg), (64 : Word), 1), (38, 64, 2), (40, 64, 3), (42, 64, 4), (24, 64, 5), (20, 0x10000, 6), (20, 0, 7), (20, 0xFFFFFFF8, 7), (22, 64, 8)],
    demoPar.issues (.st { P 0 x.1 0 8 with lit := some x.2.1 } (mem .par 3)) = true ∧ (Claims.effective demoPar .par { P 0 x.1 0 8 with lit := some x.2.1 }).toNat % 8 = 0 ∧
    parcelCheck demoPar { P 0 x.1 0 8 with lit := some x.2.1 } 8 = x.2.2 := by decide +kernel
theorem test_witness_float_atomics : ∀ op ∈ [0, 1, 2], op < 3 ∧ (0x3F803F80 : Nat) < 2 ^ 32 := by decide
/-- The demo's object with no arrival due and with no valid content; `BAR.SYNC` at a PC that keeps no token. -/
def demoBarOf (v : Nat) (syncs : List (Dword × Word)) (phases : List Phased) : State := { demoBar with mem := writeBytes [] 0x10000 (natBytes 16 v), me := { demoBar.me with syncs := syncs }, phases := phases }
theorem test_witness_barrier_traps : let s := demoBarOf 0 [] []
    (∀ i ∈ [Instr.barArrive (P 7 2 0 0) bar, .barDrop (P 0 2 0 0) bar, .barTest (P 7 2 0 8) bar, .barWait (P 0 2 0 8) bar, .barSync (P 0 2 0 0) bar], s.issues i = true) ∧ s.uncancelled = true ∧ ¬ Claims.soundObject 0 ∧
    (∀ acc ∈ [Acc.write, .read], at1 s .glb (P 0 2 0 0) 16 acc true (fun q a t => (t.toPoint q t.me.core a 16 t.myCause).pointRead q a 16 == 0 && (t.me.syncs.find? (fun y => y.1 == t.me.pc)).isNone &&
      [Ord.rel, .acq, .rlx].all (fun x => (t.admits (Claims.atPoint t (.rmw (.link .n128)) q [(a, 16)] (scopeOf 0) x)).isSome) && (t.admits (Claims.atPoint t (.rmw (.cas .n128 0 0)) q [(a, 16)] (scopeOf 0) .rel)).isSome &&
      ((t.upd (fun y => { y with resv := none })).admits (Claims.atPoint (t.upd (fun y => { y with resv := none })) (.rmw (.link .n128)) q [(a, 16)] (scopeOf 0) .acq)).isSome) = true) ∧
    (demoBarOf (Claims.object 3 1 1 3) [] []).issues (.barArrive (P 7 2 0 8) bar) = true ∧ bitsOf (Claims.object 3 1 1 3) 47 32 < (demoBar.me.rd 8).toNat ∧ bitsOf (Claims.object 3 1 1 3) 63 48 = 1 ∧
    demoBar.me.rd 0 = 0 ∧ demoBar.issues (.barInit (P 0 2 0 0) (syn 0 .glb .n32 .quad .rel)) = true := by
  refine ⟨by decide +kernel, by decide +kernel, ?_, by decide +kernel, by decide +kernel, by decide +kernel, by decide +kernel, by decide +kernel, by decide +kernel⟩
  unfold Claims.soundObject; decide
/-- The first execution of a `BAR.SYNC`: alone, its arrival ends the phase; with another to come, it waits. -/
theorem test_witness_barrier_first_sync : ∀ x ∈ [(1, true), (2, false)], let s := demoBarOf (Claims.object 3 x.1 2 3) [] []
    s.issues (.barSync (P 0 2 0 0) bar) = true ∧ Claims.goodObject (Claims.object 3 x.1 2 3) 3 x.1 2 3 ∧ at1 s .glb (P 0 2 0 0) 16 .write true (fun q a t =>
      (t.me.syncs.find? (fun y => y.1 == t.me.pc)).isNone && (t.toPoint q t.me.core a 16 t.myCause).pointRead q a 16 == Claims.object 3 x.1 2 3 &&
      (let z := Claims.atPoint t (.rmw (.cas .n128 0 0)) q [(a, 16)] (scopeOf 3) .rel
       match t.admits z with
       | some u =>
         let w := (Claims.counted ((Claims.noted (u.rmwNow z (fun v => arrive v 1 false)).2 q a (if x.1 = 1 then 4 else 3)).upd (fun y => { y with syncs := (y.pc, 3) :: y.syncs }))).upd (fun y => { y with resv := none })
         let v := (w.toPoint q w.me.core a 16 w.myCause).pointRead q a 16
         decide (2 ≤ bitsOf v 66 64 ∧ bitsOf v 66 64 ≤ 5 ∧ 1 ≤ bitsOf v 47 32 ∧ bitsOf v 47 32 ≤ bitsOf v 63 48) && (BitVec.ofNat 32 (bitsOf v 31 0) != (3 : Word)) == x.2 &&
         (w.admits (Claims.atPoint w (.rmw (.link .n128)) q [(a, 16)] (scopeOf (bitsOf v 66 64)) .acq)).isSome
       | none => false)) = true := by unfold Claims.goodObject; decide +kernel
/-- A phase that a barrier instruction has left at the object, and one that it has not. -/
theorem test_witness_barrier_pairing : (∀ y ∈ (demoBarOf 0 [] [{ space := .glb, a := 0x10000, phase := 3 }]).phases, y.space = .glb → y.a = 0x10000 → y.phase = 3) ∧
    ∃ y ∈ (demoBarOf 0 [] [{ space := .glb, a := 0x10000, phase := 2 }]).phases, y.space = .glb ∧ y.a = 0x10000 ∧ y.phase ≠ 3 := by decide +kernel
theorem test_witness_cache_trusted : demoDirty.suspect 1024 = false ∧ demoDirty.handovers = [] := by decide +kernel
theorem test_witness_units_absent : ∀ i ∈ [Instr.chkClear (P 0 7 0 0) (ctl 0 0), .chkSample (P 8 7 0 0) (ctl 0 2)], demoUnits.issues i = true ∧ demoUnits.me.rd 7 = 0x4000 := by decide +kernel
theorem test_witness_chk_fence : ∀ x ∈ demoMem.ops, x.uid = demoMem.me.uid → x.isWrite = false ∧ x.releases = false ∧ x.isFence = false := by decide +kernel
/-- A tile that a copy command brought to `READY`. -/
theorem test_witness_tile_seen : let t := { tile 2 16 4 .f32 .ready with copied := some (7, .dev) }
    t.copied = some (7, .dev) ∧ t.st = .ready ∧ (tile 1 16 4 .f32 .filling).copied = none := by decide +kernel
/-- A queued fault on a tile, whose thread can take it. -/
theorem test_witness_tile_fault : ∃ c ∈ ({ demoTiles with copies := [{ elemCmd .load 0 true none with tile := 2, st := .faulted { cause := 14, faddr := 0, code := 1, elem := 0 } }] } : State).copies, c.core = 0 ∧ c.tile = 2 ∧ (∃ p, c.st = .faulted p) ∧ ∃ h, demoTiles.heir c.uid = some h ∧ demoTiles.cmdAway h = false := by
  refine ⟨_, List.mem_singleton.2 rfl, rfl, rfl, ⟨_, rfl⟩, 1, by decide +kernel, by decide +kernel⟩
/-- A reserved space in operand A and in operand B, with good operands before it. -/
theorem test_witness_stream_operands : ∀ x ∈ [(Instr.nestCopy (nestOf 1 6 0 1 1 0), 1), (.nestAdd (nestOf 1 2 6 1 1 1), 2)], demoNest.issues x.1 = true ∧ (match Claims.nestCode x.1 with
    | some (op, o) => (Claims.nestMem op).contains x.2 && Claims.nestSp (Claims.nestWord demoNest o x.2) == 3 &&
        (Claims.nestMem op).all (fun j => decide (x.2 ≤ j) || (Claims.nestSp (Claims.nestWord demoNest o j) == 0 && (Claims.nestWord demoNest o j).toNat / 2 ^ 57 % 32 == 0 && !(op == 3 && j == 1)))
    | none => false) = true := by decide +kernel
/-- A handle that is bound, and one for which the pool has room; the demo's gang is not away. -/
theorem test_witness_bindable : Claims.bindable demoMat 2 ∧ Claims.bindable demoMat 3 ∧ demoMat.away demoMat.me.gang = false := by
  refine ⟨.inl (by decide +kernel), .inr (by decide +kernel), by decide +kernel⟩
/-- The demo's group loses what it has on core 0; its second thread is told, and a thread of another group is not. -/
def demoLosers : State := { demoReset with others := [{ demoThread with uid := 2, member := 1, lane := 1 }, { demoThread with uid := 3, gid := 5 }] }
theorem test_witness_losers : let l : List GKey := [{ gang := 1, role := 0, gid := 0 }]
    l.Nodup ∧ (∀ k, k ∈ l ↔ Claims.loses demoLosers 0 k) ∧ (demoLosers.others.map (fun x => (decide (x.run ≠ .exited), decide (x.gkey ∈ l)))) = [(true, true), (true, false)] ∧ (demoLosers.threads.map (·.uid)).Nodup := by
  have hg : demoLosers.groups = [{ bareGroup 1 with width := 1 }] := rfl
  have hm : demoLosers.matrix = [] := rfl
  have hb : demoLosers.binds = [{ id := 2, core := 0, g := { gang := 1, role := 0, gid := 0 }, h := 2, acc := 3, leaving := false }] := rfl
  have ha : demoLosers.away 1 = false := by decide +kernel
  refine ⟨by decide, fun k => ?_, by decide +kernel, by decide +kernel⟩
  simp only [Claims.loses, hg, hm, hb, List.mem_singleton, List.not_mem_nil, false_and, exists_false, or_false, exists_eq_left, bareGroup, ha, true_and]
  constructor
  · intro h; exact ⟨h.symm, .inl h.symm⟩
  · rintro ⟨h, -⟩; exact h.symm
/-- A region whose gang has still to end, and one whose card's completion is still to be written; then neither. -/
theorem test_witness_region_free_waits : (∃ g ∈ ({ demoGraph with gangs := bareGang 9 2 :: demoGraph.gangs } : State).gangs, g.region = 2) ∧
    (∃ w ∈ [({ space := some 2, core := 0, va := 0x1000, kind := .add 5, parked := none } : DevWrite)], w.space = some 2 ∧ w.adds = true) ∧
    (∀ g ∈ demoGraph.gangs, g.region ≠ 2) ∧ demoGraph.devWrites = [] := by decide +kernel
/-- `REGION.NEW` with an image that fails one check of R326 and none before it. -/
def demoImage (n : Nat) (f : State → State) : State := f { demoGraph with mem := writeBytes demoGraph.mem 0x30000 (natBytes 256 n) }
def crowded (s : State) : State := { s with regions := s.regions ++ List.replicate 4089 (bareRegion 8 0) }
def carvedUp (s : State) : State :=
  { s with regions := s.regions.map (fun r => if r.num = 1 then { r with tdir := 4, vdt := [0] } else if r.num = 5 then { r with tdir := 384, tdwoff := [some 0, none, none, none] } else r) }
theorem test_witness_region_fails : ∀ x ∈ [(2 ^ 86, id, 4), (2 ^ 88, id, 7), (2 ^ 80 + 200 * 2 ^ 128, id, 5), (2 ^ 83 + 2 * 2 ^ 320, carvedUp, 6), (0, crowded, 9)],
    image (demoImage x.1 x.2.1) (fun u nodes r => (match u.regionOf u.me with
      | some p => p.state == .active && nodes.isEmpty && !r.sys && imageOk r == (x.2.2 != 4) && ((x.2.2 == 4) || ptValid r.ptel == (x.2.2 != 7)) && ((x.2.2 == 4) || (x.2.2 == 7) || u.budgetOk r == (x.2.2 != 5)) &&
          ((x.2.2 != 6) || (u.carve r).isNone) && ((x.2.2 != 9) || ((u.carve r).isSome && decide (4096 ≤ u.regions.length)))
      | none => false)) = true := by decide +kernel
/-- An image whose one node's launch block is of zeros. -/
theorem test_witness_region_bad_node : image (demoImage (2 ^ 816 + 0x30200 * 2 ^ 832) (fun s => { s with mem := writeBytes s.mem 0x30200 (natBytes 64 0x30300) })) (fun u nodes r => (match u.regionOf u.me with
      | some p => p.state == .active && nodes.any (fun x => !nodeOk x.1 x.2 r.classes (0, 2 ^ 64)) && nodes.any (fun x => !nodeOk x.1 x.2 r.classes (0, 0)) && nodes.all (fun x => !x.1.blk.valid x.2 r.classes x.1.pad)
      | none => false)) = true := by decide +kernel
theorem test_witness_perform_units : (∀ p ∈ demoMem.purlin, p.inject = none) ∧ demoMem.handovers = [] ∧ demoParked.devWrites = [] := by decide +kernel
/-- A bad record whose interval is right, under RULE 32 and under another; one whose interval is wrong. -/
theorem test_witness_bad_records : let r := { handover 1 6 with dup := true }
    r.interval = r.expect ∧ r.dup = true ∧ (handover 1 6).interval = (handover 1 6).expect ∧ (handover 1 6).dup = false ∧ (handover 2 5).interval ≠ (handover 2 5).expect ∧ (demoHeld [] []).memoriesWf := by
  unfold State.memoriesWf; decide +kernel
theorem test_witness_copy_alone : (∀ x ∈ ((demoElem (elemCmd .load 0x20080 false none)).copies.takeWhile (fun x => x.id ≠ 7)), x.uid = 1 → x.st.live = true → ∀ a, x.op ≠ .store a) ∧
    (demoElem (elemCmd .load 0x20080 true none)).handovers = [] ∧ (((demoElem (elemCmd .load 0x20080 true none)).copiesOf 0).takeWhile (fun x => x.id ≠ 7)).length < 8 ∧
    (∀ t ∈ ({ demoNest with streams := [scratchFill] } : State).threads, t.logs = []) := by decide +kernel
theorem test_witness_dispatch_alone : (∀ b ∈ (demoReady .ring).batches, b.st ≠ .sealed) ∧ (∀ b ∈ demoSaved.batches, b.st ≠ .sealed) ∧ demoDeal.handovers = [] ∧ demo.me.queued = false := by decide +kernel
/-- A link that waits with its retrain for what it carries, and one that carries nothing. -/
def demoTraining : State := { demoPorts with ports := [{ port := 0, live := true, seq := 0, fails := 0, heard := 0, training := some { remotes := [4], colls := [], parcels := [] } }, { port := 1, live := true, seq := 0, fails := 0, heard := 0 }] }
theorem test_witness_training : (demoTraining.port? 0).map (fun p => p.training.isSome) = some true ∧ (∃ r ∈ demoTraining.remotes, r.id ∈ [4]) ∧ (demoTraining.port? 1).map (·.training) = some none ∧
    (∀ p ∈ demoPorts.ports, p.training = none) ∧ (∀ d ∈ demoPar.drains, d.round = 3 → ((demoPar.parcel 3).num, (demoPar.parcel 3).gen) ∉ d.parcels) := by decide +kernel
/-- A drain in its last round whose parcel a thread still accesses. -/
theorem test_witness_drain_busy : let s : State := { demoPorts with ops := [pending (.load false) .glb [(0x430040, 8)] [] .th none] }
    (s.drains[1]?).map (fun d => (d.round, d.parcels)) = some (2, [(3, 7)]) ∧ (s.parcel 3).gen = 7 ∧ (s.parcel 3).st = .inTransit ∧ s.parcelBusy (s.parcel 3) = true := by decide +kernel
theorem test_witness_decoded : Claims.decoded demo (64 * (0x10000 / 64)) 64 ∧ Claims.decoded demo 0x10000 2 ∧ Claims.decoded demo (2 ^ 44) (2 ^ 42) ∧ ¬ Claims.decoded { demo with envCxl := [] } 0x10000 2 ∧ demo.handovers = [] ∧
    demo.remotes = [] ∧ demo.colls = [] ∧ demo.devWrites = [] ∧ demo.vifs.find? (fun z => z.id = 0) = some (Vif.fresh 0) := by unfold Claims.decoded; decide +kernel
/-- An audit whose replay has ended: abandoned, with the same signature, and with another. -/
def demoReplayed (out : Option ReplayOut) : State := { demoAudit with audits := [{ audit with replay := some ⟨4, out⟩ }] }
theorem test_witness_replayed : ∀ x ∈ [(none : Option ReplayOut), some { stores := [(64, 1)], records := [] }, some { stores := [(64, 2)], records := [] }],
    ((demoReplayed x).audits.find? (fun a => a.die = 0 ∧ a.selected)).map (·.replay) = some (some ⟨4, x⟩) ∧ audit.replay ≠ some ⟨4, x⟩ := by decide +kernel
theorem test_witness_register_frame : (demoFloat 0).me.fcr.getLsbD 22 = false ∧ ((demoFloat 0).me.fcr >>> 4) &&& 63 = 0 ∧ (∀ i ∈ [Instr.fpAdd (P 4 6 8 0) (fp .f64), .fpCmp (P 0x3F 4 5 0) (fp .f32), .padd (P 3 4 5 0) (fp .bf16),
    .fpAbs (P 3 4 0 0) (fp .bf16), .addF32S32 (S 3 4 5)], (demoFloat 0).issues i = true ∧ (Claims.floatWrites i.long).isSome = true) ∧ (demoFloat 0x3F0).issues (.fpDiv (P 3 4 0 0) (fp .f32)) = true ∧
    (demoFloat 0x3F0).me.fcr.getLsbD 22 = false ∧ (demoFloat 0).sfuFull = false ∧ (Claims.queued (demoFloat 0) (.rcp (P 3 4 0 0) (fp .f32))).isSome = true := by decide +kernel

/-! ### Effects of single instructions, worked out by hand from the rules -/

def regIs (i : Instr) (s : State) (r : Reg) (w : Word) : Bool := nextHas (exec i s) (fun t => t.me.rd r == w && t.me.pc == nextStart s.me.pc i.syllables)
/-- g4 = 0x7FFFFFFF, g5 = 1, g6 = -2, g7 = 33, g8 = 1.0, g9 = 3.0 in F32, g10 = 0x80000000. -/
def demoVals : State := demoWith [(4, 0x7FFFFFFF), (5, 1), (6, 0xFFFFFFFE), (7, 33), (8, 0x3F800000), (9, 0x40400000), (10, 0x80000000)]
/-- R99, R102: sums wrap, or saturate at the type's limits. -/
theorem test_add_wraps : regIs (.add (P 20 4 5 0) (int .i32)) demoVals 20 0x80000000 = true := by decide +kernel
theorem test_add_saturates : regIs (.add (P 20 4 5 0) { int .i32 with sat := true }) demoVals 20 0x7FFFFFFF = true := by decide +kernel
theorem test_sub_source_is_destination : regIs (.sub (P 5 5 4 0) (int .i32)) demoVals 5 0x80000002 = true := by decide +kernel
/-- R106: a shift by the width or more leaves zero, or the sign. -/
theorem test_shl_past_width : regIs (.shl (P 20 5 7 0) (int .n32)) demoVals 20 0 = true := by decide +kernel
theorem test_sar_past_width : regIs (.sar (P 20 6 7 0) (int .i32)) demoVals 20 0xFFFFFFFF = true := by decide +kernel
theorem test_mulh_signed : regIs (.mulh (P 20 4 6 0) (int .i32)) demoVals 20 0xFFFFFFFF = true := by decide +kernel
/-- R62: g0 reads as zero and keeps no value. -/
theorem test_zero_register : nextHas (exec (.add (P 0 4 5 0) (int .i32)) demoVals) (fun t => t.me.rd 0 == 0 && t.me.pc == 0x1008) = true := by decide +kernel
/-- R131: 1 + 3 is exact; the same bits come from a fused product. -/
theorem test_float_add : regIs (.fpAdd (P 20 8 9 0) (fp .f32)) demoVals 20 0x40800000 = true := by decide +kernel
theorem test_float_fma : regIs (.fma (P 20 9 9 8) (fp .f32)) demoVals 20 0x41200000 = true := by decide +kernel
/-- R194: a store to the private space, lowest byte first. -/
theorem test_store_private : nextHas (exec (.st (P 0 0 0 4) (mem .prv 2)) demoVals) (fun t => t.ops.map (fun o => (o.space, o.segs, o.data)) == [(.prv 1, [(0, 4)], [some 0xFF, some 0xFF, some 0xFF, some 0x7F])]) = true := by decide +kernel
/-- R362, R364: a trap whose cause is 12 for a misaligned address enters the handler of the region with its frame in place. -/
theorem test_trap_enters : nextHas (exec (.ld (P 20 4 0 0) (mem .glb 3)) demoVals) (fun t => t.me.pc == 0x1000 && (t.me.handler.map (·.cause)) == some 12) = true := by decide +kernel
/-- R84: an exit ends the thread. -/
theorem test_exit : nextHas (exec (.exitS32 (S 0 0 0)) demoVals) (fun t => t.me.run == .exited) = true := by decide +kernel

end Sys2Proof.Tests
end
end

section
/-! The bits of an integer (R97 to R108): how a bit is read through division, remainder and a change of sign, so that a value is known
from its bits below a type's width. -/
namespace Sys2Proof.Machine

theorem natCast_two_pow (w : Nat) : ((2 ^ w : Nat) : Int) = 2 ^ w := by push_cast; rfl

theorem testBit_natCast (n k : Nat) : (n : Int).testBit k = n.testBit k := rfl

/-- The bits of `n - 2^w`, where `n` has no bit from `w` on: those of `n`, and ones above them. -/
theorem testBit_sub_two_pow {n w : Nat} (h : n < 2 ^ w) (k : Nat) :
    ((n : Int) - 2 ^ w).testBit k = if k < w then n.testBit k else true := by
  have hneg : (n : Int) - 2 ^ w = Int.negSucc (2 ^ w - (n + 1)) := by
    have hc := natCast_two_pow w
    omega
  rw [hneg]
  show (!(2 ^ w - (n + 1)).testBit k) = _
  rw [Nat.testBit_two_pow_sub_succ h]
  by_cases hk : k < w <;> simp [hk]

theorem testBit_emod_two_pow (x : Int) (w k : Nat) : (x % 2 ^ w).testBit k = (decide (k < w) && x.testBit k) := by
  cases x with
  | ofNat n =>
    rw [← natCast_two_pow]
    exact Nat.testBit_mod_two_pow n w k
  | negSucc n =>
    have hlt : n % 2 ^ w < 2 ^ w := Nat.mod_lt _ (Nat.two_pow_pos w)
    have hnat : Int.negSucc n % 2 ^ w = ((2 ^ w - (n % 2 ^ w + 1) : Nat) : Int) := by
      rw [Int.negSucc_emod n (by positivity), ← natCast_two_pow]
      omega
    rw [hnat, testBit_natCast, Nat.testBit_two_pow_sub_succ hlt, Nat.testBit_mod_two_pow]
    show _ = (decide (k < w) && !n.testBit k)
    cases decide (k < w) <;> simp

theorem testBit_toNat_emod (x : Int) (w k : Nat) : (x % 2 ^ w).toNat.testBit k = (decide (k < w) && x.testBit k) := by
  rw [← testBit_emod_two_pow, ← testBit_natCast, Int.toNat_of_nonneg (Int.emod_nonneg _ (by positivity))]

theorem testBit_ediv_two_pow (x : Int) (n k : Nat) : (x / 2 ^ n).testBit k = x.testBit (k + n) := by
  cases x with
  | ofNat m =>
    rw [← natCast_two_pow]
    exact Nat.testBit_div_two_pow m k
  | negSucc m =>
    have hdiv : Int.negSucc m / 2 ^ n = Int.negSucc (m / 2 ^ n) := by
      rw [Int.negSucc_ediv m (by positivity), ← natCast_two_pow]
      rfl
    rw [hdiv]
    show (!(m / 2 ^ n).testBit k) = !m.testBit (k + n)
    rw [Nat.testBit_div_two_pow]

/-- A `w`-bit pattern read as a two's complement number repeats its top bit from `w` on. -/
theorem testBit_signed {a w : Nat} (h : a < 2 ^ w) (k : Nat) :
    (if a.testBit (w - 1) then (a : Int) - 2 ^ w else a).testBit k = a.testBit (if k < w then k else w - 1) := by
  cases hs : a.testBit (w - 1) with
  | true =>
    rw [if_pos rfl, testBit_sub_two_pow h]
    split <;> simp [hs]
  | false =>
    rw [if_neg Bool.false_ne_true, testBit_natCast]
    split
    · rfl
    next hk =>
      rw [hs, Nat.testBit_lt_two_pow (lt_of_lt_of_le h (Nat.pow_le_pow_right (by decide) (by omega)))]

end Sys2Proof.Machine
end

section
/-! The operands and results of the integer instructions (R97 to R99): as the model reads and writes them, they are those of the claims. -/
namespace Sys2Proof.Machine
open Claims

/-! ### Types -/

theorem IType.width_pos (t : IType) : 0 < t.width := by cases t <;> decide
theorem IType.width_le (t : IType) : t.width ≤ 64 := by cases t <;> decide

theorem two_pow_width_half (t : IType) : 2 ^ t.width = 2 * 2 ^ (t.width - 1) := by
  rw [← Nat.pow_succ']
  congr 1
  have := IType.width_pos t
  omega

/-! ### Operands (R97, R98) -/

theorem val_eq_ival (t : IType) (n : Nat) : IType.val t n = ival t n := by
  unfold IType.val ival
  cases hs : t.signed with
  | false => simp
  | true =>
    have hw := two_pow_width_half t
    simp only [true_and, if_true, BitVec.toInt_eq_toNat_cond, BitVec.toNat_ofNat]
    have hc := natCast_two_pow t.width
    split <;> split <;> omega

theorem ival_emod (t : IType) (n : Nat) : ival t n % 2 ^ t.width = (n % 2 ^ t.width : Nat) := by
  rw [← val_eq_ival, IType.val]
  push_cast
  split <;> simp

theorem rdNat_regs (x : Thread) (t : IType) (r : Reg) :
    x.rdNat r (IType.regs t) = if t.width = 64 then (x.rd2 r).toNat else (x.rd r).toNat := by
  unfold IType.regs
  split
  · simp only [Thread.rdNat, Thread.rd2, BitVec.toNat_append]
    rw [← Nat.shiftLeft_add_eq_or_of_lt (x.rd r).isLt, Nat.shiftLeft_eq]
    omega
  · rfl

theorem intSrc_eq_isrc (s : State) (t : IType) (r : Reg) : intSrc s t r = isrc s t r := by
  rw [intSrc, isrc, val_eq_ival, rdNat_regs]

theorem intB_eq_iarg (s : State) (o : LOps) (t : IType) : intB s o t = iarg s o t := by
  unfold intB iarg intLit
  cases o.lit with
  | none => exact intSrc_eq_isrc s t o.b
  | some l =>
    simp only [val_eq_ival]
    split <;> rfl

theorem countB_eq_icount (s : State) (o : LOps) : countB s o = icount s o := by
  unfold countB icount
  cases o.lit <;> rfl

/-- The bits of an operand at its type's width, as a number. -/
def operandBits (s : State) (t : IType) (r : Reg) : Nat := s.me.rdNat r (IType.regs t) % 2 ^ t.width

theorem operandBits_lt (s : State) (t : IType) (r : Reg) : operandBits s t r < 2 ^ t.width := Nat.mod_lt _ (Nat.two_pow_pos _)

theorem isrc_emod (s : State) (t : IType) (r : Reg) : isrc s t r % 2 ^ t.width = operandBits s t r := by
  rw [isrc, ival_emod, operandBits, rdNat_regs]

theorem testBit_operandBits (s : State) (t : IType) (r : Reg) (k : Nat) :
    (operandBits s t r).testBit k = (decide (k < t.width) && (isrc s t r).testBit k) := by
  rw [← testBit_emod_two_pow, isrc_emod, testBit_natCast]

theorem abit_eq (s : State) (o : LOps) (m : IntMod) (k : Nat) : abit s o m k = (operandBits s m.ty o.a).testBit k :=
  (testBit_operandBits s m.ty o.a k).symm

theorem val_operandBits (s : State) (t : IType) (r : Reg) : IType.val t (operandBits s t r) = isrc s t r := by
  rw [← intSrc_eq_isrc, intSrc, operandBits, IType.val, IType.val, Nat.mod_mod]

/-! ### `Fit` (R99) -/

theorem fit_eq_ifit (m : IntMod) (v : Int) : fit m v = ifit m v := by
  unfold fit ifit IType.lo IType.hi
  have hp : (0 : Int) < 2 ^ (m.ty.width - 1) := by positivity
  have hq : (0 : Int) < 2 ^ m.ty.width := by positivity
  cases m.sat with
  | false => rfl
  | true =>
    simp only [if_true]
    generalize hlo : (if m.ty.signed then -(2 : Int) ^ (m.ty.width - 1) else 0) = lo
    generalize hhi : (if m.ty.signed then (2 : Int) ^ (m.ty.width - 1) - 1 else 2 ^ m.ty.width - 1) = hi
    have hle : lo ≤ hi := by subst hlo hhi; split <;> omega
    split
    · omega
    · split <;> omega

/-! ### Results (R97) -/

/-- The error of a pair goes only with a write of both its registers (R399). -/
theorem Thread.mend_one (x : Thread) (r : Reg) : x.mend r 1 = x := by
  have h (p : Nat) : decide (r.toNat ≤ 2 * p ∧ 2 * p + 2 ≤ r.toNat + 1) = false := decide_eq_false (by omega)
  simp only [Thread.mend, h, Bool.not_false, List.filter_true]

theorem ival_ofInt (t : IType) (v : Int) : ival t (v % 2 ^ t.width).toNat =
    if t.signed then (BitVec.ofInt t.width v).toInt else (BitVec.ofInt t.width v).toNat := by
  have h : BitVec.ofNat t.width (v % 2 ^ t.width).toNat = BitVec.ofInt t.width v := by
    apply BitVec.eq_of_toNat_eq
    rw [BitVec.toNat_ofNat, BitVec.toNat_ofInt]
    push_cast
    have h0 : 0 ≤ v % 2 ^ t.width := Int.emod_nonneg _ (by positivity)
    have h1 : v % 2 ^ t.width < 2 ^ t.width := Int.emod_lt_of_pos _ (by positivity)
    exact Nat.mod_eq_of_lt (by zify; rwa [Int.toNat_of_nonneg h0])
  rw [ival, h]

/-- A result narrower than a pair is extended to a register by its type. -/
theorem intWords_narrow {t : IType} (h : t.width ≠ 64) (v : Int) :
    intWords t v = [if t.signed then (BitVec.ofInt t.width v).signExtend 32 else (BitVec.ofInt t.width v).setWidth 32] := by
  rw [intWords, if_neg h, val_eq_ival, ival_ofInt]
  split
  · rfl
  · rw [BitVec.ofInt_natCast, BitVec.ofNat_toNat]

theorem intWords_pair {t : IType} (h : t.width = 64) (v : Int) :
    intWords t v = [(BitVec.ofInt 64 v).setWidth 32, (BitVec.ofInt 64 v >>> 32).setWidth 32] := by
  have hn : (BitVec.ofInt 64 v).toNat = (v % 2 ^ 64).toNat := BitVec.toNat_ofInt v
  rw [intWords, if_pos h, h]
  simp only [natWords, ← hn]
  congr 2
  apply BitVec.eq_of_toNat_eq
  simp [Nat.shiftRight_eq_div_pow]

theorem wrInt_eq_iput (s : State) (d : Reg) (t : IType) (v : Int) : s.wrInt d t v = iput s d t v := by
  unfold State.wrInt iput
  by_cases h : t.width = 64
  · rw [if_pos h, intWords_pair h]
    rfl
  · rw [if_neg h, intWords_narrow h]
    show s.upd (fun x => (x.wr d _).mend d 1) = s.upd (·.wr d _)
    simp only [Thread.mend_one]

/-- A result counts only by its bits below the type's width. -/
theorem iput_congr (s : State) (d : Reg) (t : IType) {v v' : Int} (h : v % 2 ^ t.width = v' % 2 ^ t.width) : iput s d t v = iput s d t v' := by
  rw [← wrInt_eq_iput, ← wrInt_eq_iput, State.wrInt, State.wrInt, intWords, intWords, h]

end Sys2Proof.Machine
end

section
/-! The bits of what the shift, field and reversal instructions compute (R106 to R108), for an operand `a` of `t.width` bits and a count
or control word. -/
namespace Sys2Proof.Machine

/-- A pattern of a type's width has no bit from the width on. -/
theorem testBit_of_width_le {t : IType} {a k : Nat} (ha : a < 2 ^ t.width) (hk : t.width ≤ k) : a.testBit k = false :=
  Nat.testBit_lt_two_pow (lt_of_lt_of_le ha (Nat.pow_le_pow_right (by decide) hk))

/-! ### Shifts (R106) -/

theorem testBit_shlValue (t : IType) (a n : Nat) {k : Nat} (hk : k < t.width) :
    (shlValue t a n).testBit k = (decide (n ≤ k) && a.testBit (k - n)) := by
  rw [shlValue, testBit_emod_two_pow, testBit_natCast, Nat.testBit_mul_two_pow]
  have hw := IType.width_le t
  by_cases hn : n ≤ k
  · rw [show Nat.min n 64 = n from Nat.min_eq_left (by omega)]
    simp [hk, hn]
  · have h : ¬ Nat.min n 64 ≤ k := by show ¬ min n 64 ≤ k; omega
    simp [hn, h]

theorem testBit_shrValue {t : IType} {a : Nat} (ha : a < 2 ^ t.width) (n k : Nat) : (shrValue t a n).testBit k = a.testBit (k + n) := by
  rw [shrValue, testBit_natCast, Nat.testBit_div_two_pow]
  have hw := IType.width_le t
  rcases Nat.le_total n 64 with hn | hn
  · rw [show Nat.min n 64 = n from Nat.min_eq_left hn]
  · rw [show Nat.min n 64 = 64 from Nat.min_eq_right hn, testBit_of_width_le ha (by omega), testBit_of_width_le ha (by omega)]

theorem testBit_sarValue {t : IType} {a : Nat} (ha : a < 2 ^ t.width) (n k : Nat) :
    (sarValue t a n).testBit k = a.testBit (if k + n < t.width then k + n else t.width - 1) := by
  rw [sarValue, testBit_ediv_two_pow, testBit_signed ha]
  have hw := IType.width_le t
  rcases Nat.le_total n 64 with hn | hn
  · rw [show Nat.min n 64 = n from Nat.min_eq_left hn]
  · rw [show Nat.min n 64 = 64 from Nat.min_eq_right hn, if_neg (by omega), if_neg (by omega)]

theorem testBit_rotValue {t : IType} {a : Nat} (ha : a < 2 ^ t.width) (n : Nat) {k : Nat} (hk : k < t.width) :
    (rotValue t a n).testBit k = a.testBit ((k + (t.width - n % t.width)) % t.width) := by
  have hr : n % t.width < t.width := Nat.mod_lt _ (IType.width_pos t)
  rw [rotValue, testBit_natCast]
  generalize n % t.width = r at hr ⊢
  -- The bits that leave at the top enter below the others.
  have hw : 2 ^ t.width = 2 ^ r * 2 ^ (t.width - r) := by rw [← Nat.pow_add]; congr 1; omega
  have htop : a * 2 ^ r % 2 ^ t.width = 2 ^ r * (a % 2 ^ (t.width - r)) := by rw [hw, Nat.mul_comm a, Nat.mul_mod_mul_left]
  have hlow : a / 2 ^ (t.width - r) < 2 ^ r := Nat.div_lt_of_lt_mul (by rwa [Nat.mul_comm, ← hw])
  rw [htop, Nat.testBit_two_pow_mul_add _ hlow]
  split
  next h => rw [Nat.testBit_div_two_pow, Nat.mod_eq_of_lt (by omega)]
  next h =>
    have hlt : k - r < t.width - r := by omega
    have hsum : k + (t.width - r) = k - r + t.width := by omega
    rw [Nat.testBit_mod_two_pow, decide_eq_true hlt, Bool.true_and, hsum, Nat.add_mod_right, Nat.mod_eq_of_lt (by omega)]

/-! ### Fields (R107) -/

theorem testBit_bfxValue (t : IType) (a c k : Nat) :
    (bfxValue t a c).testBit k =
      if fieldLen c = 0 then false else if k < fieldLen c then (IType.val t a).testBit (k + fieldPos c)
      else t.signed && (IType.val t a).testBit (fieldLen c - 1 + fieldPos c) := by
  unfold bfxValue
  generalize fieldLen c = len
  generalize IType.val t a = x
  by_cases hl : len = 0
  · simp only [hl, if_true]
    exact Nat.zero_testBit k
  simp only [if_neg hl]
  have hf (j : Nat) : (x / 2 ^ fieldPos c % 2 ^ len).toNat.testBit j = (decide (j < len) && x.testBit (j + fieldPos c)) := by
    rw [testBit_toNat_emod, testBit_ediv_two_pow]
  have hlt : (x / 2 ^ fieldPos c % 2 ^ len).toNat < 2 ^ len :=
    Nat.lt_pow_two_of_testBit _ (fun j hj => by rw [hf]; simp [hj])
  generalize (x / 2 ^ fieldPos c % 2 ^ len).toNat = f at hf hlt ⊢
  have htop : len - 1 < len := by omega
  cases t.signed with
  | true =>
    simp only [true_and]
    rw [testBit_signed hlt, hf]
    split <;> simp_all
  | false =>
    simp only [Bool.false_eq_true, false_and, if_false, testBit_natCast, hf, Bool.false_and]
    split <;> simp_all

theorem testBit_bfiValue (a c v k : Nat) :
    (bfiValue a c v).testBit k = if fieldPos c ≤ k ∧ k < fieldPos c + fieldLen c then v.testBit (k - fieldPos c) else a.testBit k := by
  simp only [bfiValue, Nat.testBit_or, Nat.testBit_xor, Nat.testBit_and, Nat.testBit_mul_two_pow, Nat.testBit_two_pow_sub_one,
    Nat.testBit_mod_two_pow]
  by_cases hp : fieldPos c ≤ k
  · have hiff : k - fieldPos c < fieldLen c ↔ k < fieldPos c + fieldLen c := by omega
    by_cases hl : k < fieldPos c + fieldLen c <;> simp [hp, hl, hiff]
  · simp [hp]

/-! ### Reversal (R108) -/

theorem bitReverse_lt (w n : Nat) : bitReverse w n < 2 ^ w := by
  induction w generalizing n with
  | zero => exact Nat.one_pos
  | succ w ih =>
    have hrest := ih (n / 2)
    have hbit : n % 2 * 2 ^ w ≤ 1 * 2 ^ w := Nat.mul_le_mul_right _ (by omega)
    rw [bitReverse, Nat.pow_succ]
    omega

theorem testBit_bitReverse (w n k : Nat) (hk : k < w) : (bitReverse w n).testBit k = n.testBit (w - 1 - k) := by
  induction w generalizing n k with
  | zero => omega
  | succ w ih =>
    rw [bitReverse, Nat.mul_comm, Nat.testBit_two_pow_mul_add _ (bitReverse_lt w (n / 2))]
    split
    next h =>
      rw [ih _ _ h, Nat.testBit_div_two]
      congr 1
      omega
    next h =>
      have hw : k = w := by omega
      subst hw
      simp [Nat.testBit_zero]

end Sys2Proof.Machine
end

section
/-! The meanings of the integer instructions: every form of an instruction goes through its meaning with its own checks, and each shape of
meaning has one effect where the instruction issues. -/
namespace Sys2Proof.Machine
open Claims

/-- The meaning that `exec` gives each instruction of R102, R103 and R105 to R108, as a function of the checks that its form makes. -/
def intMeaning : Instr → Option (Checks → State → State)
  | .add o m => some (fun c => addOp c o m)
  | .sub o m => some (fun c => subOp c o m)
  | .mul o m => some (fun c => mulOp c o m)
  | .mad o m => some (fun c => madOp c o m)
  | .min o m => some (fun c => minOp c o m)
  | .max o m => some (fun c => maxOp c o m)
  | .abs o m => some (fun c => absOp c o m)
  | .neg o m => some (fun c => negOp c o m)
  | .mulh o m => some (fun c => mulhOp c o m)
  | .div o m => some (fun c => divOp c o m)
  | .rem o m => some (fun c => remOp c o m)
  | .and o m => some (fun c => andOp c o m)
  | .or o m => some (fun c => orOp c o m)
  | .xor o m => some (fun c => xorOp c o m)
  | .andn o m => some (fun c => andnOp c o m)
  | .shl o m => some (fun c => shlOp c o m)
  | .shr o m => some (fun c => shrOp c o m)
  | .sar o m => some (fun c => sarOp c o m)
  | .rot o m => some (fun c => rotOp c o m)
  | .bfx o m => some (fun c => bfxOp c o m)
  | .bfi o m => some (fun c => bfiOp c o m)
  | .brev o m => some (fun c => brevOp c o m)
  | _ => none

/-- R57: an instruction and its S32 form have one meaning, each with its own checks. -/
theorem exec_intMeaning {i : Instr} {f : Checks → State → State} (h : intMeaning i.long = some f) (s : State) :
    exec i s = .next (f i.checks s) := by
  -- `h` excludes the instructions without such a meaning; for each of the others it names the one that `exec` calls.
  cases i <;> cases h <;> rfl

/-- Where an instruction issues, a meaning that completes has its effect, and the thread goes on at the next start. -/
theorem completes_of_issues {s : State} {i : Instr} (h : s.issues i = true) (act : State → State) :
    completes i.checks act s = (act s).advanceBy i.syllables :=
  issue_of_issues h (fun s => (act s).advance i.checks)

/-! ### The effect of each shape of meaning -/

section
variable {s : State} {i : Instr} (h : s.issues i = true) (o : LOps) (m : IntMod)
include h

/-- A meaning that writes one integer result. -/
theorem completes_wrInt (v : State → Int) :
    completes i.checks (fun s => s.wrInt o.d m.ty (v s)) s = (iput s o.d m.ty (v s)).advanceBy i.syllables := by
  rw [completes_of_issues h, wrInt_eq_iput]

theorem intOp2_effect (f : Int → Int → Int) :
    intOp2 f i.checks o m s = (iput s o.d m.ty (ifit m (f (isrc s m.ty o.a) (iarg s o m.ty)))).advanceBy i.syllables := by
  rw [intOp2, completes_wrInt h o m, fit_eq_ifit, intSrc_eq_isrc, intB_eq_iarg]

theorem intOp1_effect (f : Int → Int) :
    intOp1 f i.checks o m s = (iput s o.d m.ty (ifit m (f (isrc s m.ty o.a)))).advanceBy i.syllables := by
  rw [intOp1, completes_wrInt h o m, fit_eq_ifit, intSrc_eq_isrc]

theorem logicOp_effect (f : Nat → Nat → Nat) :
    logicOp f i.checks o m s =
      (iput s o.d m.ty (f (operandBits s m.ty o.a) (iarg s o m.ty % 2 ^ m.ty.width).toNat : Nat)).advanceBy i.syllables := by
  rw [logicOp, completes_wrInt h o m, intSrc_eq_isrc, intB_eq_iarg, isrc_emod, Int.toNat_natCast]

theorem shiftOp_effect (f : IType → Nat → Nat → Int) :
    shiftOp f i.checks o m s = (iput s o.d m.ty (f m.ty (operandBits s m.ty o.a) (icount s o))).advanceBy i.syllables := by
  rw [shiftOp, completes_wrInt h o m, countB_eq_icount, operandBits]

theorem madOp_effect : madOp i.checks o m s =
    (iput s o.d m.ty (ifit m (isrc s m.ty o.a * iarg s o m.ty + isrc s m.ty o.c))).advanceBy i.syllables := by
  rw [madOp, completes_wrInt h o m, fit_eq_ifit, intSrc_eq_isrc, intSrc_eq_isrc, intB_eq_iarg]

theorem mulhOp_effect : mulhOp i.checks o m s =
    (iput s o.d m.ty ((isrc s m.ty o.a * iarg s o m.ty).fdiv (2 ^ m.ty.width))).advanceBy i.syllables := by
  rw [mulhOp, completes_wrInt h o m, intSrc_eq_isrc, intB_eq_iarg, Int.fdiv_eq_ediv_of_nonneg _ (by positivity)]

theorem divOp_effect : divOp i.checks o m s =
    (iput s o.d m.ty (divValue m (isrc s m.ty o.a) (iarg s o m.ty))).advanceBy i.syllables := by
  rw [divOp, completes_wrInt h o m, intSrc_eq_isrc, intB_eq_iarg]

theorem remOp_effect : remOp i.checks o m s =
    (iput s o.d m.ty (remValue (isrc s m.ty o.a) (iarg s o m.ty))).advanceBy i.syllables := by
  rw [remOp, completes_wrInt h o m, intSrc_eq_isrc, intB_eq_iarg]

theorem bfiOp_effect : bfiOp i.checks o m s =
    (iput s o.d m.ty (bfiValue (operandBits s m.ty o.a) (icount s o) (operandBits s m.ty o.c) : Nat)).advanceBy i.syllables := by
  simp only [bfiOp]
  rw [completes_wrInt h o m, countB_eq_icount, operandBits, operandBits]

end

/-! ### Reversal (R108) -/

/-- `BREV` has no S32 form. -/
theorem eq_brev_of_long {i : Instr} {o : LOps} {m : IntMod} (h : i.long = .brev o m) : i = .brev o m := by
  cases i <;> cases h
  rfl

theorem Shape.ok_of_legal {sh : Shape} {o : LOps} (h : sh.legal o = true) : sh.ok = true := by
  simp only [Shape.legal, Bool.and_eq_true] at h
  obtain ⟨⟨⟨⟨⟨-, hok⟩, -⟩, -⟩, -⟩, -⟩ := h
  exact hok

/-- R101: `BREV` is legal in the natural types of 32 and 64 bits alone. -/
theorem brev_type {s : State} {o : LOps} {m : IntMod} (h : s.issues (.brev o m) = true) : m.ty = .n32 ∨ m.ty = .n64 := by
  obtain ⟨hchecks, -⟩ := issues_checks h
  obtain ⟨hlegal, -⟩ := (Bool.and_eq_true _ _).mp hchecks
  have hok : (m.n32n64 && (false || !m.sat) && m.cp == 0 && m.sub == 0) = true := Shape.ok_of_legal hlegal
  simp only [IntMod.n32n64, Bool.and_eq_true, Bool.or_eq_true, beq_iff_eq] at hok
  obtain ⟨⟨⟨htype, -⟩, -⟩, -⟩ := hok
  exact htype

/-- A natural result of 32 or 64 bits needs no extension. -/
theorem intWords_natural {t : IType} (ht : t = .n32 ∨ t = .n64) {n : Nat} (hn : n < 2 ^ t.width) : intWords t n = natWords (IType.regs t) n := by
  have hmod : ((n : Int) % 2 ^ t.width).toNat = n := by
    rw [← natCast_two_pow, ← Int.natCast_mod, Int.toNat_natCast, Nat.mod_eq_of_lt hn]
  rw [intWords, hmod]
  rcases ht with rfl | rfl
  · have hval : IType.val .n32 n = n := by rw [IType.val, Nat.mod_eq_of_lt hn]; rfl
    rw [hval, BitVec.ofInt_natCast]
    rfl
  · rfl

theorem wrNat_eq_iput (s : State) (d : Reg) {t : IType} (ht : t = .n32 ∨ t = .n64) {n : Nat} (hn : n < 2 ^ t.width) :
    s.wrNat d (IType.regs t) n = iput s d t n := by
  rw [← wrInt_eq_iput, State.wrInt, State.wrNat, intWords_natural ht hn]
  rcases ht with rfl | rfl <;> rfl

theorem brevOp_effect {s : State} {o : LOps} {m : IntMod} (h : s.issues (.brev o m) = true) :
    brevOp (Instr.brev o m).checks o m s =
      (iput s o.d m.ty (bitReverse m.ty.width (s.me.rdNat o.a (IType.regs m.ty)) : Nat)).advanceBy (Instr.brev o m).syllables := by
  rw [brevOp, completes_of_issues h, wrNat_eq_iput s o.d (brev_type h) (bitReverse_lt _ _)]

end Sys2Proof.Machine
end

section
/-! Integer arithmetic (R102, R103): the value that each instruction writes. -/
namespace Sys2Proof.Machine
open Claims

/-- R103: a quotient by zero is all ones, or the limit of a saturating signed type that the sign of the dividend gives. The model forms all ones as -1. -/
theorem divValue_emod (m : IntMod) (a b : Int) :
    divValue m a b % 2 ^ m.ty.width =
      (if b = 0 then (if m.sat ∧ m.ty.signed then (if 0 ≤ a then 2 ^ (m.ty.width - 1) - 1 else -2 ^ (m.ty.width - 1)) else 2 ^ m.ty.width - 1)
        else ifit m (a.tdiv b)) % 2 ^ m.ty.width := by
  unfold divValue
  rw [fit_eq_ifit]
  by_cases hb : b = 0
  · simp only [if_pos hb]
    by_cases hs : m.sat = true ∧ m.ty.signed = true
    · obtain ⟨hsat, hsigned⟩ := hs
      simp only [hsat, hsigned, IType.hi, IType.lo, and_self, if_true]
    · simp only [if_neg hs]
      rw [← Int.add_emod_right (-1), neg_add_eq_sub]
  · simp only [if_neg hb]

theorem remValue_eq (a b : Int) : remValue a b = if b = 0 then a else a - a.tdiv b * b := by
  rw [remValue, Int.tmod_def, mul_comm b]

/-- The meaning of an arithmetic instruction writes the value of R102 and R103. -/
theorem arith_meaning {s : State} {j : Instr} {o : LOps} {m : IntMod} {v : Int} (h : arith s j = some (o, m, v)) :
    ∃ f, intMeaning j = some f ∧ ∀ i : Instr, s.issues i = true → f i.checks s = (iput s o.d m.ty v).advanceBy i.syllables := by
  cases j <;> cases h
  case add => exact ⟨_, rfl, fun i hi => intOp2_effect hi o m (· + ·)⟩
  case sub => exact ⟨_, rfl, fun i hi => intOp2_effect hi o m (· - ·)⟩
  case mul => exact ⟨_, rfl, fun i hi => intOp2_effect hi o m (· * ·)⟩
  case mad => exact ⟨_, rfl, fun i hi => madOp_effect hi o m⟩
  case min => exact ⟨_, rfl, fun i hi => by rw [minOp, intOp2_effect hi o m, min_def]⟩
  case max => exact ⟨_, rfl, fun i hi => by rw [maxOp, intOp2_effect hi o m, max_def]⟩
  case abs => exact ⟨_, rfl, fun i hi => by rw [absOp, intOp1_effect hi o m, Int.natCast_natAbs]⟩
  case neg => exact ⟨_, rfl, fun i hi => intOp1_effect hi o m (fun a => -a)⟩
  case mulh => exact ⟨_, rfl, fun i hi => mulhOp_effect hi o m⟩
  case div => exact ⟨_, rfl, fun i hi => by rw [divOp_effect hi o m, iput_congr s o.d m.ty (divValue_emod m _ _)]⟩
  case rem => exact ⟨_, rfl, fun i hi => by rw [remOp_effect hi o m, remValue_eq]⟩

/-- Settles O21: every form of an arithmetic instruction goes through its meaning, which writes the value of the claim. -/
theorem integerArithmeticCompletes : Obligations.IntegerArithmeticCompletes := by
  unfold Obligations.IntegerArithmeticCompletes
  intro i s o m v hissues harith
  obtain ⟨f, hmeaning, heffect⟩ := arith_meaning harith
  rw [CompletesTo, exec_intMeaning hmeaning, heffect i hissues]

end Sys2Proof.Machine
end

section
/-! The logic, shift and field instructions (R105 to R108): the bits that each instruction writes. -/
namespace Sys2Proof.Machine
open Claims

/-- `t` is `s` after an integer result whose bits below the type's width are those of `g`, at the start that follows `i`. -/
def WritesBits (i : Instr) (s t : State) (o : LOps) (m : IntMod) (g : Nat → Bool) : Prop :=
  ∃ v : Int, (∀ k < m.ty.width, v.testBit k = g k) ∧ t = (iput s o.d m.ty v).advanceBy i.syllables

section
variable {s : State} {i : Instr} (h : s.issues i = true) (o : LOps) (m : IntMod)
include h

/-- R105: a bitwise instruction combines the operands bit by bit. -/
theorem logicOp_writesBits (f : Nat → Nat → Nat) (op : Bool → Bool → Bool)
    (hop : ∀ a b k, (f a b).testBit k = op (a.testBit k) (b.testBit k)) :
    WritesBits i s (logicOp f i.checks o m s) o m (fun k => op (abit s o m k) (bbit s o m k)) := by
  refine ⟨_, fun k hk => ?_, logicOp_effect h o m f⟩
  rw [testBit_natCast, hop, ← abit_eq, testBit_toNat_emod, decide_eq_true hk, Bool.true_and]
  rfl

/-- R106, R107: an instruction of a source and a count, where its bits are known for every operand of the type's width. -/
theorem shiftOp_writesBits (f : IType → Nat → Nat → Int) (g : Nat → Bool)
    (hf : ∀ k < m.ty.width, (f m.ty (operandBits s m.ty o.a) (icount s o)).testBit k = g k) :
    WritesBits i s (shiftOp f i.checks o m s) o m g :=
  ⟨_, hf, shiftOp_effect h o m f⟩

theorem bfiOp_writesBits : WritesBits i s (bfiOp i.checks o m s) o m (fun k =>
    if icount s o % 256 ≤ k ∧ k < icount s o % 256 + icount s o / 256 % 256 then cbit s o m (k - icount s o % 256) else abit s o m k) := by
  refine ⟨_, fun k hk => ?_, bfiOp_effect h o m⟩
  have hlt : k - fieldPos (icount s o) < m.ty.width := by omega
  rw [testBit_natCast, testBit_bfiValue, testBit_operandBits, ← abit_eq, decide_eq_true hlt, Bool.true_and]
  rfl

end

theorem brevOp_writesBits {s : State} {o : LOps} {m : IntMod} (h : s.issues (.brev o m) = true) :
    WritesBits (.brev o m) s (brevOp (Instr.brev o m).checks o m s) o m (fun k => abit s o m (m.ty.width - 1 - k)) := by
  refine ⟨_, fun k hk => ?_, brevOp_effect h⟩
  have hlt : m.ty.width - 1 - k < m.ty.width := by omega
  show _ = abit s o m (m.ty.width - 1 - k)
  rw [testBit_natCast, testBit_bitReverse _ _ _ hk, abit_eq, operandBits, Nat.testBit_mod_two_pow, decide_eq_true hlt, Bool.true_and]

/-- `A ∧ ¬B` as the model forms it. -/
theorem testBit_without (a b k : Nat) : (a ^^^ (a &&& b)).testBit k = (a.testBit k && !b.testBit k) := by
  rw [Nat.testBit_xor, Nat.testBit_and]
  cases a.testBit k <;> simp

/-- The meaning of an instruction that works on bits writes those of R105 to R108. -/
theorem resultBit_meaning {s : State} {j : Instr} {o : LOps} {m : IntMod} {g : Nat → Bool} (h : resultBit s j = some (o, m, g)) :
    ∃ f, intMeaning j = some f ∧ ∀ i : Instr, i.long = j → s.issues i = true → WritesBits i s (f i.checks s) o m g := by
  have hlt := operandBits_lt s m.ty o.a
  cases j <;> cases h
  case and => exact ⟨_, rfl, fun i _ hi => logicOp_writesBits hi o m (· &&& ·) (· && ·) Nat.testBit_and⟩
  case or => exact ⟨_, rfl, fun i _ hi => logicOp_writesBits hi o m (· ||| ·) (· || ·) Nat.testBit_or⟩
  case xor => exact ⟨_, rfl, fun i _ hi => logicOp_writesBits hi o m (· ^^^ ·) (· != ·) Nat.testBit_xor⟩
  case andn => exact ⟨_, rfl, fun i _ hi => logicOp_writesBits hi o m _ (fun a b => a && !b) testBit_without⟩
  case shl => exact ⟨_, rfl, fun i _ hi => shiftOp_writesBits hi o m shlValue _ (fun k hk => by rw [testBit_shlValue _ _ _ hk, abit_eq])⟩
  case shr => exact ⟨_, rfl, fun i _ hi => shiftOp_writesBits hi o m shrValue _ (fun k _ => by rw [testBit_shrValue hlt, abit_eq])⟩
  case sar => exact ⟨_, rfl, fun i _ hi => shiftOp_writesBits hi o m sarValue _ (fun k _ => by rw [testBit_sarValue hlt, abit_eq])⟩
  case rot => exact ⟨_, rfl, fun i _ hi => shiftOp_writesBits hi o m rotValue _ (fun k hk => by rw [testBit_rotValue hlt _ hk, abit_eq])⟩
  case bfx =>
    refine ⟨_, rfl, fun i _ hi => shiftOp_writesBits hi o m bfxValue _ (fun k _ => ?_)⟩
    rw [testBit_bfxValue, val_operandBits]
    rfl
  case bfi => exact ⟨_, rfl, fun i _ hi => bfiOp_writesBits hi o m⟩
  case brev =>
    refine ⟨_, rfl, fun i hlong hi => ?_⟩
    obtain rfl := eq_brev_of_long hlong
    exact brevOp_writesBits hi

/-- Settles O22: every form of a logic, shift or field instruction goes through its meaning, which writes the bits of the claim. -/
theorem integerBitsComplete : Obligations.IntegerBitsComplete := by
  unfold Obligations.IntegerBitsComplete
  intro i s o m g hissues hbits
  obtain ⟨f, hmeaning, heffect⟩ := resultBit_meaning hbits
  obtain ⟨v, hv, hstate⟩ := heffect i rfl hissues
  exact ⟨v, hv, by rw [CompletesTo, exec_intMeaning hmeaning, hstate]⟩

end Sys2Proof.Machine
end

section
/-! The sign of a floating-point value (R134): a number with a bit put in place of its top bit, and the operands and results of the formats of
type set S (R129), which as the model reads and writes them are those of the claims. -/
namespace Sys2Proof.Machine
open Claims

/-! ### A number from its bits -/

/-- The number whose bits below `w` are those of `g`, and which has no others. -/
def numOfBits (g : Nat → Bool) (w : Nat) : Nat := (List.range w).foldl (fun n k => n + (if g k then 2 ^ k else 0)) 0

theorem numOfBits_succ (g : Nat → Bool) (w : Nat) : numOfBits g (w + 1) = numOfBits g w + (if g w then 2 ^ w else 0) := by
  simp only [numOfBits, List.range_succ, List.foldl_append, List.foldl_cons, List.foldl_nil]

theorem numOfBits_eq_mod {g : Nat → Bool} {a w : Nat} (h : ∀ k < w, g k = a.testBit k) : numOfBits g w = a % 2 ^ w := by
  induction w with
  | zero => simp [numOfBits, Nat.mod_one]
  | succ w ih =>
    have hlow : numOfBits g w = a % 2 ^ w := ih (fun k hk => h k (by omega))
    rw [numOfBits_succ, hlow, h w (by omega), Nat.mod_pow_succ, Nat.testBit_eq_decide_div_mod_eq]
    rcases Nat.mod_two_eq_zero_or_one (a / 2 ^ w) with hbit | hbit <;> simp [hbit]

/-- The lowest `w` bits of `a`, with `sgn` in place of the top one. -/
def withSign (w a : Nat) (sgn : Bool) : Nat := numOfBits (fun k => if k = w - 1 then sgn else a.testBit k) w

theorem withSign_eq {w : Nat} (hw : 0 < w) (a : Nat) (sgn : Bool) :
    withSign w a sgn = a % 2 ^ (w - 1) + (if sgn then 2 ^ (w - 1) else 0) := by
  obtain ⟨n, rfl⟩ := Nat.exists_eq_succ_of_ne_zero hw.ne'
  have hlow : ∀ k < n, (if k = n then sgn else a.testBit k) = a.testBit k := fun k hk => if_neg hk.ne
  rw [withSign, numOfBits_succ, Nat.succ_sub_one, numOfBits_eq_mod hlow, if_pos rfl]

/-! ### Operands and results of type set S (R129) -/

/-- The bits of a value of a format of type set S. -/
def widthOfS (f : Fmt) : Nat := if f = .f64 then 64 else if f = .f32 then 32 else 16

theorem widthOfS_pos (f : Fmt) : 0 < widthOfS f := by
  unfold widthOfS
  split_ifs <;> decide

/-- The formats of type set S. -/
theorem Fmt.cases_of_inS {f : Fmt} (h : f.inS = true) : f = .f64 ∨ f = .f32 ∨ f = .bf16 ∨ f = .f16 := by
  cases f <;> simp_all [Fmt.inS]

theorem fmtWidth_eq_widthOfS {f : Fmt} (h : f.inS = true) : fmtWidth f = widthOfS f := by
  rcases Fmt.cases_of_inS h with rfl | rfl | rfl | rfl <;> rfl

theorem fpSrc_eq_fbits (s : State) {f : Fmt} (h : f.inS = true) (r : Reg) : fpSrc s f r = fbits s f r := by
  have hpair : s.me.rdNat r 2 = (s.me.rd2 r).toNat := rdNat_regs s.me .n64 r
  have hone : s.me.rdNat r 1 = (s.me.rd r).toNat := rdNat_regs s.me .n32 r
  rcases Fmt.cases_of_inS h with rfl | rfl | rfl | rfl
  · exact (congrArg (· % 2 ^ 64) hpair).trans (Nat.mod_eq_of_lt (s.me.rd2 r).isLt)
  · exact (congrArg (· % 2 ^ 32) hone).trans (Nat.mod_eq_of_lt (s.me.rd r).isLt)
  · exact congrArg (· % 2 ^ 16) hone
  · exact congrArg (· % 2 ^ 16) hone

theorem fpB_eq_farg (s : State) (o : LOps) {f : Fmt} (h : f.inS = true) : fpB s o f = farg s o f := by
  unfold fpB farg
  cases o.lit with
  | none => exact fpSrc_eq_fbits s h o.b
  | some l =>
    rcases Fmt.cases_of_inS h with rfl | rfl | rfl | rfl
    · rfl
    · exact Nat.mod_eq_of_lt l.isLt
    · rfl
    · rfl

theorem natWords_two (n : Nat) : natWords 2 n = [(BitVec.ofNat 64 n).setWidth 32, (BitVec.ofNat 64 n >>> 32).setWidth 32] := by
  have hlow : (BitVec.ofNat 64 n).setWidth 32 = BitVec.ofNat 32 n := by bv_omega
  have hhigh : (BitVec.ofNat 64 n >>> 32).setWidth 32 = BitVec.ofNat 32 (n / 2 ^ 32) := by
    apply BitVec.eq_of_toNat_eq
    simp only [BitVec.toNat_setWidth, BitVec.toNat_ushiftRight, BitVec.toNat_ofNat, Nat.shiftRight_eq_div_pow]
    omega
  rw [hlow, hhigh]
  rfl

theorem Fmt.regs_of_ne_f64 {f : Fmt} (h : f ≠ .f64) : f.regs = 1 := by
  unfold Fmt.regs
  split
  · contradiction
  · rfl

theorem wrNat_eq_fput (s : State) (d : Reg) (f : Fmt) (n : Nat) : s.wrNat d f.regs n = fput s d f n := by
  by_cases h : f = .f64
  · subst h
    show s.wrNat d 2 n = s.wr2 d (BitVec.ofNat 64 n)
    rw [State.wrNat, natWords_two]
    rfl
  · rw [Fmt.regs_of_ne_f64 h, fput, if_neg h]
    show s.upd (fun x => (x.wr d _).mend d 1) = s.upd (·.wr d _)
    simp only [Thread.mend_one]

end Sys2Proof.Machine
end

section
/-! `ABS`, `NEG` and `CPYSGN` (R134): one meaning, which puts the sign that each names in place of the top bit of A. -/
namespace Sys2Proof.Machine
open Claims

/-- R129: a row of the sign instructions is legal in the formats of type set S alone. -/
theorem inS_of_legal {m : FpMod} {w96 : Bool} {d b : Kind} {o : LOps} (h : (shFpPlain m w96 d b).legal o = true) : m.ty.inS = true := by
  have hok : ((m.ty.inS && m.plain) && m.sub == 0) = true := Shape.ok_of_legal h
  simp only [Bool.and_eq_true] at hok
  obtain ⟨⟨htype, -⟩, -⟩ := hok
  exact htype

theorem legal_of_issues {s : State} {i : Instr} (h : s.issues i = true) : i.checks.legal (s.bank s.me) = true := by
  obtain ⟨hchecks, -⟩ := issues_checks h
  exact ((Bool.and_eq_true _ _).mp hchecks).1

/-- Where an instruction issues whose meaning is a sign operation, it writes A with the sign that `f` makes of the signs of A and B. -/
theorem signOp_effect {s : State} {i : Instr} (h : s.issues i = true) {m : FpMod} (hty : m.ty.inS = true) (f : Bool → Bool → Bool) (o : LOps) :
    signOp f i.checks o m s =
      (fput s o.d m.ty (withSign (widthOfS m.ty) (fbits s m.ty o.a)
        (f ((fbits s m.ty o.a).testBit (widthOfS m.ty - 1)) ((farg s o m.ty).testBit (widthOfS m.ty - 1))))).advanceBy i.syllables := by
  simp only [signOp]
  rw [completes_of_issues h, wrNat_eq_fput, fpSrc_eq_fbits s hty, fpB_eq_farg s o hty, fmtWidth_eq_widthOfS hty,
    withSign_eq (widthOfS_pos m.ty)]

theorem fpAbs_completes {s : State} {o : LOps} {m : FpMod} (h : s.issues (.fpAbs o m) = true) :
    CompletesTo (.fpAbs o m) s (fput s o.d m.ty (withSign (widthOfS m.ty) (fbits s m.ty o.a) false)) :=
  congrArg Host.Outcome.next (signOp_effect h (inS_of_legal (legal_of_issues h)) (fun _ _ => false) o)

theorem fpNeg_completes {s : State} {o : LOps} {m : FpMod} (h : s.issues (.fpNeg o m) = true) :
    CompletesTo (.fpNeg o m) s (fput s o.d m.ty (withSign (widthOfS m.ty) (fbits s m.ty o.a) (!(fbits s m.ty o.a).testBit (widthOfS m.ty - 1)))) :=
  congrArg Host.Outcome.next (signOp_effect h (inS_of_legal (legal_of_issues h)) (fun a _ => !a) o)

theorem cpysgn_completes {s : State} {o : LOps} {m : FpMod} (h : s.issues (.cpysgn o m) = true) :
    CompletesTo (.cpysgn o m) s (fput s o.d m.ty (withSign (widthOfS m.ty) (fbits s m.ty o.a) ((farg s o m.ty).testBit (widthOfS m.ty - 1)))) :=
  congrArg Host.Outcome.next (signOp_effect h (inS_of_legal (legal_of_issues h)) (fun _ b => b) o)

/-- Settles O27: each of the three is a sign operation, which the claim describes bit by bit. -/
theorem signInstructionsComplete : Obligations.SignInstructionsComplete := by
  unfold Obligations.SignInstructionsComplete
  intro i o m s h
  refine ⟨?abs, ?neg, ?cpysgn⟩
  case abs => rintro rfl; exact fpAbs_completes h
  case neg => rintro rfl; exact fpNeg_completes h
  case cpysgn => rintro rfl; exact cpysgn_completes h

end Sys2Proof.Machine
end
